-- ==== Sys2Proof/Word.lean ====
section
/-! DEFINITION. The word types of the part (R6, R49): bytes, 32-bit registers, 64-bit addresses and pairs,
128-byte cache lines. -/
namespace Sys2Proof

/-- One byte of memory. -/
abbrev Byte := BitVec 8

/-- A general register (R49). -/
abbrev Word := BitVec 32

/-- An address, a register pair, a latch (R21, R49). -/
abbrev DWord := BitVec 64

/-- A register quad (R49). -/
abbrev QWord := BitVec 128

/-- The 128 bytes of a cache line, byte i in bits [8i+7:8i] (R2). -/
abbrev LineData := BitVec 1024

/-- Keyed data: a list of (key, value) pairs in ascending key order, no key twice. -/
abbrev AMap (α : Type) := List (Nat × α)

end Sys2Proof
end

