-- ==== Sys2Proof/Machine/Fields.lean ====
section
/-! DEFINITION. The bit fields of an instruction word, of M in each class, of the argument fields that the class
entries divide further, and of an entry word (R12, R29, R35, R212, R231), as records with the word they are packed
in. A record's `toNat` is the unsigned value of the fields, the first listed highest. -/
namespace Sys2Proof

/-- The n-bit field of `x` that starts at bit `lo`. -/
def fld (x lo n : Nat) : BitVec n := BitVec.ofNat n (x / 2 ^ lo)

/-- Bit `lo` of `x`. -/
def flag (x lo : Nat) : Bool := x / 2 ^ lo % 2 == 1

/-- Fields of R12, from the high bit down; 96 bits. -/
structure Fields where
  opc : BitVec 12
  g : BitVec 4
  h : BitVec 6
  k : BitVec 1
  d : BitVec 9
  a : BitVec 10
  b : BitVec 10
  c : BitVec 10
  m : BitVec 34
  deriving DecidableEq, Repr

/-- The value of the packed fields (R12). -/
def Fields.toNat (r : Fields) : Nat :=
  r.opc.toNat * 2 ^ 84 + r.g.toNat * 2 ^ 80 + r.h.toNat * 2 ^ 74 + r.k.toNat * 2 ^ 73 + r.d.toNat * 2 ^ 64 +
  r.a.toNat * 2 ^ 54 + r.b.toNat * 2 ^ 44 + r.c.toNat * 2 ^ 34 + r.m.toNat

/-- The fields of a 96-bit value (R12). -/
def Fields.ofNat (x : Nat) : Fields where
  opc := fld x 84 12
  g := fld x 80 4
  h := fld x 74 6
  k := fld x 73 1
  d := fld x 64 9
  a := fld x 54 10
  b := fld x 44 10
  c := fld x 34 10
  m := fld x 0 34

/-- Fields of R35, class 0x0, from the high bit down; 34 bits. -/
structure M0 where
  ty : BitVec 3
  sub : BitVec 4
  sat : Bool
  rsv : BitVec 2
  imm : BitVec 24
  deriving DecidableEq, Repr

/-- The value of the packed fields (R35, class 0x0). -/
def M0.toNat (r : M0) : Nat :=
  r.ty.toNat * 2 ^ 31 + r.sub.toNat * 2 ^ 27 + r.sat.toNat * 2 ^ 26 + r.rsv.toNat * 2 ^ 24 + r.imm.toNat

/-- The fields of a 34-bit value (R35, class 0x0). -/
def M0.ofNat (x : Nat) : M0 where
  ty := fld x 31 3
  sub := fld x 27 4
  sat := flag x 26
  rsv := fld x 24 2
  imm := fld x 0 24

/-- Fields of R35, class 0x1, from the high bit down; 34 bits. -/
structure M1 where
  ty : BitVec 2
  rnd : BitVec 3
  ftz : Bool
  sub : BitVec 4
  rsv : BitVec 4
  imm : BitVec 20
  deriving DecidableEq, Repr

/-- The value of the packed fields (R35, class 0x1). -/
def M1.toNat (r : M1) : Nat :=
  r.ty.toNat * 2 ^ 32 + r.rnd.toNat * 2 ^ 29 + r.ftz.toNat * 2 ^ 28 + r.sub.toNat * 2 ^ 24 + r.rsv.toNat * 2 ^ 20 +
  r.imm.toNat

/-- The fields of a 34-bit value (R35, class 0x1). -/
def M1.ofNat (x : Nat) : M1 where
  ty := fld x 32 2
  rnd := fld x 29 3
  ftz := flag x 28
  sub := fld x 24 4
  rsv := fld x 20 4
  imm := fld x 0 20

/-- Fields of R35, class 0x2, from the high bit down; 34 bits. -/
structure M2 where
  df : BitVec 4
  sf : BitVec 4
  rnd : BitVec 3
  ftz : Bool
  sat : Bool
  x2 : Bool
  imm : BitVec 20
  deriving DecidableEq, Repr

/-- The value of the packed fields (R35, class 0x2). -/
def M2.toNat (r : M2) : Nat :=
  r.df.toNat * 2 ^ 30 + r.sf.toNat * 2 ^ 26 + r.rnd.toNat * 2 ^ 23 + r.ftz.toNat * 2 ^ 22 + r.sat.toNat * 2 ^ 21 +
  r.x2.toNat * 2 ^ 20 + r.imm.toNat

/-- The fields of a 34-bit value (R35, class 0x2). -/
def M2.ofNat (x : Nat) : M2 where
  df := fld x 30 4
  sf := fld x 26 4
  rnd := fld x 23 3
  ftz := flag x 22
  sat := flag x 21
  x2 := flag x 20
  imm := fld x 0 20

/-- Fields of R35, class 0x3, from the high bit down; 34 bits. -/
structure M3 where
  w64 : Bool
  rsv : BitVec 1
  func : BitVec 8
  imm : BitVec 24
  deriving DecidableEq, Repr

/-- The value of the packed fields (R35, class 0x3). -/
def M3.toNat (r : M3) : Nat :=
  r.w64.toNat * 2 ^ 33 + r.rsv.toNat * 2 ^ 32 + r.func.toNat * 2 ^ 24 + r.imm.toNat

/-- The fields of a 34-bit value (R35, class 0x3). -/
def M3.ofNat (x : Nat) : M3 where
  w64 := flag x 33
  rsv := fld x 32 1
  func := fld x 24 8
  imm := fld x 0 24

/-- Fields of R35, class 0x4, from the high bit down; 34 bits. -/
structure M4 where
  sub : BitVec 4
  arg6 : BitVec 6
  off : BitVec 24
  deriving DecidableEq, Repr

/-- The value of the packed fields (R35, class 0x4). -/
def M4.toNat (r : M4) : Nat :=
  r.sub.toNat * 2 ^ 30 + r.arg6.toNat * 2 ^ 24 + r.off.toNat

/-- The fields of a 34-bit value (R35, class 0x4). -/
def M4.ofNat (x : Nat) : M4 where
  sub := fld x 30 4
  arg6 := fld x 24 6
  off := fld x 0 24

/-- Fields of R35, classes 0x5 and 0x6, from the high bit down; 34 bits. -/
structure M5 where
  size : BitVec 3
  scope : BitVec 3
  order : BitVec 2
  space : BitVec 2
  opx : BitVec 4
  scale : BitVec 2
  disp : BitVec 18
  deriving DecidableEq, Repr

/-- The value of the packed fields (R35, classes 0x5 and 0x6). -/
def M5.toNat (r : M5) : Nat :=
  r.size.toNat * 2 ^ 31 + r.scope.toNat * 2 ^ 28 + r.order.toNat * 2 ^ 26 + r.space.toNat * 2 ^ 24 + r.opx.toNat * 2 ^ 20 +
  r.scale.toNat * 2 ^ 18 + r.disp.toNat

/-- The fields of a 34-bit value (R35, classes 0x5 and 0x6). -/
def M5.ofNat (x : Nat) : M5 where
  size := fld x 31 3
  scope := fld x 28 3
  order := fld x 26 2
  space := fld x 24 2
  opx := fld x 20 4
  scale := fld x 18 2
  disp := fld x 0 18

/-- Fields of R35, class 0x7, from the high bit down; 34 bits. -/
structure M7 where
  bar : BitVec 6
  obj : Bool
  sub : BitVec 7
  imm : BitVec 20
  deriving DecidableEq, Repr

/-- The value of the packed fields (R35, class 0x7). -/
def M7.toNat (r : M7) : Nat :=
  r.bar.toNat * 2 ^ 28 + r.obj.toNat * 2 ^ 27 + r.sub.toNat * 2 ^ 20 + r.imm.toNat

/-- The fields of a 34-bit value (R35, class 0x7). -/
def M7.ofNat (x : Nat) : M7 where
  bar := fld x 28 6
  obj := flag x 27
  sub := fld x 20 7
  imm := fld x 0 20

/-- Fields of R35, class 0x8, from the high bit down; 34 bits. -/
structure M8 where
  bar : BitVec 6
  arv : Bool
  rsv : BitVec 3
  arg : BitVec 24
  deriving DecidableEq, Repr

/-- The value of the packed fields (R35, class 0x8). -/
def M8.toNat (r : M8) : Nat :=
  r.bar.toNat * 2 ^ 28 + r.arv.toNat * 2 ^ 27 + r.rsv.toNat * 2 ^ 24 + r.arg.toNat

/-- The fields of a 34-bit value (R35, class 0x8). -/
def M8.ofNat (x : Nat) : M8 where
  bar := fld x 28 6
  arv := flag x 27
  rsv := fld x 24 3
  arg := fld x 0 24

/-- Fields of R35, class 0x9, from the high bit down; 34 bits. -/
structure M9 where
  bar : BitVec 6
  fmt : BitVec 4
  tr : Bool
  arg : BitVec 23
  deriving DecidableEq, Repr

/-- The value of the packed fields (R35, class 0x9). -/
def M9.toNat (r : M9) : Nat :=
  r.bar.toNat * 2 ^ 28 + r.fmt.toNat * 2 ^ 24 + r.tr.toNat * 2 ^ 23 + r.arg.toNat

/-- The fields of a 34-bit value (R35, class 0x9). -/
def M9.ofNat (x : Nat) : M9 where
  bar := fld x 28 6
  fmt := fld x 24 4
  tr := flag x 23
  arg := fld x 0 23

/-- Fields of R35, class 0xA, from the high bit down; 34 bits. -/
structure MA where
  bar : BitVec 6
  arg : BitVec 28
  deriving DecidableEq, Repr

/-- The value of the packed fields (R35, class 0xA). -/
def MA.toNat (r : MA) : Nat :=
  r.bar.toNat * 2 ^ 28 + r.arg.toNat

/-- The fields of a 34-bit value (R35, class 0xA). -/
def MA.ofNat (x : Nat) : MA where
  bar := fld x 28 6
  arg := fld x 0 28

/-- Fields of R35, class 0xB, from the high bit down; 34 bits. -/
structure MB where
  t : Bool
  sub : BitVec 5
  arg : BitVec 28
  deriving DecidableEq, Repr

/-- The value of the packed fields (R35, class 0xB). -/
def MB.toNat (r : MB) : Nat :=
  r.t.toNat * 2 ^ 33 + r.sub.toNat * 2 ^ 28 + r.arg.toNat

/-- The fields of a 34-bit value (R35, class 0xB). -/
def MB.ofNat (x : Nat) : MB where
  t := flag x 33
  sub := fld x 28 5
  arg := fld x 0 28

/-- Fields of R35, class 0xD, from the high bit down; 34 bits. -/
structure MD where
  ty : BitVec 3
  rop : BitVec 4
  arg : BitVec 27
  deriving DecidableEq, Repr

/-- The value of the packed fields (R35, class 0xD). -/
def MD.toNat (r : MD) : Nat :=
  r.ty.toNat * 2 ^ 31 + r.rop.toNat * 2 ^ 27 + r.arg.toNat

/-- The fields of a 34-bit value (R35, class 0xD). -/
def MD.ofNat (x : Nat) : MD where
  ty := fld x 31 3
  rop := fld x 27 4
  arg := fld x 0 27

/-- Fields of R231, ARG23 of MSTREAM and MGATHER, from the high bit down; 23 bits. -/
structure Arg9Stream where
  rsv : BitVec 11
  ow : Bool
  rows : BitVec 11
  deriving DecidableEq, Repr

/-- The value of the packed fields (R231, ARG23 of MSTREAM and MGATHER). -/
def Arg9Stream.toNat (r : Arg9Stream) : Nat :=
  r.rsv.toNat * 2 ^ 12 + r.ow.toNat * 2 ^ 11 + r.rows.toNat

/-- The fields of a 23-bit value (R231, ARG23 of MSTREAM and MGATHER). -/
def Arg9Stream.ofNat (x : Nat) : Arg9Stream where
  rsv := fld x 12 11
  ow := flag x 11
  rows := fld x 0 11

/-- Fields of R231, ARG23 of MLOAD, from the high bit down; 23 bits. -/
structure Arg9Load where
  rsv : BitVec 6
  sp : Bool
  n1 : BitVec 8
  k1 : BitVec 8
  deriving DecidableEq, Repr

/-- The value of the packed fields (R231, ARG23 of MLOAD). -/
def Arg9Load.toNat (r : Arg9Load) : Nat :=
  r.rsv.toNat * 2 ^ 17 + r.sp.toNat * 2 ^ 16 + r.n1.toNat * 2 ^ 8 + r.k1.toNat

/-- The fields of a 23-bit value (R231, ARG23 of MLOAD). -/
def Arg9Load.ofNat (x : Nat) : Arg9Load where
  rsv := fld x 17 6
  sp := flag x 16
  n1 := fld x 8 8
  k1 := fld x 0 8

/-- Fields of R231, ARG23 of MREAD, from the high bit down; 23 bits. -/
structure Arg9Read where
  rsv : BitVec 1
  ai : Bool
  clr : Bool
  dsp : Bool
  sat : Bool
  rnd : BitVec 3
  ofmt : BitVec 4
  rows : BitVec 11
  deriving DecidableEq, Repr

/-- The value of the packed fields (R231, ARG23 of MREAD). -/
def Arg9Read.toNat (r : Arg9Read) : Nat :=
  r.rsv.toNat * 2 ^ 22 + r.ai.toNat * 2 ^ 21 + r.clr.toNat * 2 ^ 20 + r.dsp.toNat * 2 ^ 19 + r.sat.toNat * 2 ^ 18 +
  r.rnd.toNat * 2 ^ 15 + r.ofmt.toNat * 2 ^ 11 + r.rows.toNat

/-- The fields of a 23-bit value (R231, ARG23 of MREAD). -/
def Arg9Read.ofNat (x : Nat) : Arg9Read where
  rsv := fld x 22 1
  ai := flag x 21
  clr := flag x 20
  dsp := flag x 19
  sat := flag x 18
  rnd := fld x 15 3
  ofmt := fld x 11 4
  rows := fld x 0 11

/-- Fields of R231, ARG23 of MACCLD and MZERO, from the high bit down; 23 bits. -/
structure Arg9Acc where
  rsvHi : BitVec 3
  ssp : Bool
  rsvLo : BitVec 8
  rows : BitVec 11
  deriving DecidableEq, Repr

/-- The value of the packed fields (R231, ARG23 of MACCLD and MZERO). -/
def Arg9Acc.toNat (r : Arg9Acc) : Nat :=
  r.rsvHi.toNat * 2 ^ 20 + r.ssp.toNat * 2 ^ 19 + r.rsvLo.toNat * 2 ^ 11 + r.rows.toNat

/-- The fields of a 23-bit value (R231, ARG23 of MACCLD and MZERO). -/
def Arg9Acc.ofNat (x : Nat) : Arg9Acc where
  rsvHi := fld x 20 3
  ssp := flag x 19
  rsvLo := fld x 11 8
  rows := fld x 0 11

/-- Fields of R212, ARG24 of class 0x8, from the high bit down; 24 bits. -/
structure Arg8 where
  hi : BitVec 20
  b3 : Bool
  b2 : Bool
  b1 : Bool
  b0 : Bool
  deriving DecidableEq, Repr

/-- The value of the packed fields (R212, ARG24 of class 0x8). -/
def Arg8.toNat (r : Arg8) : Nat :=
  r.hi.toNat * 2 ^ 4 + r.b3.toNat * 2 ^ 3 + r.b2.toNat * 2 ^ 2 + r.b1.toNat * 2 ^ 1 + r.b0.toNat

/-- The fields of a 24-bit value (R212, ARG24 of class 0x8). -/
def Arg8.ofNat (x : Nat) : Arg8 where
  hi := fld x 4 20
  b3 := flag x 3
  b2 := flag x 2
  b1 := flag x 1
  b0 := flag x 0

/-- Fields of R197, SUB of SHFL, from the high bit down; 7 bits. -/
structure ShflSub where
  rsv : BitVec 1
  w64 : Bool
  rel : BitVec 2
  mode : BitVec 3
  deriving DecidableEq, Repr

/-- The value of the packed fields (R197, SUB of SHFL). -/
def ShflSub.toNat (r : ShflSub) : Nat :=
  r.rsv.toNat * 2 ^ 6 + r.w64.toNat * 2 ^ 5 + r.rel.toNat * 2 ^ 3 + r.mode.toNat

/-- The fields of a 7-bit value (R197, SUB of SHFL). -/
def ShflSub.ofNat (x : Nat) : ShflSub where
  rsv := fld x 6 1
  w64 := flag x 5
  rel := fld x 3 2
  mode := fld x 0 3

/-- Fields of R198, SUB of LRED, from the high bit down; 7 bits. -/
structure LredSub where
  w64 : Bool
  form : BitVec 2
  op : BitVec 4
  deriving DecidableEq, Repr

/-- The value of the packed fields (R198, SUB of LRED). -/
def LredSub.toNat (r : LredSub) : Nat :=
  r.w64.toNat * 2 ^ 6 + r.form.toNat * 2 ^ 4 + r.op.toNat

/-- The fields of a 7-bit value (R198, SUB of LRED). -/
def LredSub.ofNat (x : Nat) : LredSub where
  w64 := flag x 6
  form := fld x 4 2
  op := fld x 0 4

/-- Fields of R29, from the high bit down; 96 bits. -/
structure Entry where
  opc : BitVec 12
  rsvG : BitVec 4
  bud : BitVec 4
  rsvD : BitVec 12
  spad : BitVec 16
  bars : BitVec 8
  rsvC : BitVec 3
  spwn : Bool
  sup : Bool
  sect : Bool
  callable : Bool
  kern : Bool
  index : BitVec 16
  rsvM : BitVec 16
  deriving DecidableEq, Repr

/-- The value of the packed fields (R29). -/
def Entry.toNat (r : Entry) : Nat :=
  r.opc.toNat * 2 ^ 84 + r.rsvG.toNat * 2 ^ 80 + r.bud.toNat * 2 ^ 76 + r.rsvD.toNat * 2 ^ 64 + r.spad.toNat * 2 ^ 48 +
  r.bars.toNat * 2 ^ 40 + r.rsvC.toNat * 2 ^ 37 + r.spwn.toNat * 2 ^ 36 + r.sup.toNat * 2 ^ 35 + r.sect.toNat * 2 ^ 34 +
  r.callable.toNat * 2 ^ 33 + r.kern.toNat * 2 ^ 32 + r.index.toNat * 2 ^ 16 + r.rsvM.toNat

/-- The fields of a 96-bit value (R29). -/
def Entry.ofNat (x : Nat) : Entry where
  opc := fld x 84 12
  rsvG := fld x 80 4
  bud := fld x 76 4
  rsvD := fld x 64 12
  spad := fld x 48 16
  bars := fld x 40 8
  rsvC := fld x 37 3
  spwn := flag x 36
  sup := flag x 35
  sect := flag x 34
  callable := flag x 33
  kern := flag x 32
  index := fld x 16 16
  rsvM := fld x 0 16

end Sys2Proof
end

