-- ==== Sys2Proof/Syntax.lean ====
section
/-! DEFINITION. The syntax of Mioxis (R11-R47 and the entries of every class): operands, modifiers, and the ONE
inductive of instructions and events, a constructor for each row of the opcode table. -/
namespace Sys2Proof

/-- The status and fault codes of R9. -/
inductive Code where
  | ok | illegalOpcode | illegalOperand | illegalLiteral | illegalRegister | budgetExceeded | latchStale
  | loopOverflow | misaligned | privilege | unsupportedOnLc | softwareTrap | illegalTarget | pageNotPresent
  | protection | wsReadonly | tableRemote | tableNotPresent | barrierClobber | convergenceSpan | barrierOverrun
  | shapeInvalid | matrixDataError | matrixFormat | chainBroken | scanDescInvalid | handleStale | futureFailed
  | futureCancelled | sectionAborted | sectionFault | reduceShort | reduceGroupInvalid | fabricUnreachable
  | variantNone | variantCorrupt
  deriving DecidableEq, Repr

/-- An operand (R18). A literal operand carries the 64 bits of its trailing literal word (R27). -/
inductive Operand where
  | gpr (n : BitVec 8)
  | const (n : BitVec 8)
  | latch (n : BitVec 2)
  | pred (n : BitVec 3)
  | sreg (n : BitVec 6)
  | small (v : BitVec 7)
  | imm
  | litLo (v : DWord)
  | litHi (v : DWord)
  | lit (v : DWord)
  deriving DecidableEq, Repr

/-- What field 0x0FF holds: the unread operand, and g255 (R18, R19). -/
abbrev Operand.unread : Operand := .gpr 255#8

/-- A destination (R15); `latch` is K = 1 (R17). -/
inductive Dest where
  | gpr (n : BitVec 8)
  | pred (n : BitVec 3)
  | sreg (n : BitVec 6)
  | none
  | latch
  deriving DecidableEq, Repr

/-- The operand fields of a word and the 24 bits that the immediate, offset or inserted value of classes 0x0-0x4
stands in (R26, R35). -/
structure Opnds where
  imm : BitVec 24
  d : Dest
  a : Operand
  b : Operand
  c : Operand
  deriving DecidableEq, Repr

/-- Integer types (R36). -/
inductive IType where | i32 | n32 | i64 | n64 | i16x2
  deriving DecidableEq, Repr

/-- Floating-point types (R36). -/
inductive FType where | f32 | f64 | f16x2 | bf16x2
  deriving DecidableEq, Repr

/-- Rounding modes (R36, R68). -/
inductive Rnd where | rn | rz | ru | rd | rs
  deriving DecidableEq, Repr

/-- Element formats, DFMT and SFMT (R36). -/
inductive Fmt where
  | i8 | i16 | i32 | i64 | n8 | n16 | n32 | n64 | f16 | bf16 | f32 | f64 | t8 | t6 | e8
  deriving DecidableEq, Repr

/-- Access sizes (R36). -/
inductive Size where | b8 | b16 | b32 | b64 | b128 | s8 | s16
  deriving DecidableEq, Repr

/-- Scopes (R36, R147). -/
inductive Scope where | core | clus | die | pkg | sys
  deriving DecidableEq, Repr

/-- Orders (R36, R148). -/
inductive Order where | rlx | acq | rel | ar
  deriving DecidableEq, Repr

/-- Conditions of ICMP (R80). -/
inductive Cond where | eq | ne | lt | le | gt | ge
  deriving DecidableEq, Repr

/-- Conditions of FCMP (R93). -/
inductive FCond where | eq | ne | lt | le | gt | ge | un | or
  deriving DecidableEq, Repr

/-- Operations of ATOM (R144). -/
inductive AtomOp where | add | and | or | xor | exch | smin | smax | umin | umax | fadd | fmin | fmax
  deriving DecidableEq, Repr

/-- Modes of SHFL (R197). -/
inductive ShflMode where | idx | up | down | xor
  deriving DecidableEq, Repr

/-- Offset sources of SHFL (R197). -/
inductive ShflRel where | operand | half | quarter | eighth
  deriving DecidableEq, Repr

/-- Operations of LRED (R198). -/
inductive LredOp where | add | smin | smax | umin | umax | and | or | xor | fadd | fmin | fmax
  deriving DecidableEq, Repr

/-- Forms of LRED (R198). -/
inductive LredForm where | all | incl | excl
  deriving DecidableEq, Repr

/-- Kinds of VOTE (R199). -/
inductive VoteKind where | every | some | agree | mask | count | before | lead
  deriving DecidableEq, Repr

/-- Pattern sizes of CPFILL (R212). -/
inductive FillSize where | b8 | b16 | b32
  deriving DecidableEq, Repr

/-- Matrix formats (R36). -/
inductive MFmt where | t8 | t6 | bf16 | f16 | i8 | n8
  deriving DecidableEq, Repr

/-- Entry sizes of CHSEND and CHRECV (R250). -/
inductive ChSize where | b32 | b64 | b128
  deriving DecidableEq, Repr

/-- Types of class 0xD (R411). -/
inductive RedType where | i32 | n32 | i64 | n64 | f32 | f64 | bf16x2
  deriving DecidableEq, Repr

/-- Operations of class 0xD (R411). -/
inductive RedOp where | add | min | max | and | or | xor
  deriving DecidableEq, Repr

/-- The modifiers of class 0x2 (R35, R103). -/
structure CvtMod where
  df : Fmt
  sf : Fmt
  rnd : Rnd
  ftz : Bool
  sat : Bool
  x2 : Bool
  deriving DecidableEq, Repr

/-- The M fields of classes 0x5 and 0x6 (R35, R139); OPX of ATOM is its operation. -/
structure MemMod where
  size : Size
  scope : Scope
  order : Order
  sp : Bool
  opx : BitVec 4
  scale : BitVec 2
  disp : BitVec 18
  deriving DecidableEq, Repr

/-- The barrier a class 0x7 instruction names: a register, or an object's displacement (R184). -/
structure BarMod where
  bar : BitVec 6
  obj : Bool
  imm20 : BitVec 20
  deriving DecidableEq, Repr

/-- The arrival of a class 0x8 instruction (R212). -/
structure ArvMod where
  bar : BitVec 6
  arv : Bool
  deriving DecidableEq, Repr

/-- Source and destination space and the no-allocate hint of a copy (R212). -/
structure DirMod where
  ssp : Bool
  dsp : Bool
  na : Bool
  deriving DecidableEq, Repr

/-- The fields of MREAD (R231). -/
structure MreadMod where
  rows : BitVec 11
  ofmt : Fmt
  rnd : Rnd
  sat : Bool
  dsp : Bool
  clr : Bool
  ai : Bool
  deriving DecidableEq, Repr

/-- An operation on a future of another device (R338, R345-R348). -/
inductive FutOp where
  | add (h : DWord)
  | addLoose (h : DWord) (n : Nat)
  | adopt (h : DWord)
  | drop (h : DWord) (n : Nat)
  | dropLoose (h : DWord)
  | poll (h : DWord)
  | wait (h : DWord)
  /-- nothing but the checks: stale, no loose reference where one is needed, else the code given -/
  | check (h : DWord) (loose : Bool) (c : Code)
  | set (h : DWord) (words : List Word)
  /-- a launch of a device binds an UNBOUND future of another (R336) -/
  | bind (h : DWord) (device : Nat)
  /-- the launch bound to it resolves it (R340, R348) -/
  | finish (h : DWord) (c : Code) (words : List Word)
  /-- the task of the launch bound to it has ended (R353) -/
  | ended (h : DWord)
  /-- its entry's count has fallen to 0: the launch bound to it, on the device asked, is reclaimed (R351) -/
  | reclaim (h : DWord)
  deriving DecidableEq, Repr

/-- Parameters of a collective group (R413). -/
inductive GroupKind where
  | reduction (ty : RedType) (op : RedOp) (count : Nat) (timeout : Nat)
  | multicast (members : List Nat) (timeout : Nat)
  deriving DecidableEq, Repr

/-- What a fabric packet carries between devices, and between a device and a spine (R402): `rgrp` frees a group where it
names no parameters. Addresses are physical on the target. -/
inductive FabOp where
  | load (pa : Nat) (n : Nat)
  | store (pa : Nat) (n : Nat) (v : QWord)
  | atom (op : AtomOp) (w64 : Bool) (pa : Nat) (v : DWord)
  | cas (w64 : Bool) (pa : Nat) (cmp : DWord) (new : DWord)
  | ship (entry : DWord) (lockPa : Nat) (lockVa : DWord) (args : List Word) (sup : Bool) (prio : Nat) (launch : Nat)
  | shipResult (tag : Nat) (code : Code) (under : Code) (words : List Word)
  | response (tag : Nat) (code : Code) (v : QWord)
  | red (gid : Nat) (ty : RedType) (op : RedOp) (v : DWord)
  | rgrp (gid : Nat) (kind : Option GroupKind)
  | future (op : FutOp)
  deriving DecidableEq, Repr

/-- A fabric packet (R402, R405, R406). -/
structure Packet where
  src : Nat
  dst : Nat
  cls : Nat
  seq : Nat
  floor : Nat
  srcInc : Nat
  dstInc : Nat
  tag : Nat
  op : FabOp
  deriving DecidableEq, Repr

/-- The queue pair on which a host message arrives, and the key that it gives (R378, R379). -/
structure HostKey where
  qp : Nat
  rkey : Word
  deriving DecidableEq, Repr

/-- A peer of a stream, and its incarnation (R406). -/
structure Peer where
  peer : Nat
  inc : Nat
  deriving DecidableEq, Repr

/-- The ONE inductive of the opcode table's rows: the instruction words of classes 0x0-0xD, the two words that are
not instructions, and the events. A word carries its modifiers and its operands; an event carries what singles it
out (which pending operation, which core, what the outside world sends). -/
inductive Instr where
  -- class 0x0 (R80)
  | iadd (t : IType) (sat : Bool) (o : Opnds)
  | isub (t : IType) (sat : Bool) (o : Opnds)
  | iaddc (t : IType) (co : Bool) (o : Opnds)
  | isubb (t : IType) (bo : Bool) (o : Opnds)
  | imul (t : IType) (sat : Bool) (o : Opnds)
  | imulh (t : IType) (o : Opnds)
  | imad (t : IType) (sat : Bool) (o : Opnds)
  | idiv (t : IType) (o : Opnds)
  | irem (t : IType) (o : Opnds)
  | iabs (t : IType) (sat : Bool) (o : Opnds)
  | ineg (t : IType) (sat : Bool) (o : Opnds)
  | imin (t : IType) (o : Opnds)
  | imax (t : IType) (o : Opnds)
  | icmp (t : IType) (cc : Cond) (o : Opnds)
  | land (t : IType) (o : Opnds)
  | lor (t : IType) (o : Opnds)
  | lxor (t : IType) (o : Opnds)
  | landn (t : IType) (o : Opnds)
  | lnot (t : IType) (o : Opnds)
  | shl (t : IType) (o : Opnds)
  | shr (t : IType) (o : Opnds)
  | sar (t : IType) (o : Opnds)
  | rotl (t : IType) (o : Opnds)
  | popc (t : IType) (o : Opnds)
  | clz (t : IType) (o : Opnds)
  | ctz (t : IType) (o : Opnds)
  | brev (t : IType) (o : Opnds)
  | bfx (t : IType) (o : Opnds)
  | bfi (t : IType) (o : Opnds)
  | lea (t : IType) (n : BitVec 4) (o : Opnds)
  | idot4 (t : IType) (mixed : Bool) (sat : Bool) (o : Opnds)
  -- class 0x1 (R93)
  | fadd (t : FType) (r : Rnd) (ftz : Bool) (o : Opnds)
  | fsub (t : FType) (r : Rnd) (ftz : Bool) (o : Opnds)
  | fmul (t : FType) (r : Rnd) (ftz : Bool) (o : Opnds)
  | ffma (t : FType) (r : Rnd) (ftz : Bool) (o : Opnds)
  | fmin (t : FType) (nan : Bool) (ftz : Bool) (o : Opnds)
  | fmax (t : FType) (nan : Bool) (ftz : Bool) (o : Opnds)
  | fabs (t : FType) (ftz : Bool) (o : Opnds)
  | fneg (t : FType) (ftz : Bool) (o : Opnds)
  | fcmp (t : FType) (cc : FCond) (ftz : Bool) (o : Opnds)
  | fclass (t : FType) (o : Opnds)
  | frnd (t : FType) (r : Rnd) (ftz : Bool) (o : Opnds)
  | fscale (t : FType) (r : Rnd) (ftz : Bool) (o : Opnds)
  | fdiv (t : FType) (r : Rnd) (ftz : Bool) (o : Opnds)
  | fsqrt (t : FType) (r : Rnd) (ftz : Bool) (o : Opnds)
  | fdot2 (t : FType) (r : Rnd) (ftz : Bool) (o : Opnds)
  -- class 0x2 (R103)
  | cvt (m : CvtMod) (o : Opnds)
  | packt (m : CvtMod) (o : Opnds)
  | unpackt (m : CvtMod) (o : Opnds)
  | frcp (m : CvtMod) (o : Opnds)
  | frsq (m : CvtMod) (o : Opnds)
  | fexp2 (m : CvtMod) (o : Opnds)
  | flog2 (m : CvtMod) (o : Opnds)
  | fsinpi (m : CvtMod) (o : Opnds)
  | fcospi (m : CvtMod) (o : Opnds)
  | ftanh (m : CvtMod) (o : Opnds)
  | fsigm (m : CvtMod) (o : Opnds)
  | sacc (m : CvtMod) (o : Opnds)
  -- class 0x3 (R113)
  | mov (w64 : Bool) (o : Opnds)
  | movi (w64 : Bool) (n : BitVec 2) (o : Opnds)
  | sel (w64 : Bool) (o : Opnds)
  | plop (w64 : Bool) (t : BitVec 8) (o : Opnds)
  | pmovGet (o : Opnds)
  | pmovSet (o : Opnds)
  | sread (o : Opnds)
  | swrite (o : Opnds)
  -- class 0x4 (R120); OFF24 and n of TRAP stand in `imm`
  | bra (o : Opnds)
  | brx (o : Opnds)
  | brxEntry (o : Opnds)
  | call (o : Opnds)
  | callx (o : Opnds)
  | ret (o : Opnds)
  | exit (o : Opnds)
  | loop (o : Opnds)
  | lbrk (o : Opnds)
  | trap (o : Opnds)
  | yield (o : Opnds)
  | conv (n : BitVec 6) (o : Opnds)
  | nop (o : Opnds)
  -- the two words that are not instructions (R27-R30): the 84 bits below OPC
  | entryWordNop (w : BitVec 84)
  | literalWordReached (w : BitVec 84)
  -- classes 0x5 and 0x6 (R139)
  | ld (m : MemMod) (o : Opnds)
  | loadLands (k : Nat)
  | st (m : MemMod) (o : Opnds)
  | ldk (m : MemMod) (o : Opnds)
  | pref (m : MemMod) (o : Opnds)
  | drain (m : MemMod) (o : Opnds)
  | discard (m : MemMod) (o : Opnds)
  | clean (m : MemMod) (o : Opnds)
  | inval (m : MemMod) (o : Opnds)
  | atom (op : AtomOp) (m : MemMod) (o : Opnds)
  | cas (m : MemMod) (o : Opnds)
  | fence (m : MemMod) (o : Opnds)
  | acqr (m : MemMod) (o : Opnds)
  -- class 0x7 (R184)
  | barinit (b : BarMod) (o : Opnds)
  | bararv (n : Bool) (b : BarMod) (o : Opnds)
  | barwait (b : BarMod) (o : Opnds)
  | barsync (b : BarMod) (o : Opnds)
  | barstat (b : BarMod) (o : Opnds)
  | barstatClr (b : BarMod) (o : Opnds)
  | barstatX (o : Opnds)
  | barinv (b : BarMod) (o : Opnds)
  | shfl (mode : ShflMode) (rel : ShflRel) (w64 : Bool) (bar : BitVec 6) (o : Opnds)
  | lred (op : LredOp) (form : LredForm) (w64 : Bool) (bar : BitVec 6) (o : Opnds)
  | vote (kind : VoteKind) (bar : BitVec 6) (o : Opnds)
  | spawn (o : Opnds)
  | spawnW (o : Opnds)
  | spawnWPlaced (th : Nat)
  -- class 0x8 (R212)
  | cp (dir : DirMod) (arv : ArvMod) (o : Opnds)
  | cptLd (lsp na rsp : Bool) (arv : ArvMod) (o : Opnds)
  | cptSt (lsp na rsp : Bool) (arv : ArvMod) (o : Opnds)
  | cpg (dir : DirMod) (len16 : BitVec 21) (o : Opnds)
  | cpfill (dsp na : Bool) (size : FillSize) (arv : ArvMod) (o : Opnds)
  | shchk (rsp : Bool) (o : Opnds)
  | copyLands (cluster : Nat) (op : Nat)
  -- class 0x9 (R231)
  | mload (bar : BitVec 6) (fmt : MFmt) (tr sp : Bool) (k1 n1 : BitVec 8) (o : Opnds)
  | mswap (bar : BitVec 6) (o : Opnds)
  | mstream (bar : BitVec 6) (fmt : MFmt) (ow : Bool) (rows : BitVec 11) (o : Opnds)
  | mgather (bar : BitVec 6) (fmt : MFmt) (ow : Bool) (rows : BitVec 11) (o : Opnds)
  | mread (bar : BitVec 6) (m : MreadMod) (o : Opnds)
  | mzero (bar : BitVec 6) (rows : BitVec 11) (o : Opnds)
  | maccld (bar : BitVec 6) (rows : BitVec 11) (ssp : Bool) (o : Opnds)
  | matrixGrant (cluster : Nat)
  | matrixLands (cluster : Nat) (op : Nat)
  -- class 0xA (R250)
  | scdesc (sp : Bool) (o : Opnds)
  | scan (bar : BitVec 6) (o : Opnds)
  | scanc (loc init wrap : Bool) (bar : BitVec 6) (o : Opnds)
  | scanLands (core : Nat)
  | chopen (o : Opnds)
  | chclose (o : Opnds)
  | chbar (o : Opnds)
  | chsend (size : ChSize) (o : Opnds)
  | chrecv (size : ChSize) (o : Opnds)
  | mailboxEntryArrives (core : Nat)
  | chbarComplete (core : Nat)
  -- class 0xB (R314, R343)
  | shipW (tok : BitVec 8) (o : Opnds)
  | shipT (tok : BitVec 8) (o : Opnds)
  | perchRequestEnqueue (request : Nat)
  | sectionStart (lc : Nat)
  | lcret (o : Opnds)
  | sectionWatchdog (lc : Nat)
  | shipLands (result : Nat)
  | fspawn (nafter : BitVec 3) (o : Opnds)
  | fspawnEntryGranted (die : Nat)
  | frefa (o : Opnds)
  | frefaOut (o : Opnds)
  | frefaIn (o : Opnds)
  | frefd (o : Opnds)
  | frefdOut (o : Opnds)
  | fwait (tok : BitVec 8) (o : Opnds)
  | fwaitLands (th : Nat)
  | fpoll (o : Opnds)
  | fset (o : Opnds)
  | rpoint (o : Opnds)
  -- class 0xC (R171, R174, R175, R177, R298, R301, R306)
  | tret (o : Opnds)
  | tretFatal (o : Opnds)
  | freplay (o : Opnds)
  | freplayAll (o : Opnds)
  | fcancel (o : Opnds)
  | fcancelAll (o : Opnds)
  | tlbinv (o : Opnds)
  | tlbinvAll (o : Opnds)
  | tlbinvRoot (o : Opnds)
  | wsopen (o : Opnds)
  | wsWindowOpen (die : Nat)
  | wsclose (o : Opnds)
  | ctxsave (o : Opnds)
  | ctxload (o : Opnds)
  | halt (o : Opnds)
  | haltResume (o : Opnds)
  -- class 0xD (R411)
  | red (ty : RedType) (op : RedOp) (tok : BitVec 8) (o : Opnds)
  | redRoundClose (gid : Nat) (others : List DWord)
  | redRoundTimeout (gid : Nat)
  | mcast (w64 : Bool) (o : Opnds)
  | mcastLands (tag : Nat) (codes : List Code)
  | rgrp (ty : RedType) (op : RedOp) (o : Opnds)
  | rgrpMc (o : Opnds)
  | rgrpFree (o : Opnds)
  -- events of the core, the die and its memory
  | issueCycle (unit : Nat)
  | pageWalk (walker : Nat)
  | wcEntrySend (core : Nat) (entry : Nat)
  | regionMerge (die : Nat) (region : Nat)
  | forwardedStoreAck (store : Nat)
  | ltimeTick (core : Nat)
  | sliceWake (die : Nat) (slice : Nat)
  | refreshSlot
  | dispatchHead (die : Nat) (level : Nat)
  | placeGroup (die : Nat) (level : Nat)
  | preempt (die : Nat) (level : Nat)
  | familyStopped (group : Nat)
  | groupRetire (group : Nat)
  | submissionSkip (die : Nat)
  | submissionLaunch (die : Nat)
  | submissionSpawn (die : Nat)
  | submissionUnbound (die : Nat)
  | submissionDrop (die : Nat)
  | coreFusedOff (core : Nat) (cluster : Bool)
  | dieLinkFail (link : Nat)
  | dieFail (die : Nat)
  -- events of the host and the boot processor
  | hostRdmaWrite (k : HostKey) (va : DWord) (data : List Byte)
  | hostRdmaRead (k : HostKey) (va : DWord) (n : Nat)
  | hostRdmaCas (k : HostKey) (va : DWord) (cmp : DWord) (new : DWord)
  | hostRdmaFetchAdd (k : HostKey) (va : DWord) (add : DWord)
  | hostRdmaRefusedOp (k : HostKey)
  | pcbRegisterWrite (offset : Nat) (w64 : Bool) (v : DWord)
  | loaderRequest
  | keyLoad
  | keyClear
  | attestRequest
  | powerArbiter (watts : List Nat) (mhz : List Nat)
  | thermalCrit
  | powerStateEnter (die : Nat)
  | powerStateWake (die : Nat)
  | reset
  | firmwareVerify (image : List Byte)
  | reducedService (trained : Bool)
  | fullService (diesUp : BitVec 4) (linksUp : BitVec 4) (portsUp : BitVec 18)
  -- events of the fabric
  | fabricPacketDeliver (p : Packet)
  | fabricAck (source : Peer) (cls : Nat) (upTo : Nat)
  | fabricResend (peer : Nat) (cls : Nat) (seq : Nat)
  | fabricUndeliverable (peer : Nat) (cls : Nat) (seq : Nat)
  | floorNotice (peer : Nat) (cls : Nat) (floor : Nat)
  | incarnationChange (peer : Nat) (ofSource : Bool) (inc : Nat) (floors : List Nat)
  | remoteAccessReply (tag : Nat) (code : Code) (v : QWord)
  | laneSample (port : Nat) (errors : List Nat) (margins : List Nat)
  | portRetrain (port : Nat) (lanes : BitVec 5)
  | spineLost (plane : Nat) (spine : Nat)
  | temperatureCrossesThrottleLimit (above : Bool)
  deriving DecidableEq, Repr

end Sys2Proof
end

