-- ==== Sys2Proof/Machine/Codes.lean ====
section
/-! DEFINITION. The encodings of the modifier fields (R36 and the entries' tables): the number of each modifier, and
the modifier a number names; a number the table does not list names none. -/
namespace Sys2Proof

/-- The encoding of IType (R36). -/
def IType.code : IType → BitVec 3
  | .i32 => 0#3
  | .n32 => 1#3
  | .i64 => 2#3
  | .n64 => 3#3
  | .i16x2 => 4#3

/-- The IType that a field value names (R36). -/
def IType.ofCode (x : BitVec 3) : Option IType :=
  match x.toNat with
  | 0 => Option.some .i32
  | 1 => Option.some .n32
  | 2 => Option.some .i64
  | 3 => Option.some .n64
  | 4 => Option.some .i16x2
  | _ => Option.none

/-- The encoding of FType (R36). -/
def FType.code : FType → BitVec 2
  | .f32 => 0#2
  | .f64 => 1#2
  | .f16x2 => 2#2
  | .bf16x2 => 3#2

/-- The FType that a field value names (R36). -/
def FType.ofCode (x : BitVec 2) : Option FType :=
  match x.toNat with
  | 0 => Option.some .f32
  | 1 => Option.some .f64
  | 2 => Option.some .f16x2
  | _ => Option.some .bf16x2

/-- The encoding of Rnd (R36). -/
def Rnd.code : Rnd → BitVec 3
  | .rn => 0#3
  | .rz => 1#3
  | .ru => 2#3
  | .rd => 3#3
  | .rs => 4#3

/-- The Rnd that a field value names (R36). -/
def Rnd.ofCode (x : BitVec 3) : Option Rnd :=
  match x.toNat with
  | 0 => Option.some .rn
  | 1 => Option.some .rz
  | 2 => Option.some .ru
  | 3 => Option.some .rd
  | 4 => Option.some .rs
  | _ => Option.none

/-- The encoding of Fmt (R36). -/
def Fmt.code : Fmt → BitVec 4
  | .i8 => 0#4
  | .i16 => 1#4
  | .i32 => 2#4
  | .i64 => 3#4
  | .n8 => 4#4
  | .n16 => 5#4
  | .n32 => 6#4
  | .n64 => 7#4
  | .f16 => 8#4
  | .bf16 => 9#4
  | .f32 => 10#4
  | .f64 => 11#4
  | .t8 => 12#4
  | .t6 => 13#4
  | .e8 => 14#4

/-- The Fmt that a field value names (R36). -/
def Fmt.ofCode (x : BitVec 4) : Option Fmt :=
  match x.toNat with
  | 0 => Option.some .i8
  | 1 => Option.some .i16
  | 2 => Option.some .i32
  | 3 => Option.some .i64
  | 4 => Option.some .n8
  | 5 => Option.some .n16
  | 6 => Option.some .n32
  | 7 => Option.some .n64
  | 8 => Option.some .f16
  | 9 => Option.some .bf16
  | 10 => Option.some .f32
  | 11 => Option.some .f64
  | 12 => Option.some .t8
  | 13 => Option.some .t6
  | 14 => Option.some .e8
  | _ => Option.none

/-- The encoding of Size (R36). -/
def Size.code : Size → BitVec 3
  | .b8 => 0#3
  | .b16 => 1#3
  | .b32 => 2#3
  | .b64 => 3#3
  | .b128 => 4#3
  | .s8 => 5#3
  | .s16 => 6#3

/-- The Size that a field value names (R36). -/
def Size.ofCode (x : BitVec 3) : Option Size :=
  match x.toNat with
  | 0 => Option.some .b8
  | 1 => Option.some .b16
  | 2 => Option.some .b32
  | 3 => Option.some .b64
  | 4 => Option.some .b128
  | 5 => Option.some .s8
  | 6 => Option.some .s16
  | _ => Option.none

/-- The encoding of Scope (R36). -/
def Scope.code : Scope → BitVec 3
  | .core => 0#3
  | .clus => 1#3
  | .die => 2#3
  | .pkg => 3#3
  | .sys => 4#3

/-- The Scope that a field value names (R36). -/
def Scope.ofCode (x : BitVec 3) : Option Scope :=
  match x.toNat with
  | 0 => Option.some .core
  | 1 => Option.some .clus
  | 2 => Option.some .die
  | 3 => Option.some .pkg
  | 4 => Option.some .sys
  | _ => Option.none

/-- The encoding of Order (R36). -/
def Order.code : Order → BitVec 2
  | .rlx => 0#2
  | .acq => 1#2
  | .rel => 2#2
  | .ar => 3#2

/-- The Order that a field value names (R36). -/
def Order.ofCode (x : BitVec 2) : Option Order :=
  match x.toNat with
  | 0 => Option.some .rlx
  | 1 => Option.some .acq
  | 2 => Option.some .rel
  | _ => Option.some .ar

/-- The encoding of Cond (R80). -/
def Cond.code : Cond → BitVec 4
  | .eq => 0#4
  | .ne => 1#4
  | .lt => 2#4
  | .le => 3#4
  | .gt => 4#4
  | .ge => 5#4

/-- The Cond that a field value names (R80). -/
def Cond.ofCode (x : BitVec 4) : Option Cond :=
  match x.toNat with
  | 0 => Option.some .eq
  | 1 => Option.some .ne
  | 2 => Option.some .lt
  | 3 => Option.some .le
  | 4 => Option.some .gt
  | 5 => Option.some .ge
  | _ => Option.none

/-- The encoding of FCond (R93). -/
def FCond.code : FCond → BitVec 4
  | .eq => 0#4
  | .ne => 1#4
  | .lt => 2#4
  | .le => 3#4
  | .gt => 4#4
  | .ge => 5#4
  | .un => 6#4
  | .or => 7#4

/-- The FCond that a field value names (R93). -/
def FCond.ofCode (x : BitVec 4) : Option FCond :=
  match x.toNat with
  | 0 => Option.some .eq
  | 1 => Option.some .ne
  | 2 => Option.some .lt
  | 3 => Option.some .le
  | 4 => Option.some .gt
  | 5 => Option.some .ge
  | 6 => Option.some .un
  | 7 => Option.some .or
  | _ => Option.none

/-- The encoding of AtomOp (R144). -/
def AtomOp.code : AtomOp → BitVec 4
  | .add => 0#4
  | .and => 1#4
  | .or => 2#4
  | .xor => 3#4
  | .exch => 4#4
  | .smin => 5#4
  | .smax => 6#4
  | .umin => 7#4
  | .umax => 8#4
  | .fadd => 9#4
  | .fmin => 10#4
  | .fmax => 11#4

/-- The AtomOp that a field value names (R144). -/
def AtomOp.ofCode (x : BitVec 4) : Option AtomOp :=
  match x.toNat with
  | 0 => Option.some .add
  | 1 => Option.some .and
  | 2 => Option.some .or
  | 3 => Option.some .xor
  | 4 => Option.some .exch
  | 5 => Option.some .smin
  | 6 => Option.some .smax
  | 7 => Option.some .umin
  | 8 => Option.some .umax
  | 9 => Option.some .fadd
  | 10 => Option.some .fmin
  | 11 => Option.some .fmax
  | _ => Option.none

/-- The encoding of ShflMode (R197). -/
def ShflMode.code : ShflMode → BitVec 3
  | .idx => 0#3
  | .up => 1#3
  | .down => 2#3
  | .xor => 3#3

/-- The ShflMode that a field value names (R197). -/
def ShflMode.ofCode (x : BitVec 3) : Option ShflMode :=
  match x.toNat with
  | 0 => Option.some .idx
  | 1 => Option.some .up
  | 2 => Option.some .down
  | 3 => Option.some .xor
  | _ => Option.none

/-- The encoding of ShflRel (R197). -/
def ShflRel.code : ShflRel → BitVec 2
  | .operand => 0#2
  | .half => 1#2
  | .quarter => 2#2
  | .eighth => 3#2

/-- The ShflRel that a field value names (R197). -/
def ShflRel.ofCode (x : BitVec 2) : Option ShflRel :=
  match x.toNat with
  | 0 => Option.some .operand
  | 1 => Option.some .half
  | 2 => Option.some .quarter
  | _ => Option.some .eighth

/-- The encoding of LredOp (R198). -/
def LredOp.code : LredOp → BitVec 4
  | .add => 0#4
  | .smin => 1#4
  | .smax => 2#4
  | .umin => 3#4
  | .umax => 4#4
  | .and => 5#4
  | .or => 6#4
  | .xor => 7#4
  | .fadd => 8#4
  | .fmin => 9#4
  | .fmax => 10#4

/-- The LredOp that a field value names (R198). -/
def LredOp.ofCode (x : BitVec 4) : Option LredOp :=
  match x.toNat with
  | 0 => Option.some .add
  | 1 => Option.some .smin
  | 2 => Option.some .smax
  | 3 => Option.some .umin
  | 4 => Option.some .umax
  | 5 => Option.some .and
  | 6 => Option.some .or
  | 7 => Option.some .xor
  | 8 => Option.some .fadd
  | 9 => Option.some .fmin
  | 10 => Option.some .fmax
  | _ => Option.none

/-- The encoding of LredForm (R198). -/
def LredForm.code : LredForm → BitVec 2
  | .all => 0#2
  | .incl => 1#2
  | .excl => 2#2

/-- The LredForm that a field value names (R198). -/
def LredForm.ofCode (x : BitVec 2) : Option LredForm :=
  match x.toNat with
  | 0 => Option.some .all
  | 1 => Option.some .incl
  | 2 => Option.some .excl
  | _ => Option.none

/-- The encoding of VoteKind (R199). -/
def VoteKind.code : VoteKind → BitVec 3
  | .every => 0#3
  | .some => 1#3
  | .agree => 2#3
  | .mask => 3#3
  | .count => 4#3
  | .before => 5#3
  | .lead => 6#3

/-- The VoteKind that a field value names (R199). -/
def VoteKind.ofCode (x : BitVec 3) : Option VoteKind :=
  match x.toNat with
  | 0 => Option.some .every
  | 1 => Option.some .some
  | 2 => Option.some .agree
  | 3 => Option.some .mask
  | 4 => Option.some .count
  | 5 => Option.some .before
  | 6 => Option.some .lead
  | _ => Option.none

/-- The encoding of FillSize (R212). -/
def FillSize.code : FillSize → BitVec 2
  | .b8 => 0#2
  | .b16 => 1#2
  | .b32 => 2#2

/-- The FillSize that a field value names (R212). -/
def FillSize.ofCode (x : BitVec 2) : Option FillSize :=
  match x.toNat with
  | 0 => Option.some .b8
  | 1 => Option.some .b16
  | 2 => Option.some .b32
  | _ => Option.none

/-- The encoding of MFmt (R36). -/
def MFmt.code : MFmt → BitVec 4
  | .t8 => 0#4
  | .t6 => 1#4
  | .bf16 => 2#4
  | .f16 => 3#4
  | .i8 => 4#4
  | .n8 => 5#4

/-- The MFmt that a field value names (R36). -/
def MFmt.ofCode (x : BitVec 4) : Option MFmt :=
  match x.toNat with
  | 0 => Option.some .t8
  | 1 => Option.some .t6
  | 2 => Option.some .bf16
  | 3 => Option.some .f16
  | 4 => Option.some .i8
  | 5 => Option.some .n8
  | _ => Option.none

/-- The encoding of ChSize (R250). -/
def ChSize.code : ChSize → BitVec 2
  | .b32 => 0#2
  | .b64 => 1#2
  | .b128 => 2#2

/-- The ChSize that a field value names (R250). -/
def ChSize.ofCode (x : BitVec 2) : Option ChSize :=
  match x.toNat with
  | 0 => Option.some .b32
  | 1 => Option.some .b64
  | 2 => Option.some .b128
  | _ => Option.none

/-- The encoding of RedType (R411). -/
def RedType.code : RedType → BitVec 3
  | .i32 => 0#3
  | .n32 => 1#3
  | .i64 => 2#3
  | .n64 => 3#3
  | .f32 => 4#3
  | .f64 => 5#3
  | .bf16x2 => 6#3

/-- The RedType that a field value names (R411). -/
def RedType.ofCode (x : BitVec 3) : Option RedType :=
  match x.toNat with
  | 0 => Option.some .i32
  | 1 => Option.some .n32
  | 2 => Option.some .i64
  | 3 => Option.some .n64
  | 4 => Option.some .f32
  | 5 => Option.some .f64
  | 6 => Option.some .bf16x2
  | _ => Option.none

/-- The encoding of RedOp (R411). -/
def RedOp.code : RedOp → BitVec 4
  | .add => 0#4
  | .min => 1#4
  | .max => 2#4
  | .and => 3#4
  | .or => 4#4
  | .xor => 5#4

/-- The RedOp that a field value names (R411). -/
def RedOp.ofCode (x : BitVec 4) : Option RedOp :=
  match x.toNat with
  | 0 => Option.some .add
  | 1 => Option.some .min
  | 2 => Option.some .max
  | 3 => Option.some .and
  | 4 => Option.some .or
  | 5 => Option.some .xor
  | _ => Option.none

end Sys2Proof
end

