-- ==== Sys2Proof/Machine/Roles.lean ====
section
/-! DEFINITION. What each word instruction reads and writes, field by field: the operand and destination columns of
the tables of R80, R93, R103, R113, R120, R139, R184, R212, R231, R250, R314, R343, R411 and of the class 0xC rules,
and the limits on modifiers that those tables give. The decoder's checks (R33) and well-formedness share them. -/
namespace Sys2Proof

/-- How an operand field is read (R19, R20, R76): not at all, as 32 or 64 bits, or as a general-register quad.
`pairOpt` and `quadOpt` are the fields that hold 0x0FF when absent (R314, R343). -/
inductive ROp where | unread | r32 | r64 | quad | quadOpt
  deriving DecidableEq, Repr

/-- How D is written (R15, R19): not at all; as any destination of classes 0x0-0x3; as a general register, or 511
where `opt`; or as VOTE writes it. `n` is the number of 32-bit registers of the result: 1, 2 or 4. -/
inductive DRole where
  | unwritten
  | any (n : Nat)
  | reg (n : Nat) (opt : Bool)
  | vote
  deriving DecidableEq, Repr

/-- The fields of an instruction that the checks of R33 judge. -/
structure Roles where
  a : ROp := .unread
  b : ROp := .unread
  c : ROp := .unread
  d : DRole := .unwritten
  /-- 0x300 may stand in a read operand (R33 check 6, R113). DEDUCED: it may in SREAD and SWRITE, whose IMM24 column is 0:
  IMM24 is then no field of their own, and 0x300 reads 0 (R18, R26, R119). -/
  imm : Bool := false
  /-- A TOK register (R314). -/
  tok : Option (BitVec 8) := none
  deriving DecidableEq, Repr

/-- The type is 64 bits wide (R76). -/
def IType.is64 : IType → Bool
  | .i64 | .n64 => true
  | .i32 | .n32 | .i16x2 => false

/-- The type is a signed integer type (R20, R81). -/
def IType.signed : IType → Bool
  | .i32 | .i64 | .i16x2 => true
  | .n32 | .n64 => false

/-- The type is 64 bits wide (R76). -/
def FType.is64 : FType → Bool
  | .f64 => true
  | .f32 | .f16x2 | .bf16x2 => false

/-- Bits of one element of a format (R56, R57, R61, R67). -/
def Fmt.bits : Fmt → Nat
  | .i8 | .n8 | .t8 | .e8 => 8
  | .t6 => 6
  | .i16 | .n16 | .f16 | .bf16 => 16
  | .i32 | .n32 | .f32 => 32
  | .i64 | .n64 | .f64 => 64

/-- Integer formats. -/
def Fmt.isInt : Fmt → Bool
  | .i8 | .i16 | .i32 | .i64 | .n8 | .n16 | .n32 | .n64 => true
  | .f16 | .bf16 | .f32 | .f64 | .t8 | .t6 | .e8 => false

/-- Signed integer formats. -/
def Fmt.signed : Fmt → Bool
  | .i8 | .i16 | .i32 | .i64 => true
  | .n8 | .n16 | .n32 | .n64 | .f16 | .bf16 | .f32 | .f64 | .t8 | .t6 | .e8 => false

/-- Floating-point formats (R57). -/
def Fmt.isFloat : Fmt → Bool
  | .f16 | .bf16 | .f32 | .f64 => true
  | .i8 | .i16 | .i32 | .i64 | .n8 | .n16 | .n32 | .n64 | .t8 | .t6 | .e8 => false

/-- Tapered formats (R61). -/
def Fmt.isTapered : Fmt → Bool
  | .t8 | .t6 => true
  | .i8 | .i16 | .i32 | .i64 | .n8 | .n16 | .n32 | .n64 | .f16 | .bf16 | .f32 | .f64 | .e8 => false

/-- Bytes of an access (R36, R141). -/
def Size.bytes : Size → Nat
  | .b8 | .s8 => 1
  | .b16 | .s16 => 2
  | .b32 => 4
  | .b64 => 8
  | .b128 => 16

/-- Registers that a value of the size fills (R141). -/
def Size.regs : Size → Nat
  | .b8 | .s8 | .b16 | .s16 | .b32 => 1
  | .b64 => 2
  | .b128 => 4

/-- Registers of a Chain entry (R250). -/
def ChSize.regs : ChSize → Nat
  | .b32 => 1
  | .b64 => 2
  | .b128 => 4

/-- 64-bit types of class 0xD (R411). -/
def RedType.is64 : RedType → Bool
  | .i64 | .n64 | .f64 => true
  | .i32 | .n32 | .f32 | .bf16x2 => false

/-- A source of `n` registers. -/
def srcOf : Nat → ROp
  | 1 => .r32
  | 2 => .r64
  | _ => .quad

/-- An element operand of a type that is 64 bits wide or not. -/
def el (w64 : Bool) : ROp := if w64 then .r64 else .r32

/-- Registers of a result that is 64 bits wide or not. -/
def rn (w64 : Bool) : Nat := if w64 then 2 else 1

/-- Operand A of CVT (R104): a pair for a 64-bit source, and for two 32-bit elements. -/
def CvtMod.srcRole (m : CvtMod) : ROp := el (m.sf.bits == 64 || (m.x2 && m.sf.bits == 32))

/-- Registers of CVT's result (R104). -/
def CvtMod.dstRegs (m : CvtMod) : Nat := rn (m.df.bits == 64 || (m.x2 && m.df.bits == 32))

/-- The object address operand of a class 0x7 instruction (R184). -/
def BarMod.objRole (b : BarMod) : ROp := if b.obj then .r32 else .unread

/-- The data operand of a store or atomic (R139). -/
def MemMod.dataRole (m : MemMod) : ROp := srcOf m.size.regs

/-- The maintenance operations' `.t` form (R139, R146). -/
def MemMod.tensorForm (m : MemMod) : Bool := m.opx.getLsbD 1

/-- Operand and destination roles of every word instruction; `none` for the rows that no instruction word encodes. -/
def Instr.roles : Instr → Option Roles
  | .iadd t _ _ | .isub t _ _ | .imul t _ _ | .imulh t _ | .idiv t _ | .irem t _ | .imin t _ | .imax t _
  | .land t _ | .lor t _ | .lxor t _ | .landn t _ =>
    some { a := el t.is64, b := el t.is64, d := .any (rn t.is64), imm := true }
  | .iaddc t co _ | .isubb t co _ =>
    some { a := el t.is64, b := el t.is64, c := .r32, d := .any (if co then 1 else rn t.is64), imm := true }
  | .imad t _ _ => some { a := el t.is64, b := el t.is64, c := el t.is64, d := .any (rn t.is64), imm := true }
  | .iabs t _ _ | .ineg t _ _ | .lnot t _ | .brev t _ =>
    some { a := el t.is64, d := .any (rn t.is64), imm := true }
  | .icmp t _ _ => some { a := el t.is64, b := el t.is64, d := .any 1, imm := true }
  | .shl t _ | .shr t _ | .sar t _ | .rotl t _ | .bfx t _ =>
    some { a := el t.is64, b := .r32, d := .any (rn t.is64), imm := true }
  | .popc t _ | .clz t _ | .ctz t _ => some { a := el t.is64, d := .any 1, imm := true }
  | .bfi t _ => some { a := el t.is64, b := el t.is64, c := .r32, d := .any (rn t.is64), imm := true }
  | .lea t _ _ => some { a := el t.is64, b := .r32, c := .r32, d := .any (rn t.is64), imm := true }
  | .idot4 _ _ _ _ => some { a := .r32, b := .r32, c := .r32, d := .any 1, imm := true }
  | .fadd t _ _ _ | .fsub t _ _ _ | .fmul t _ _ _ | .fdiv t _ _ _ | .fmin t _ _ _ | .fmax t _ _ _ =>
    some { a := el t.is64, b := el t.is64, d := .any (rn t.is64), imm := true }
  | .ffma t _ _ _ => some { a := el t.is64, b := el t.is64, c := el t.is64, d := .any (rn t.is64), imm := true }
  | .fabs t _ _ | .fneg t _ _ | .frnd t _ _ _ | .fsqrt t _ _ _ =>
    some { a := el t.is64, d := .any (rn t.is64), imm := true }
  | .fcmp t _ _ _ => some { a := el t.is64, b := el t.is64, d := .any 1, imm := true }
  | .fclass t _ => some { a := el t.is64, b := .r32, d := .any 1, imm := true }
  | .fscale t _ _ _ => some { a := el t.is64, b := .r32, d := .any (rn t.is64), imm := true }
  | .fdot2 _ _ _ _ => some { a := .r32, b := .r32, c := .r32, d := .any 1, imm := true }
  | .cvt m _ => some { a := m.srcRole, d := .any m.dstRegs, imm := true }
  | .packt m _ => some { a := el (m.sf == .f32), b := el (m.sf == .f32), c := .r32, d := .any 1, imm := true }
  | .unpackt m _ => some { a := .r32, b := .r32, d := .any (if m.df = .f32 then 4 else 2), imm := true }
  | .frcp _ _ | .frsq _ _ | .fexp2 _ _ | .flog2 _ _ | .fsinpi _ _ | .fcospi _ _ | .ftanh _ _ | .fsigm _ _ =>
    some { a := .r32, d := .any 1, imm := true }
  | .sacc _ _ => some { a := .r32, b := .r32, c := .r32, d := .any 1, imm := true }
  | .mov w _ => some { a := el w, d := .any (rn w), imm := true }
  | .movi w _ _ => some { a := el w, d := .any (rn w) }
  | .sel w _ => some { a := el w, b := el w, c := .r32, d := .any (rn w), imm := true }
  | .plop w _ _ => some { a := el w, b := el w, c := el w, d := .any (rn w), imm := true }
  | .pmovGet _ => some { d := .any 1 }
  | .pmovSet _ => some { a := .r32 }
  | .sread _ => some { a := .r32, d := .any 1, imm := true }
  | .swrite _ => some { a := .r32, b := .r32, imm := true }
  | .bra _ | .exit _ | .lbrk _ | .trap _ | .yield _ | .conv _ _ | .nop _ => some {}
  | .brx _ | .brxEntry _ | .ret _ => some { a := .r64 }
  | .call _ => some { d := .reg 2 false }
  | .callx _ => some { a := .r64, d := .reg 2 false }
  | .loop _ => some { a := .r32 }
  | .ld m _ => some { a := .r64, b := .r32, d := .reg m.size.regs true }
  | .st m _ => some { a := .r64, b := .r32, c := m.dataRole }
  | .ldk m _ => some { a := .r32, d := .reg m.size.regs false }
  | .pref _ _ => some { a := .r64, b := .r32 }
  | .drain _ _ | .fence _ _ => some {}
  | .discard m _ | .clean m _ | .inval m _ =>
    if m.tensorForm then some { a := .r32 } else some { a := .r64, b := .r32 }
  | .atom _ m _ => some { a := .r64, b := .r32, c := m.dataRole, d := .reg m.size.regs true }
  | .cas m _ => some { a := .r64, b := m.dataRole, c := m.dataRole, d := .reg m.size.regs true }
  | .acqr m _ => some { a := .r64, b := .r32, d := .reg m.size.regs false }
  | .barinit b _ => some { a := b.objRole, b := .r32 }
  | .bararv n b _ => some { a := b.objRole, b := if n then .r32 else .unread, d := .reg 1 true }
  | .barwait b _ => some { a := b.objRole, b := .r32, d := .reg 1 true }
  | .barsync b _ => some { a := b.objRole, d := .reg 1 true }
  | .barstat b _ | .barstatClr b _ => some { a := b.objRole, d := .reg 2 false }
  | .barstatX _ => some { b := .r32, d := .reg 2 false }
  | .barinv b _ => some { a := b.objRole }
  | .shfl _ rel w _ _ =>
    some { a := el w, b := if rel = .operand then .r32 else .unread, d := .reg (rn w) false }
  | .lred _ _ w _ _ => some { a := el w, d := .reg (rn w) false }
  | .vote _ _ _ => some { a := .r32, d := .vote }
  | .spawn _ | .spawnW _ => some { a := .r64, b := .r32, d := .reg 1 false }
  | .cp _ _ _ => some { a := .r64, b := .r64, c := .r32, d := .reg 1 true }
  | .cptLd _ _ _ _ _ | .cptSt _ _ _ _ _ => some { a := .r64, b := .r64, c := .quad, d := .reg 1 true }
  | .cpg _ _ _ => some { a := .r64, b := .r64, c := .r32, d := .reg 1 true }
  | .cpfill _ _ _ _ _ => some { a := .r64, b := .r32, c := .r32, d := .reg 1 true }
  | .shchk _ _ => some { a := .r64, d := .reg 2 false }
  | .mload _ _ _ _ _ _ _ => some { a := .r64, b := .r32, d := .reg 1 true }
  | .mswap _ _ => some { d := .reg 1 true }
  | .mstream _ _ _ _ _ | .mgather _ _ _ _ _ | .mread _ _ _ | .maccld _ _ _ _ =>
    some { a := .r64, b := .r32, c := .r32, d := .reg 1 true }
  | .mzero _ _ _ => some { b := .r32, d := .reg 1 true }
  | .scdesc _ _ => some { a := .r64, d := .reg 1 false }
  | .scan _ _ | .scanc _ _ _ _ _ => some { a := .r64, b := .r64, c := .r32, d := .reg 1 true }
  | .chopen _ => some { a := .r32, b := .r32, d := .reg 1 false }
  | .chclose _ | .chbar _ => some { d := .reg 1 false }
  | .chsend sz _ => some { a := srcOf sz.regs, d := .reg 1 false }
  | .chrecv sz _ => some { d := .reg sz.regs false }
  | .shipW tok _ | .shipT tok _ =>
    some { a := .r64, b := .r64, c := .quadOpt, d := .reg 4 true, tok := some tok }
  | .lcret _ => some { a := .quadOpt }
  | .fspawn n _ => some { a := .r64, b := if n = 0#3 then .unread else .r64, d := .reg 2 false }
  | .frefa _ | .frefaIn _ | .frefd _ | .frefdOut _ => some { a := .r64 }
  | .frefaOut _ => some { a := .r64, b := .r32 }
  | .fwait tok _ => some { a := .r64, d := .reg 4 true, tok := some tok }
  | .fpoll _ => some { a := .r64, d := .reg 1 false }
  | .fset _ => some { a := .r64, b := .quadOpt, d := .reg 1 true }
  | .rpoint _ | .tret _ | .tretFatal _ => some {}
  | .freplay _ | .fcancel _ | .wsopen _ | .wsclose _ | .halt _ | .haltResume _ =>
    some { a := .r32, d := .reg 1 true }
  | .freplayAll _ | .fcancelAll _ | .tlbinvAll _ => some { d := .reg 1 true }
  | .tlbinv _ | .tlbinvRoot _ => some { a := .r64, d := .reg 1 true }
  | .ctxsave _ | .ctxload _ => some { a := .r64, b := .r32, d := .reg 1 true }
  | .red t _ tok _ => some { a := .r32, b := el t.is64, d := .reg (rn t.is64) false, tok := some tok }
  | .mcast w _ => some { a := .r32, b := .r64, c := el w, d := .reg 1 false }
  | .rgrp _ _ _ => some { a := .r32, b := .r32, c := .r32, d := .reg 1 false }
  | .rgrpMc _ => some { a := .r32, b := .r32, c := .r64, d := .reg 1 false }
  | .rgrpFree _ => some { a := .r32, d := .reg 1 false }
  | .entryWordNop _ | .literalWordReached _ | .loadLands _ | .spawnWPlaced _ | .copyLands _ _ | .matrixGrant _
  | .matrixLands _ _ | .scanLands _ | .mailboxEntryArrives _ | .chbarComplete _ | .perchRequestEnqueue _
  | .sectionStart _ | .sectionWatchdog _ | .shipLands _ | .fspawnEntryGranted _ | .fwaitLands _ | .wsWindowOpen _
  | .redRoundClose _ _ | .redRoundTimeout _ | .mcastLands _ _ | .issueCycle _ | .pageWalk _ | .wcEntrySend _ _
  | .regionMerge _ _ | .forwardedStoreAck _ | .ltimeTick _ | .sliceWake _ _ | .refreshSlot | .dispatchHead _ _
  | .placeGroup _ _ | .preempt _ _ | .familyStopped _ | .groupRetire _ | .submissionSkip _ | .submissionLaunch _
  | .submissionSpawn _ | .submissionUnbound _ | .submissionDrop _ | .coreFusedOff _ _ | .dieLinkFail _ | .dieFail _
  | .hostRdmaWrite _ _ _ | .hostRdmaRead _ _ _ | .hostRdmaCas _ _ _ _ | .hostRdmaFetchAdd _ _ _
  | .hostRdmaRefusedOp _ | .pcbRegisterWrite _ _ _ | .loaderRequest | .keyLoad | .keyClear | .attestRequest
  | .powerArbiter _ _ | .thermalCrit | .powerStateEnter _ | .powerStateWake _ | .reset | .firmwareVerify _
  | .reducedService _ | .fullService _ _ _ | .fabricPacketDeliver _ | .fabricAck _ _ _ | .fabricResend _ _ _
  | .fabricUndeliverable _ _ _ | .floorNotice _ _ _ | .incarnationChange _ _ _ _ | .remoteAccessReply _ _ _
  | .laneSample _ _ _ | .portRetrain _ _ | .spineLost _ _ | .temperatureCrossesThrottleLimit _ => none

/-- CVT's format pairs with their rounding modes and saturation (R105), and the X2 sides (R104). -/
def CvtMod.cvtOk (m : CvtMod) : Bool :=
  let x2Ok := !m.x2 || ((m.df.bits == 16 || m.df.bits == 32) && (m.sf.bits == 16 || m.sf.bits == 32) &&
    (m.df.bits == 16 || m.sf.bits == 16))
  let ftzOk := !m.ftz || m.df.isFloat || m.sf.isFloat
  let pairOk :=
    if m.sf.isInt then
      if m.df.isInt then m.rnd == .rn else m.df.isFloat
    else if m.sf.isFloat then
      if m.df.isInt || m.df == .e8 then m.rnd != .rs && !m.sat
      else m.df.isFloat || !m.sat
    else if m.sf.isTapered then
      (m.df.isFloat || m.df.isTapered) && !m.sat
    else
      if m.df.isFloat then true else m.df == .e8 && m.rnd == .rn && !m.sat
  x2Ok && ftzOk && pairOk

/-- The modifiers of a special function (R103). -/
def CvtMod.sfnOk (m : CvtMod) : Bool :=
  (m.df == .f32 || m.df == .f16 || m.df == .bf16) && m.sf == m.df && m.rnd == .rn && !m.sat &&
    (!m.x2 || m.df != .f32)

/-- OFF24 of LOOP reaches at least the next word (R120, R127). DEDUCED: OFF24 is signed, as the branches' word offsets of R120
are, so 0x800000 to 0xFFFFFF are below the minimum and fault ILLEGAL_OPCODE; R127 itself writes no sign extension. -/
def loopOffOk (o : Opnds) : Bool :=
  let least : Int := match o.a with
    | .litLo _ | .litHi _ | .lit _ => 2
    | .gpr _ | .const _ | .latch _ | .pred _ | .sreg _ | .small _ | .imm => 1
  least ≤ o.imm.toInt

/-- MROWS is 1 to 1,024 (R231). -/
def rowsOk (r : BitVec 11) : Bool := 1 ≤ r.toNat && r.toNat ≤ 1024

/-- TYPE and ROP of class 0xD agree (R411). -/
def redOk (t : RedType) (op : RedOp) : Bool :=
  match t with
  | .f32 | .f64 | .bf16x2 => op == .add || op == .min || op == .max
  | .i32 | .n32 | .i64 | .n64 => true

/-- The barrier fields of class 0x7 (R184): the form not taken is zero. -/
def BarMod.ok (b : BarMod) : Bool := if b.obj then b.bar == 0#6 else b.imm20 == 0#20

/-- The modifier fields of an instruction are ones its table allows; any other value faults ILLEGAL_OPCODE
(R33 check 3, and the tables that `Instr.roles` names). -/
def Instr.modOk : Instr → Bool
  | .iaddc t _ _ | .isubb t _ _ | .bfx t _ | .bfi t _ | .lea t _ _ => t != .i16x2
  | .iabs t _ _ | .ineg t _ _ => t.signed
  | .idot4 t mixed _ _ => (t == .i32 || t == .n32) && (!mixed || t == .i32)
  | .frnd _ r _ _ => r != .rs
  | .fdot2 t _ _ _ => t == .f16x2 || t == .bf16x2
  | .cvt m _ => m.cvtOk
  | .packt m _ =>
    (m.df.isTapered || m.df == .i8 || m.df == .n8) && (m.sf == .f32 || m.sf == .f16 || m.sf == .bf16) &&
      (m.df.isTapered || m.rnd != .rs) && !m.sat && !m.x2
  | .unpackt m _ =>
    (m.df == .f32 || m.df == .f16 || m.df == .bf16) && (m.sf.isTapered || m.sf == .i8 || m.sf == .n8) &&
      !m.sat && !m.x2
  | .frcp m _ | .frsq m _ | .fexp2 m _ | .flog2 m _ | .fsinpi m _ | .fcospi m _ | .ftanh m _ | .fsigm m _ => m.sfnOk
  | .sacc m _ => m.df == .f32 && (m.sf == .f32 || m.sf == .i32) && !m.x2
  | .movi w n o =>
    if w then n.toNat ≤ 2 && (n.toNat < 2 || o.imm.toNat < 65536) else n.toNat ≤ 1 && (n.toNat < 1 || o.imm.toNat < 256)
  | .pmovSet o => o.imm.toNat < 128
  | .pmovGet o | .sread o | .swrite o => o.imm == 0#24
  | .loop o => loopOffOk o
  | .trap o => o.imm.toNat < 65536
  | .brx o | .brxEntry o | .callx o | .ret o | .exit o | .yield o | .conv _ o | .nop o => o.imm == 0#24
  | .ld m _ =>
    (m.order == .rlx && m.scope == .core || m.order == .acq) && (m.opx == 0#4 || m.opx == 1#4 && !m.sp)
  | .st m _ =>
    (m.size != .s8 && m.size != .s16) && (m.order == .rlx && m.scope == .core || m.order == .rel) &&
      (m.opx == 0#4 || m.opx == 1#4 && !m.sp || m.opx == 2#4 && !m.sp && m.order == .rlx)
  | .ldk m _ =>
    (m.size == .b32 || m.size == .b64) && m.order == .rlx && m.scope == .core && !m.sp && m.opx == 0#4 &&
      m.scale == 0#2
  | .pref m _ =>
    m.size == .b8 && m.order == .rlx && m.scope == .core && !m.sp && (m.opx == 0#4 || m.opx == 1#4)
  | .drain m _ =>
    m.size == .b8 && m.order == .rlx && m.scope == .core && !m.sp && m.opx == 0#4 && m.scale == 0#2 &&
      m.disp == 0#18
  | .discard m _ | .clean m _ | .inval m _ =>
    m.size == .b8 && m.order == .rlx && m.scope == .core && !m.sp &&
      (m.opx == 0#4 || m.opx == 2#4 && m.scale == 0#2 && m.disp == 0#18)
  | .atom op m _ =>
    (m.size == .b32 || m.size == .b64) && m.opx == op.code
  | .cas m _ => (m.size == .b32 || m.size == .b64) && m.opx == 0#4 && m.scale == 0#2
  | .fence m _ => m.size == .b8 && m.order != .rlx && !m.sp && m.opx == 0#4 && m.scale == 0#2 && m.disp == 0#18
  | .acqr m _ => (m.size == .b32 || m.size == .b64) && m.order == .rlx && !m.sp && m.opx == 0#4
  | .barinit b _ | .bararv _ b _ | .barwait b _ | .barsync b _ | .barstat b _ | .barstatClr b _ | .barinv b _ => b.ok
  | .shfl mode rel _ _ _ => rel == .operand || mode != .idx
  | .cp _ v _ | .cptLd _ _ _ v _ | .cptSt _ _ _ v _ | .cpfill _ _ _ v _ => v.arv || v.bar == 0#6
  | .mload _ fmt _ _ k1 n1 _ =>
    k1.toNat < 192 && n1.toNat < 192 && (fmt != .t6 || (k1.toNat + 1) % 4 == 0 && (n1.toNat + 1) % 4 == 0)
  | .mstream _ _ _ r _ | .mgather _ _ _ r _ | .mzero _ r _ | .maccld _ r _ _ => rowsOk r
  | .mread _ m _ =>
    rowsOk m.rows && m.rnd != .rs &&
      (if m.ai then m.ofmt == .i32 || m.ofmt == .i16 || m.ofmt == .i8 || m.ofmt == .n8 || m.ofmt == .f32
       else m.ofmt == .f32 || m.ofmt == .f16 || m.ofmt == .bf16 || (m.ofmt == .t8 || m.ofmt == .t6) && !m.sat)
  | .fspawn n o => n.toNat ≤ 4 && (n == 0#3) == (o.b == Operand.unread)
  | .red t op _ _ | .rgrp t op _ => redOk t op
  | _ => true

/-- The operand fields of a word instruction. -/
def Instr.opnds : Instr → Option Opnds
  | .iadd _ _ o | .isub _ _ o | .iaddc _ _ o | .isubb _ _ o | .imul _ _ o | .imulh _ o | .imad _ _ o | .idiv _ o
  | .irem _ o | .iabs _ _ o | .ineg _ _ o | .imin _ o | .imax _ o | .icmp _ _ o | .land _ o | .lor _ o | .lxor _ o
  | .landn _ o | .lnot _ o | .shl _ o | .shr _ o | .sar _ o | .rotl _ o | .popc _ o | .clz _ o | .ctz _ o | .brev _ o
  | .bfx _ o | .bfi _ o | .lea _ _ o | .idot4 _ _ _ o | .fadd _ _ _ o | .fsub _ _ _ o | .fmul _ _ _ o | .ffma _ _ _ o
  | .fmin _ _ _ o | .fmax _ _ _ o | .fabs _ _ o | .fneg _ _ o | .fcmp _ _ _ o | .fclass _ o | .frnd _ _ _ o
  | .fscale _ _ _ o | .fdiv _ _ _ o | .fsqrt _ _ _ o | .fdot2 _ _ _ o | .cvt _ o | .packt _ o | .unpackt _ o
  | .frcp _ o | .frsq _ o | .fexp2 _ o | .flog2 _ o | .fsinpi _ o | .fcospi _ o | .ftanh _ o | .fsigm _ o | .sacc _ o
  | .mov _ o | .movi _ _ o | .sel _ o | .plop _ _ o | .pmovGet o | .pmovSet o | .sread o | .swrite o | .bra o | .brx o
  | .brxEntry o | .call o | .callx o | .ret o | .exit o | .loop o | .lbrk o | .trap o | .yield o | .conv _ o | .nop o
  | .ld _ o | .st _ o | .ldk _ o | .pref _ o | .drain _ o | .discard _ o | .clean _ o | .inval _ o | .atom _ _ o
  | .cas _ o | .fence _ o | .acqr _ o | .barinit _ o | .bararv _ _ o | .barwait _ o | .barsync _ o | .barstat _ o
  | .barstatClr _ o | .barstatX o | .barinv _ o | .shfl _ _ _ _ o | .lred _ _ _ _ o | .vote _ _ o | .spawn o
  | .spawnW o | .cp _ _ o | .cptLd _ _ _ _ o | .cptSt _ _ _ _ o | .cpg _ _ o | .cpfill _ _ _ _ o | .shchk _ o
  | .mload _ _ _ _ _ _ o | .mswap _ o | .mstream _ _ _ _ o | .mgather _ _ _ _ o | .mread _ _ o | .mzero _ _ o
  | .maccld _ _ _ o | .scdesc _ o | .scan _ o | .scanc _ _ _ _ o | .chopen o | .chclose o | .chbar o | .chsend _ o
  | .chrecv _ o | .shipW _ o | .shipT _ o | .lcret o | .fspawn _ o | .frefa o | .frefaOut o | .frefaIn o | .frefd o
  | .frefdOut o | .fwait _ o | .fpoll o | .fset o | .rpoint o | .tret o | .tretFatal o | .freplay o | .freplayAll o
  | .fcancel o | .fcancelAll o | .tlbinv o | .tlbinvAll o | .tlbinvRoot o | .wsopen o | .wsclose o | .ctxsave o
  | .ctxload o | .halt o | .haltResume o | .red _ _ _ o | .mcast _ o | .rgrp _ _ o | .rgrpMc o | .rgrpFree o => some o
  | _ => none

/-- The literal an operand reads. -/
def Operand.literal : Operand → Option DWord
  | .litLo v | .litHi v | .lit v => some v
  | .gpr _ | .const _ | .latch _ | .pred _ | .sreg _ | .small _ | .imm => none

/-- The literal word of an instruction, if any operand field is in 0x301-0x303 (R27). -/
def Opnds.literal (o : Opnds) : Option DWord :=
  match o.a.literal, o.b.literal, o.c.literal with
  | some v, _, _ => some v
  | none, some v, _ => some v
  | none, none, v => v

/-- Bytes the PC advances by: 12, or 24 with a literal word (R11, R27). -/
def Opnds.len (o : Opnds) : Nat := if o.literal.isSome then 24 else 12

/-- Some operand field names a latch (R25). -/
def Operand.isLatch : Operand → Bool
  | .latch _ => true
  | .gpr _ | .const _ | .pred _ | .sreg _ | .small _ | .imm | .litLo _ | .litHi _ | .lit _ => false

end Sys2Proof
end

