-- ==== Sys2Proof/Machine/Checks.lean ====
section
/-! DEFINITION. The operand and register checks of R33 (checks 6 and 7) and the rule that an unused immediate is
zero (R35), as conditions on a decoded instruction. The decoder and well-formedness share them. -/
namespace Sys2Proof

/-- Special registers that no access may name (R16, R55, R119). -/
def sregReserved (n : BitVec 6) : Bool :=
  (23 ≤ n.toNat && n.toNat ≤ 31) || (42 ≤ n.toNat && n.toNat ≤ 47) || 60 ≤ n.toNat

/-- Special registers that may be written: CBANK, SEED, CTXBASE(HI), PRIV, PMC, PMSEL (R53, R55). -/
def sregWritable (n : BitVec 6) : Bool :=
  n.toNat == 11 || n.toNat == 12 || n.toNat == 32 || n.toNat == 33 || n.toNat == 40 ||
    (48 ≤ n.toNat && n.toNat ≤ 59)

/-- Supervisor special registers, 32-63 (R16, R55). -/
def sregSup (n : BitVec 6) : Bool := 32 ≤ n.toNat

/-- Check 6 for an operand field (R18-R20, R139, R314). -/
def Operand.okFor (imm : Bool) (r : ROp) (o : Operand) : Bool :=
  match r with
  | .unread => o == Operand.unread
  | .quad | .quadOpt =>
    match o with
    | .gpr _ => true
    | .const _ | .latch _ | .pred _ | .sreg _ | .small _ | .imm | .litLo _ | .litHi _ | .lit _ => false
  | .r32 | .r64 =>
    match o with
    | .imm => imm
    | .sreg n => !sregReserved n
    | .const n => r == .r32 || n.toNat % 2 == 0
    | .gpr _ | .latch _ | .pred _ | .small _ | .litLo _ | .litHi _ | .lit _ => true

/-- Check 6 for D (R15-R17, R19, R77, R113, R120, R212). -/
def Dest.okFor (r : DRole) (d : Dest) : Bool :=
  match r with
  | .unwritten => d == .none
  | .any n =>
    match d with
    | .sreg s => n == 1 && sregWritable s
    | .gpr _ | .pred _ | .none | .latch => true
  | .reg _ opt =>
    match d with
    | .gpr _ => true
    | .none => opt
    | .pred _ | .sreg _ | .latch => false
  | .vote =>
    match d with
    | .gpr _ | .pred _ | .none => true
    | .sreg _ | .latch => false

/-- An operand names a general-register quad (R16, R212). -/
def Operand.isQuad (o : Operand) : Bool :=
  match o with
  | .gpr n => n.toNat % 4 == 0 && decide (n.toNat < 240)
  | .const _ | .latch _ | .pred _ | .sreg _ | .small _ | .imm | .litLo _ | .litHi _ | .lit _ => false

/-- CP, CPT and CPFILL without an arrival need a token register, and CPT a register quad (R212). -/
def Instr.copyTokenOk : Instr → Bool
  | .cp _ v o | .cpfill _ _ _ v o => v.arv || o.d != .none
  | .cptLd _ _ _ v o | .cptSt _ _ _ v o => (v.arv || o.d != .none) && o.c.isQuad
  | _ => true

/-- TOK is not 255 and not inside a quad D (R314). -/
def tokOk (d : Dest) (dr : DRole) (tok : BitVec 8) : Bool :=
  tok != 255#8 &&
    match d, dr with
    | .gpr n, .reg 4 _ => tok.toNat < n.toNat || n.toNat + 4 ≤ tok.toNat
    | _, _ => true

/-- Check 6 of R33 on a decoded instruction. -/
def Instr.operandsOk (i : Instr) : Bool :=
  match i.roles, i.opnds with
  | some r, some o =>
    o.a.okFor r.imm r.a && o.b.okFor r.imm r.b && o.c.okFor r.imm r.c && o.d.okFor r.d && i.copyTokenOk &&
      (match r.tok with
       | some t => tokOk o.d r.d t
       | none => true)
  | _, _ => true

/-- A register that an instruction names and that covers `n` registers is within the budget (R15, R16). -/
def gprOk (budget n : Nat) (g : BitVec 8) : Bool :=
  if g == 255#8 then n != 4 else g.toNat < 240 && g.toNat < budget && g.toNat % n == 0

/-- Check 7 for an operand field. -/
def Operand.regOk (budget : Nat) (r : ROp) (o : Operand) : Bool :=
  match o with
  | .gpr g =>
    match r with
    | .unread => true
    | .r32 => gprOk budget 1 g
    | .r64 => gprOk budget 2 g
    | .quad => gprOk budget 4 g
    | .quadOpt => g == 255#8 || gprOk budget 4 g
  | .const _ | .latch _ | .pred _ | .sreg _ | .small _ | .imm | .litLo _ | .litHi _ | .lit _ => true

/-- Registers that D covers. -/
def DRole.regs : DRole → Nat
  | .any n | .reg n _ => n
  | .vote | .unwritten => 1

/-- Check 7 for D. -/
def Dest.regOk (budget : Nat) (r : DRole) (d : Dest) : Bool :=
  match d with
  | .gpr g => gprOk budget r.regs g
  | .pred _ | .sreg _ | .none | .latch => true

/-- Check 7 of R33 on a decoded instruction. -/
def Instr.registersOk (budget : Nat) (i : Instr) : Bool :=
  match i.roles, i.opnds with
  | some r, some o =>
    o.a.regOk budget r.a && o.b.regOk budget r.b && o.c.regOk budget r.c && o.d.regOk budget r.d &&
      (match r.tok with
       | some t => gprOk budget 1 t
       | none => true)
  | _, _ => true

/-- An operand field reads the immediate. -/
def Opnds.usesImm (o : Opnds) : Bool := o.a == .imm || o.b == .imm || o.c == .imm

/-- Bits that M keeps for what an instruction stores in `imm`: an immediate operand's 24 or 20 bits, a field of
the instruction's own, or nothing. -/
inductive ImmUse where | imm24 | imm20 | own | absent
  deriving DecidableEq, Repr

/-- Where `imm` comes from (R35, R113, R120). -/
def Instr.immUse : Instr → ImmUse
  | .iadd _ _ _ | .isub _ _ _ | .iaddc _ _ _ | .isubb _ _ _ | .imul _ _ _ | .imulh _ _ | .imad _ _ _ | .idiv _ _
  | .irem _ _ | .iabs _ _ _ | .ineg _ _ _ | .imin _ _ | .imax _ _ | .icmp _ _ _ | .land _ _ | .lor _ _ | .lxor _ _
  | .landn _ _ | .lnot _ _ | .shl _ _ | .shr _ _ | .sar _ _ | .rotl _ _ | .popc _ _ | .clz _ _ | .ctz _ _
  | .brev _ _ | .bfx _ _ | .bfi _ _ | .lea _ _ _ | .idot4 _ _ _ _ | .mov _ _ | .sel _ _ | .plop _ _ _ => .imm24
  | .fadd _ _ _ _ | .fsub _ _ _ _ | .fmul _ _ _ _ | .ffma _ _ _ _ | .fmin _ _ _ _ | .fmax _ _ _ _ | .fabs _ _ _
  | .fneg _ _ _ | .fcmp _ _ _ _ | .fclass _ _ | .frnd _ _ _ _ | .fscale _ _ _ _ | .fdiv _ _ _ _ | .fsqrt _ _ _ _
  | .fdot2 _ _ _ _ | .cvt _ _ | .packt _ _ | .unpackt _ _ | .frcp _ _ | .frsq _ _ | .fexp2 _ _ | .flog2 _ _
  | .fsinpi _ _ | .fcospi _ _ | .ftanh _ _ | .fsigm _ _ | .sacc _ _ => .imm20
  | .movi _ _ _ | .pmovGet _ | .pmovSet _ | .sread _ | .swrite _ | .bra _ | .brx _ | .brxEntry _ | .call _ | .callx _
  | .ret _ | .exit _ | .loop _ | .lbrk _ | .trap _ | .yield _ | .conv _ _ | .nop _ => .own
  | _ => .absent

/-- The immediate bits are ones the word can hold, and are zero where nothing reads them (R33 check 3, R35). -/
def Instr.immOk (i : Instr) : Bool :=
  match i.opnds with
  | some o =>
    match i.immUse with
    | .imm24 => o.usesImm || o.imm == 0#24
    | .imm20 => o.imm.toNat < 2 ^ 20 && (o.usesImm || o.imm == 0#24)
    | .own => true
    | .absent => o.imm == 0#24
  | none => true

/-- All literal operands of an instruction read the one literal word that follows it (R27). -/
def Opnds.literalsAgree (o : Opnds) : Bool :=
  match o.literal with
  | none => true
  | some v =>
    (o.a.literal == none || o.a.literal == some v) && (o.b.literal == none || o.b.literal == some v) &&
      (o.c.literal == none || o.c.literal == some v)

end Sys2Proof
end

