-- ==== Sys2Proof/WellFormed.lean ====
section
/-! DEFINITION. Well-formed instructions: the ones an assembler may emit and the decoder accepts at supervisor
privilege with the largest register budget (R15-R20, R27, R33-R36). Words below that privilege or budget are judged
by the decoder against the executing thread. -/
namespace Sys2Proof

/-- The largest register budget (R49). -/
def maxBudget : Nat := 240

/-- An instruction or event is well-formed. Events and the two words that are not instructions always are. -/
def Instr.wf (i : Instr) : Bool :=
  i.modOk && i.immOk && i.operandsOk && i.registersOk maxBudget &&
    match i.opnds with
    | some o => o.literalsAgree
    | none => true

/-- Well-formedness as a proposition. -/
abbrev WellFormed (i : Instr) : Prop := i.wf = true

end Sys2Proof
end

