-- ==== Sys2Proof/Decode.lean ====
section
/-! DEFINITION. Decoding an instruction word and its literal word (R11-R37), check by check in the order of R33, and
the encoder written from the same tables. Decoding is total: a word either gives an instruction with its guard and
hints, or the fault code that R33 names. -/
namespace Sys2Proof

/-- A decoded word: guard, hints and instruction (R12-R14). -/
structure Decoded where
  g : BitVec 4
  h : BitVec 6
  instr : Instr
  deriving DecidableEq, Repr

/-- What the checks of R33 need to know of the executing thread. -/
structure DecodeCtx where
  /-- supervisor privilege -/
  sup : Bool
  /-- the thread runs on a latency core -/
  onLC : Bool
  /-- register budget -/
  budget : Nat
  deriving DecidableEq, Repr

/-- The outcome of decoding. -/
inductive DecodeResult where
  | ok (d : Decoded)
  | bad (c : Code)
  deriving DecidableEq, Repr

/-- The unguarded guard, p7 (R13). -/
def guardAlways : BitVec 4 := 7#4

/-- An operand field's code is one R18 lists. -/
def operandFieldOk (x : BitVec 10) : Bool :=
  let n := x.toNat
  n < 0x204 || (0x208 ≤ n && n < 0x210) || (0x240 ≤ n && n < 0x304)

/-- The operand a field names (R18); a reserved code gives a register that check 7 refuses. -/
def Operand.ofField (x : BitVec 10) (lit : DWord) : Operand :=
  let n := x.toNat
  if n < 0x100 then .gpr (BitVec.ofNat 8 n)
  else if n < 0x200 then .const (BitVec.ofNat 8 n)
  else if n < 0x204 then .latch (BitVec.ofNat 2 n)
  else if n < 0x208 then .gpr 254#8
  else if n < 0x210 then .pred (BitVec.ofNat 3 n)
  else if n < 0x240 then .gpr 254#8
  else if n < 0x280 then .sreg (BitVec.ofNat 6 n)
  else if n < 0x300 then .small (BitVec.ofNat 7 n)
  else if n = 0x300 then .imm
  else if n = 0x301 then .litLo lit
  else if n = 0x302 then .litHi lit
  else if n = 0x303 then .lit lit
  else .gpr 254#8

/-- A D field's code is one R15 lists, with K (R17). -/
def destFieldOk (k : BitVec 1) (x : BitVec 9) : Bool :=
  if k = 1#1 then x.toNat == 511 else x.toNat < 328 || x.toNat == 511

/-- The destination a D field names (R15, R17). -/
def Dest.ofField (k : BitVec 1) (x : BitVec 9) : Dest :=
  let n := x.toNat
  if k = 1#1 then .latch
  else if n < 256 then .gpr (BitVec.ofNat 8 n)
  else if n < 264 then .pred (BitVec.ofNat 3 n)
  else if n < 328 then .sreg (BitVec.ofNat 6 (n - 264))
  else .none

/-- A field names a supervisor special register (check 4). -/
def operandFieldSup (x : BitVec 10) : Bool := 0x260 ≤ x.toNat && x.toNat < 0x280

/-- D names a supervisor special register (check 4). -/
def destFieldSup (x : BitVec 9) : Bool := 296 ≤ x.toNat && x.toNat < 328

/-- A field reads the trailing literal word (R27). -/
def operandFieldLit (x : BitVec 10) : Bool := 0x301 ≤ x.toNat && x.toNat ≤ 0x303

/-- `i` where the unused modifier bits are as the entry says, nothing otherwise (R35). -/
def need (c : Bool) (i : Instr) : Option Instr := if c then some i else none

/-- Class 0x0 (R80). -/
def decode0 (op : Nat) (m : M0) (mk : BitVec 24 → Opnds) : Option Instr :=
  let o := mk m.imm
  match IType.ofCode m.ty with
  | none => none
  | some t =>
    if m.rsv != 0#2 then none
    else
      let plain := m.sub == 0#4 && !m.sat
      let one := (m.sub == 0#4 || m.sub == 1#4) && !m.sat
      let co := m.sub == 1#4
      match op with
      | 0x00 => need (m.sub == 0#4) (.iadd t m.sat o)
      | 0x01 => need (m.sub == 0#4) (.isub t m.sat o)
      | 0x02 => need one (.iaddc t co o)
      | 0x03 => need one (.isubb t co o)
      | 0x04 => need (m.sub == 0#4) (.imul t m.sat o)
      | 0x05 => need plain (.imulh t o)
      | 0x06 => need (m.sub == 0#4) (.imad t m.sat o)
      | 0x07 => need plain (.idiv t o)
      | 0x08 => need plain (.irem t o)
      | 0x09 => need (m.sub == 0#4) (.iabs t m.sat o)
      | 0x0A => need (m.sub == 0#4) (.ineg t m.sat o)
      | 0x0B => need plain (.imin t o)
      | 0x0C => need plain (.imax t o)
      | 0x0D => match Cond.ofCode m.sub with
        | some cc => need (!m.sat) (.icmp t cc o)
        | none => none
      | 0x0E => need plain (.land t o)
      | 0x0F => need plain (.lor t o)
      | 0x10 => need plain (.lxor t o)
      | 0x11 => need plain (.landn t o)
      | 0x12 => need plain (.lnot t o)
      | 0x13 => need plain (.shl t o)
      | 0x14 => need plain (.shr t o)
      | 0x15 => need plain (.sar t o)
      | 0x16 => need plain (.rotl t o)
      | 0x17 => need plain (.popc t o)
      | 0x18 => need plain (.clz t o)
      | 0x19 => need plain (.ctz t o)
      | 0x1A => need plain (.brev t o)
      | 0x1B => need plain (.bfx t o)
      | 0x1C => need plain (.bfi t o)
      | 0x1D => need (!m.sat) (.lea t m.sub o)
      | 0x1E => need (m.sub == 0#4 || m.sub == 1#4) (.idot4 t co m.sat o)
      | _ => none

/-- Class 0x1 (R93). -/
def decode1 (op : Nat) (m : M1) (mk : BitVec 24 → Opnds) : Option Instr :=
  let o := mk (m.imm.setWidth 24)
  match FType.ofCode m.ty, Rnd.ofCode m.rnd with
  | some t, some r =>
    if m.rsv != 0#4 then none
    else
      let sub0 := m.sub == 0#4
      let plain := sub0 && r == .rn
      match op with
      | 0x00 => need sub0 (.fadd t r m.ftz o)
      | 0x01 => need sub0 (.fsub t r m.ftz o)
      | 0x02 => need sub0 (.fmul t r m.ftz o)
      | 0x03 => need sub0 (.ffma t r m.ftz o)
      | 0x04 => need ((m.sub == 0#4 || m.sub == 1#4) && r == .rn) (.fmin t (m.sub == 1#4) m.ftz o)
      | 0x05 => need ((m.sub == 0#4 || m.sub == 1#4) && r == .rn) (.fmax t (m.sub == 1#4) m.ftz o)
      | 0x06 => need plain (.fabs t m.ftz o)
      | 0x07 => need plain (.fneg t m.ftz o)
      | 0x08 => match FCond.ofCode m.sub with
        | some cc => need (r == .rn) (.fcmp t cc m.ftz o)
        | none => none
      | 0x09 => need (plain && !m.ftz) (.fclass t o)
      | 0x0A => need sub0 (.frnd t r m.ftz o)
      | 0x0B => need sub0 (.fscale t r m.ftz o)
      | 0x0C => need sub0 (.fdiv t r m.ftz o)
      | 0x0D => need sub0 (.fsqrt t r m.ftz o)
      | 0x0E => need sub0 (.fdot2 t r m.ftz o)
      | _ => none
  | _, _ => none

/-- Class 0x2 (R103); the limits on formats are `modOk`'s. -/
def decode2 (op : Nat) (m : M2) (mk : BitVec 24 → Opnds) : Option Instr :=
  let o := mk (m.imm.setWidth 24)
  match Fmt.ofCode m.df, Fmt.ofCode m.sf, Rnd.ofCode m.rnd with
  | some df, some sf, some r =>
    let c : CvtMod := ⟨df, sf, r, m.ftz, m.sat, m.x2⟩
    match op with
    | 0x00 => some (.cvt c o)
    | 0x01 => some (.packt c o)
    | 0x02 => some (.unpackt c o)
    | 0x03 => some (.frcp c o)
    | 0x04 => some (.frsq c o)
    | 0x05 => some (.fexp2 c o)
    | 0x06 => some (.flog2 c o)
    | 0x07 => some (.fsinpi c o)
    | 0x08 => some (.fcospi c o)
    | 0x09 => some (.ftanh c o)
    | 0x0A => some (.fsigm c o)
    | 0x0B => some (.sacc c o)
    | _ => none
  | _, _, _ => none

/-- Class 0x3 (R113). -/
def decode3 (op : Nat) (m : M3) (mk : BitVec 24 → Opnds) : Option Instr :=
  let o := mk m.imm
  if m.rsv != 0#1 then none
  else
    match op with
    | 0x00 => need (m.func == 0#8) (.mov m.w64 o)
    | 0x01 => need (m.func.toNat < 3) (.movi m.w64 (m.func.setWidth 2) o)
    | 0x02 => need (m.func == 0#8) (.sel m.w64 o)
    | 0x03 => some (.plop m.w64 m.func o)
    | 0x04 => if m.func = 0#8 then need (!m.w64) (.pmovGet o) else need (m.func == 1#8 && !m.w64) (.pmovSet o)
    | 0x05 => need (m.func == 0#8 && !m.w64) (.sread o)
    | 0x06 => need (m.func == 0#8 && !m.w64) (.swrite o)
    | _ => none

/-- Class 0x4 (R120). -/
def decode4 (op : Nat) (m : M4) (mk : BitVec 24 → Opnds) : Option Instr :=
  let o := mk m.off
  let plain := m.sub == 0#4 && m.arg6 == 0#6
  match op with
  | 0x00 => need plain (.bra o)
  | 0x01 => if m.sub = 1#4 then need (m.arg6 == 0#6) (.brxEntry o) else need plain (.brx o)
  | 0x02 => need plain (.call o)
  | 0x03 => need plain (.callx o)
  | 0x04 => need plain (.ret o)
  | 0x05 => need plain (.exit o)
  | 0x06 => need plain (.loop o)
  | 0x07 => need plain (.lbrk o)
  | 0x08 => need plain (.trap o)
  | 0x09 => need plain (.yield o)
  | 0x0A => need (m.sub == 0#4) (.conv m.arg6 o)
  | 0x0B => need plain (.nop o)
  | _ => none

/-- The modifiers of classes 0x5 and 0x6 (R36). -/
def MemMod.ofM (m : M5) : Option MemMod :=
  match Size.ofCode m.size, Scope.ofCode m.scope, Order.ofCode m.order with
  | some sz, some sc, some ord =>
    if m.space = 0#2 then some ⟨sz, sc, ord, false, m.opx, m.scale, m.disp⟩
    else if m.space = 1#2 then some ⟨sz, sc, ord, true, m.opx, m.scale, m.disp⟩
    else none
  | _, _, _ => none

/-- Class 0x5 (R139). -/
def decode5 (op : Nat) (m : M5) (mk : BitVec 24 → Opnds) : Option Instr :=
  let o := mk 0#24
  match MemMod.ofM m with
  | none => none
  | some mm =>
    match op with
    | 0x00 => some (.ld mm o)
    | 0x01 => some (.st mm o)
    | 0x02 => some (.ldk mm o)
    | 0x03 => some (.pref mm o)
    | 0x04 => some (.drain mm o)
    | 0x05 => some (.discard mm o)
    | 0x06 => some (.clean mm o)
    | 0x07 => some (.inval mm o)
    | _ => none

/-- Class 0x6 (R139, R144). -/
def decode6 (op : Nat) (m : M5) (mk : BitVec 24 → Opnds) : Option Instr :=
  let o := mk 0#24
  match MemMod.ofM m with
  | none => none
  | some mm =>
    match op with
    | 0x00 => match AtomOp.ofCode m.opx with
      | some a => some (.atom a mm o)
      | none => none
    | 0x01 => some (.cas mm o)
    | 0x02 => some (.fence mm o)
    | 0x03 => some (.acqr mm o)
    | _ => none

/-- Class 0x7 (R184, R191, R197-R199, R201). -/
def decode7 (op : Nat) (m : M7) (mk : BitVec 24 → Opnds) : Option Instr :=
  let o := mk 0#24
  let b : BarMod := ⟨m.bar, m.obj, m.imm⟩
  let sub0 := m.sub == 0#7
  let regOnly := !m.obj && m.imm == 0#20
  match op with
  | 0x00 => need sub0 (.barinit b o)
  | 0x01 => need (sub0 || m.sub == 1#7) (.bararv (m.sub == 1#7) b o)
  | 0x02 => need sub0 (.barwait b o)
  | 0x03 => need sub0 (.barsync b o)
  | 0x04 =>
    if m.sub = 0#7 then some (.barstat b o)
    else if m.sub = 1#7 then need (regOnly && m.bar == 0#6) (.barstatX o)
    else need (m.sub == 2#7) (.barstatClr b o)
  | 0x05 => need sub0 (.barinv b o)
  | 0x06 =>
    let s := ShflSub.ofNat m.sub.toNat
    match ShflMode.ofCode s.mode, ShflRel.ofCode s.rel with
    | some mode, some rel => need (regOnly && s.rsv == 0#1) (.shfl mode rel s.w64 m.bar o)
    | _, _ => none
  | 0x07 =>
    let s := LredSub.ofNat m.sub.toNat
    match LredOp.ofCode s.op, LredForm.ofCode s.form with
    | some lop, some form => need regOnly (.lred lop form s.w64 m.bar o)
    | _, _ => none
  | 0x08 =>
    match VoteKind.ofCode (m.sub.setWidth 3) with
    | some k => need (regOnly && m.sub.toNat < 8) (.vote k m.bar o)
    | none => none
  | 0x09 =>
    if m.sub = 0#7 then need (regOnly && m.bar == 0#6) (.spawn o)
    else need (m.sub == 1#7 && regOnly && m.bar == 0#6) (.spawnW o)
  | _ => none

/-- Class 0x8 (R212). -/
def decode8 (op : Nat) (m : M8) (mk : BitVec 24 → Opnds) : Option Instr :=
  let o := mk 0#24
  let v : ArvMod := ⟨m.bar, m.arv⟩
  let g := Arg8.ofNat m.arg.toNat
  let noArv := !m.arv && m.bar == 0#6
  if m.rsv != 0#3 then none
  else
    match op with
    | 0x00 => need (g.hi == 0#20 && !g.b3) (.cp ⟨g.b0, g.b1, g.b2⟩ v o)
    | 0x01 => need (g.hi == 0#20) (if g.b0 then .cptSt g.b1 g.b2 g.b3 v o else .cptLd g.b1 g.b2 g.b3 v o)
    | 0x02 => need noArv (.cpg ⟨g.b0, g.b1, g.b2⟩ (fld m.arg.toNat 3 21) o)
    | 0x03 =>
      match FillSize.ofCode (fld m.arg.toNat 3 2) with
      | some sz => need (m.arg.toNat < 32 && !g.b0) (.cpfill g.b1 g.b2 sz v o)
      | none => none
    | 0x04 => need (noArv && g.hi == 0#20 && !g.b0 && !g.b1 && !g.b2) (.shchk g.b3 o)
    | _ => none

/-- Class 0x9 (R231). -/
def decode9 (op : Nat) (m : M9) (mk : BitVec 24 → Opnds) : Option Instr :=
  let o := mk 0#24
  let noFmt := m.fmt == 0#4 && !m.tr
  match op with
  | 0x00 =>
    let g := Arg9Load.ofNat m.arg.toNat
    match MFmt.ofCode m.fmt with
    | some f => need (g.rsv == 0#6) (.mload m.bar f m.tr g.sp g.k1 g.n1 o)
    | none => none
  | 0x01 => need (noFmt && m.arg == 0#23) (.mswap m.bar o)
  | 0x02 =>
    let g := Arg9Stream.ofNat m.arg.toNat
    match MFmt.ofCode m.fmt with
    | some f => need (!m.tr && g.rsv == 0#11) (.mstream m.bar f g.ow g.rows o)
    | none => none
  | 0x03 =>
    let g := Arg9Stream.ofNat m.arg.toNat
    match MFmt.ofCode m.fmt with
    | some f => need (!m.tr && g.rsv == 0#11) (.mgather m.bar f g.ow g.rows o)
    | none => none
  | 0x04 =>
    let g := Arg9Read.ofNat m.arg.toNat
    match Fmt.ofCode g.ofmt, Rnd.ofCode g.rnd with
    | some f, some r => need (noFmt && g.rsv == 0#1) (.mread m.bar ⟨g.rows, f, r, g.sat, g.dsp, g.clr, g.ai⟩ o)
    | _, _ => none
  | 0x05 =>
    let g := Arg9Acc.ofNat m.arg.toNat
    need (noFmt && g.rsvHi == 0#3 && !g.ssp && g.rsvLo == 0#8) (.mzero m.bar g.rows o)
  | 0x06 =>
    let g := Arg9Acc.ofNat m.arg.toNat
    need (noFmt && g.rsvHi == 0#3 && g.rsvLo == 0#8) (.maccld m.bar g.rows g.ssp o)
  | _ => none

/-- Class 0xA (R250). -/
def decodeA (op : Nat) (m : MA) (mk : BitVec 24 → Opnds) : Option Instr :=
  let o := mk 0#24
  let plain := m.bar == 0#6 && m.arg == 0#28
  match op with
  | 0x00 => need (m.bar == 0#6 && m.arg.toNat < 2) (.scdesc (flag m.arg.toNat 0) o)
  | 0x01 => need (m.arg == 0#28) (.scan m.bar o)
  | 0x02 => need (m.arg.toNat < 8)
      (.scanc (flag m.arg.toNat 0) (flag m.arg.toNat 1) (flag m.arg.toNat 2) m.bar o)
  | 0x03 => need plain (.chopen o)
  | 0x04 => need plain (.chclose o)
  | 0x05 => need plain (.chbar o)
  | 0x06 => match ChSize.ofCode (fld m.arg.toNat 0 2) with
    | some sz => need (m.bar == 0#6 && m.arg.toNat < 4) (.chsend sz o)
    | none => none
  | 0x07 => match ChSize.ofCode (fld m.arg.toNat 0 2) with
    | some sz => need (m.bar == 0#6 && m.arg.toNat < 4) (.chrecv sz o)
    | none => none
  | _ => none

/-- Class 0xB (R314, R343). -/
def decodeB (op : Nat) (m : MB) (mk : BitVec 24 → Opnds) : Option Instr :=
  let o := mk 0#24
  let plain := !m.t && m.sub == 0#5 && m.arg == 0#28
  let z := !m.t && m.arg == 0#28
  let tok : BitVec 8 := fld m.arg.toNat 0 8
  let tokArg := m.sub == 0#5 && m.arg.toNat < 256
  match op with
  | 0x00 => need tokArg (if m.t then .shipT tok o else .shipW tok o)
  | 0x01 => need plain (.lcret o)
  | 0x02 => need (!m.t && m.sub == 0#5 && m.arg.toNat < 8) (.fspawn (fld m.arg.toNat 0 3) o)
  | 0x03 =>
    if m.sub = 0#5 then need z (.frefa o)
    else if m.sub = 1#5 then need z (.frefaOut o)
    else need (z && m.sub == 2#5) (.frefaIn o)
  | 0x04 => if m.sub = 0#5 then need z (.frefd o) else need (z && m.sub == 1#5) (.frefdOut o)
  | 0x05 => need (!m.t && tokArg) (.fwait tok o)
  | 0x06 => need plain (.fpoll o)
  | 0x07 => need plain (.fset o)
  | 0x08 => need plain (.rpoint o)
  | _ => none

/-- Class 0xC (R171, R174, R175, R177, R298, R301, R306). -/
def decodeC (op : Nat) (m : BitVec 34) (mk : BitVec 24 → Opnds) : Option Instr :=
  let o := mk 0#24
  let z := m == 0#34
  let z1 := m == 1#34
  match op with
  | 0x00 => if m = 0#34 then some (.tret o) else need z1 (.tretFatal o)
  | 0x01 => if m = 0#34 then some (.freplay o) else need z1 (.freplayAll o)
  | 0x02 => if m = 0#34 then some (.fcancel o) else need z1 (.fcancelAll o)
  | 0x03 =>
    if m = 0#34 then some (.tlbinv o)
    else if m = 1#34 then some (.tlbinvAll o)
    else need (m == 2#34) (.tlbinvRoot o)
  | 0x04 => need z (.wsopen o)
  | 0x05 => need z (.wsclose o)
  | 0x06 => need z (.ctxsave o)
  | 0x07 => need z (.ctxload o)
  | 0x08 => if m = 0#34 then some (.halt o) else need z1 (.haltResume o)
  | _ => none

/-- Class 0xD (R411). -/
def decodeD (op : Nat) (m : MD) (mk : BitVec 24 → Opnds) : Option Instr :=
  let o := mk 0#24
  let z := m.ty == 0#3 && m.rop == 0#4
  match op with
  | 0x00 =>
    match RedType.ofCode m.ty, RedOp.ofCode m.rop with
    | some t, some r => need (m.arg.toNat < 256) (.red t r (fld m.arg.toNat 0 8) o)
    | _, _ => none
  | 0x01 => need (z && m.arg.toNat < 2) (.mcast (flag m.arg.toNat 0) o)
  | 0x02 =>
    if m.arg = 0#27 then
      match RedType.ofCode m.ty, RedOp.ofCode m.rop with
      | some t, some r => some (.rgrp t r o)
      | _, _ => none
    else if m.arg = 1#27 then need z (.rgrpMc o)
    else need (z && m.arg == 2#27) (.rgrpFree o)
  | _ => none

/-- The instruction that OPC and M name (R34, R35), with the operand fields that `mk` completes; none is check 3's
ILLEGAL_OPCODE. -/
def decodeOp (opc : BitVec 12) (m : BitVec 34) (mk : BitVec 24 → Opnds) : Option Instr :=
  let op := opc.toNat % 256
  let x := m.toNat
  match opc.toNat / 256 with
  | 0x0 => decode0 op (M0.ofNat x) mk
  | 0x1 => decode1 op (M1.ofNat x) mk
  | 0x2 => decode2 op (M2.ofNat x) mk
  | 0x3 => decode3 op (M3.ofNat x) mk
  | 0x4 => decode4 op (M4.ofNat x) mk
  | 0x5 => decode5 op (M5.ofNat x) mk
  | 0x6 => decode6 op (M5.ofNat x) mk
  | 0x7 => decode7 op (M7.ofNat x) mk
  | 0x8 => decode8 op (M8.ofNat x) mk
  | 0x9 => decode9 op (M9.ofNat x) mk
  | 0xA => decodeA op (MA.ofNat x) mk
  | 0xB => decodeB op (MB.ofNat x) mk
  | 0xC => decodeC op m mk
  | 0xD => decodeD op (MD.ofNat x) mk
  | _ => none

/-- Check 3 of R33: the instruction, if OPC, H[74] and M are defined. -/
def decodeModifiers (f : Fields) (lit : DWord) : Option Instr :=
  let mk := fun imm => (⟨imm, Dest.ofField f.k f.d, Operand.ofField f.a lit, Operand.ofField f.b lit,
    Operand.ofField f.c lit⟩ : Opnds)
  match decodeOp f.opc f.m mk with
  | none => none
  | some i => need (!f.h.getLsbD 0 && i.modOk && i.immOk) i

/-- Classes that a latency core does not run (check 5). -/
def classNotOnLC (opc : BitVec 12) (i : Instr) : Bool :=
  7 ≤ opc.toNat / 256 && opc.toNat / 256 ≤ 10 &&
    match i with
    | .barstatX _ => false
    | _ => true

/-- Some operand field reads the literal word (R27). -/
def Fields.readsLiteral (f : Fields) : Bool := operandFieldLit f.a || operandFieldLit f.b || operandFieldLit f.c

/-- The instruction at a word reads the literal word behind it (R27); entry words and literal words read none. -/
def wordReadsLiteral (w : BitVec 96) : Bool :=
  let f := Fields.ofNat w.toNat
  decide (f.opc.toNat < 0xFFE) && f.readsLiteral

/-- Bits [95:64] of a literal word (R27). -/
def literalHi : Nat := 0xFFF00000

/-- The 64-bit literal, if the word is a literal word (R27). -/
def literalOf (w : BitVec 96) : Option DWord :=
  if w.toNat / 2 ^ 64 = literalHi then some (BitVec.ofNat 64 w.toNat) else none

/-- Checks 3 to 7 of R33 on the fields of a word, in order. -/
def decodeFields (ctx : DecodeCtx) (f : Fields) (lit : DWord) : DecodeResult :=
  match decodeModifiers f lit with
  | none => .bad .illegalOpcode
  | some i =>
    if !ctx.sup && (f.opc.toNat / 256 == 0xC || operandFieldSup f.a || operandFieldSup f.b || operandFieldSup f.c ||
        destFieldSup f.d) then .bad .privilege
    else if ctx.onLC && classNotOnLC f.opc i then .bad .unsupportedOnLc
    else if !(operandFieldOk f.a && operandFieldOk f.b && operandFieldOk f.c && destFieldOk f.k f.d && i.operandsOk) then
      .bad .illegalOperand
    else if !i.registersOk ctx.budget then .bad .illegalRegister
    else .ok ⟨f.g, f.h, i⟩

/-- Decoding a word (R33, checks 2 to 8): `next` is the literal in the following word, none when that word is not a
literal word. Entry words and literal words reached as instructions decode to their own rows (R28, R30). -/
def decode (ctx : DecodeCtx) (w : BitVec 96) (next : Option DWord) : DecodeResult :=
  let f := Fields.ofNat w.toNat
  if f.opc = 0xFFF#12 then .ok ⟨guardAlways, 0#6, .literalWordReached (BitVec.ofNat 84 w.toNat)⟩
  else if f.opc = 0xFFE#12 then .ok ⟨guardAlways, 0#6, .entryWordNop (BitVec.ofNat 84 w.toNat)⟩
  else
    match decodeFields ctx f (next.getD 0#64) with
    | .bad c => .bad c
    | .ok d => if f.readsLiteral && next.isNone then .bad .illegalLiteral else .ok d

/-- The word at the lowest 12 bytes and the literal in the next 12, little-endian (R11). -/
def decodeBytes (ctx : DecodeCtx) (bytes : List Byte) : DecodeResult :=
  let x := bytes.foldr (fun b acc => b.toNat + 256 * acc) 0
  decode ctx (BitVec.ofNat 96 x) (literalOf (BitVec.ofNat 96 (x / 2 ^ 96)))

/-! The encoder, from the same tables. -/

/-- The field of an operand (R18). -/
def Operand.field : Operand → Nat
  | .gpr n => n.toNat
  | .const n => 0x100 + n.toNat
  | .latch n => 0x200 + n.toNat
  | .pred n => 0x208 + n.toNat
  | .sreg n => 0x240 + n.toNat
  | .small v => 0x280 + v.toNat
  | .imm => 0x300
  | .litLo _ => 0x301
  | .litHi _ => 0x302
  | .lit _ => 0x303

/-- The D field (R15). -/
def Dest.field : Dest → Nat
  | .gpr n => n.toNat
  | .pred n => 256 + n.toNat
  | .sreg n => 264 + n.toNat
  | .none | .latch => 511

/-- The K bit (R17). -/
def Dest.kill : Dest → BitVec 1
  | .latch => 1#1
  | .gpr _ | .pred _ | .sreg _ | .none => 0#1

/-- M of class 0x0. -/
def m0 (t : IType) (sub : BitVec 4) (sat : Bool) (o : Opnds) : Nat := (M0.mk t.code sub sat 0#2 o.imm).toNat

/-- M of class 0x1. -/
def m1 (t : FType) (r : Rnd) (ftz : Bool) (sub : BitVec 4) (o : Opnds) : Nat :=
  (M1.mk t.code r.code ftz sub 0#4 (o.imm.setWidth 20)).toNat

/-- M of class 0x2. -/
def m2 (c : CvtMod) (o : Opnds) : Nat :=
  (M2.mk c.df.code c.sf.code c.rnd.code c.ftz c.sat c.x2 (o.imm.setWidth 20)).toNat

/-- M of class 0x3. -/
def m3 (w64 : Bool) (func : BitVec 8) (o : Opnds) : Nat := (M3.mk w64 0#1 func o.imm).toNat

/-- M of class 0x4. -/
def m4 (sub : BitVec 4) (arg6 : BitVec 6) (o : Opnds) : Nat := (M4.mk sub arg6 o.imm).toNat

/-- M of classes 0x5 and 0x6. -/
def m5 (m : MemMod) : Nat :=
  (M5.mk m.size.code m.scope.code m.order.code (if m.sp then 1#2 else 0#2) m.opx m.scale m.disp).toNat

/-- M of the barrier operations of class 0x7. -/
def m7 (b : BarMod) (sub : BitVec 7) : Nat := (M7.mk b.bar b.obj sub b.imm20).toNat

/-- M of the register-only operations of class 0x7. -/
def m7r (bar : BitVec 6) (sub : Nat) : Nat := (M7.mk bar false (BitVec.ofNat 7 sub) 0#20).toNat

/-- M of class 0x8. -/
def m8 (v : ArvMod) (arg : Nat) : Nat := (M8.mk v.bar v.arv 0#3 (BitVec.ofNat 24 arg)).toNat

/-- ARG24 of a copy. -/
def arg8 (hi : BitVec 20) (b3 b2 b1 b0 : Bool) : Nat := (Arg8.mk hi b3 b2 b1 b0).toNat

/-- M of class 0x9. -/
def m9 (bar : BitVec 6) (fmt : BitVec 4) (tr : Bool) (arg : Nat) : Nat :=
  (M9.mk bar fmt tr (BitVec.ofNat 23 arg)).toNat

/-- M of class 0xA. -/
def mA (bar : BitVec 6) (arg : Nat) : Nat := (MA.mk bar (BitVec.ofNat 28 arg)).toNat

/-- M of class 0xB. -/
def mB (t : Bool) (sub : BitVec 5) (arg : Nat) : Nat := (MB.mk t sub (BitVec.ofNat 28 arg)).toNat

/-- M of class 0xD. -/
def mD (ty : BitVec 3) (rop : BitVec 4) (arg : Nat) : Nat := (MD.mk ty rop (BitVec.ofNat 27 arg)).toNat

/-- No arrival. -/
def ArvMod.absent : ArvMod := ⟨0#6, false⟩

/-- OPC and M of a word instruction (R34, R35); none for the rows that no instruction word encodes. -/
def Instr.opcM : Instr → Option (Nat × Nat)
  | .iadd t s o => some (0x000, m0 t 0#4 s o)
  | .isub t s o => some (0x001, m0 t 0#4 s o)
  | .iaddc t c o => some (0x002, m0 t (if c then 1#4 else 0#4) false o)
  | .isubb t c o => some (0x003, m0 t (if c then 1#4 else 0#4) false o)
  | .imul t s o => some (0x004, m0 t 0#4 s o)
  | .imulh t o => some (0x005, m0 t 0#4 false o)
  | .imad t s o => some (0x006, m0 t 0#4 s o)
  | .idiv t o => some (0x007, m0 t 0#4 false o)
  | .irem t o => some (0x008, m0 t 0#4 false o)
  | .iabs t s o => some (0x009, m0 t 0#4 s o)
  | .ineg t s o => some (0x00A, m0 t 0#4 s o)
  | .imin t o => some (0x00B, m0 t 0#4 false o)
  | .imax t o => some (0x00C, m0 t 0#4 false o)
  | .icmp t cc o => some (0x00D, m0 t cc.code false o)
  | .land t o => some (0x00E, m0 t 0#4 false o)
  | .lor t o => some (0x00F, m0 t 0#4 false o)
  | .lxor t o => some (0x010, m0 t 0#4 false o)
  | .landn t o => some (0x011, m0 t 0#4 false o)
  | .lnot t o => some (0x012, m0 t 0#4 false o)
  | .shl t o => some (0x013, m0 t 0#4 false o)
  | .shr t o => some (0x014, m0 t 0#4 false o)
  | .sar t o => some (0x015, m0 t 0#4 false o)
  | .rotl t o => some (0x016, m0 t 0#4 false o)
  | .popc t o => some (0x017, m0 t 0#4 false o)
  | .clz t o => some (0x018, m0 t 0#4 false o)
  | .ctz t o => some (0x019, m0 t 0#4 false o)
  | .brev t o => some (0x01A, m0 t 0#4 false o)
  | .bfx t o => some (0x01B, m0 t 0#4 false o)
  | .bfi t o => some (0x01C, m0 t 0#4 false o)
  | .lea t n o => some (0x01D, m0 t n false o)
  | .idot4 t x s o => some (0x01E, m0 t (if x then 1#4 else 0#4) s o)
  | .fadd t r z o => some (0x100, m1 t r z 0#4 o)
  | .fsub t r z o => some (0x101, m1 t r z 0#4 o)
  | .fmul t r z o => some (0x102, m1 t r z 0#4 o)
  | .ffma t r z o => some (0x103, m1 t r z 0#4 o)
  | .fmin t n z o => some (0x104, m1 t .rn z (if n then 1#4 else 0#4) o)
  | .fmax t n z o => some (0x105, m1 t .rn z (if n then 1#4 else 0#4) o)
  | .fabs t z o => some (0x106, m1 t .rn z 0#4 o)
  | .fneg t z o => some (0x107, m1 t .rn z 0#4 o)
  | .fcmp t cc z o => some (0x108, m1 t .rn z cc.code o)
  | .fclass t o => some (0x109, m1 t .rn false 0#4 o)
  | .frnd t r z o => some (0x10A, m1 t r z 0#4 o)
  | .fscale t r z o => some (0x10B, m1 t r z 0#4 o)
  | .fdiv t r z o => some (0x10C, m1 t r z 0#4 o)
  | .fsqrt t r z o => some (0x10D, m1 t r z 0#4 o)
  | .fdot2 t r z o => some (0x10E, m1 t r z 0#4 o)
  | .cvt c o => some (0x200, m2 c o)
  | .packt c o => some (0x201, m2 c o)
  | .unpackt c o => some (0x202, m2 c o)
  | .frcp c o => some (0x203, m2 c o)
  | .frsq c o => some (0x204, m2 c o)
  | .fexp2 c o => some (0x205, m2 c o)
  | .flog2 c o => some (0x206, m2 c o)
  | .fsinpi c o => some (0x207, m2 c o)
  | .fcospi c o => some (0x208, m2 c o)
  | .ftanh c o => some (0x209, m2 c o)
  | .fsigm c o => some (0x20A, m2 c o)
  | .sacc c o => some (0x20B, m2 c o)
  | .mov w o => some (0x300, m3 w 0#8 o)
  | .movi w n o => some (0x301, m3 w (n.setWidth 8) o)
  | .sel w o => some (0x302, m3 w 0#8 o)
  | .plop w t o => some (0x303, m3 w t o)
  | .pmovGet o => some (0x304, m3 false 0#8 o)
  | .pmovSet o => some (0x304, m3 false 1#8 o)
  | .sread o => some (0x305, m3 false 0#8 o)
  | .swrite o => some (0x306, m3 false 0#8 o)
  | .bra o => some (0x400, m4 0#4 0#6 o)
  | .brx o => some (0x401, m4 0#4 0#6 o)
  | .brxEntry o => some (0x401, m4 1#4 0#6 o)
  | .call o => some (0x402, m4 0#4 0#6 o)
  | .callx o => some (0x403, m4 0#4 0#6 o)
  | .ret o => some (0x404, m4 0#4 0#6 o)
  | .exit o => some (0x405, m4 0#4 0#6 o)
  | .loop o => some (0x406, m4 0#4 0#6 o)
  | .lbrk o => some (0x407, m4 0#4 0#6 o)
  | .trap o => some (0x408, m4 0#4 0#6 o)
  | .yield o => some (0x409, m4 0#4 0#6 o)
  | .conv n o => some (0x40A, m4 0#4 n o)
  | .nop o => some (0x40B, m4 0#4 0#6 o)
  | .ld m _ => some (0x500, m5 m)
  | .st m _ => some (0x501, m5 m)
  | .ldk m _ => some (0x502, m5 m)
  | .pref m _ => some (0x503, m5 m)
  | .drain m _ => some (0x504, m5 m)
  | .discard m _ => some (0x505, m5 m)
  | .clean m _ => some (0x506, m5 m)
  | .inval m _ => some (0x507, m5 m)
  | .atom _ m _ => some (0x600, m5 m)
  | .cas m _ => some (0x601, m5 m)
  | .fence m _ => some (0x602, m5 m)
  | .acqr m _ => some (0x603, m5 m)
  | .barinit b _ => some (0x700, m7 b 0#7)
  | .bararv n b _ => some (0x701, m7 b (if n then 1#7 else 0#7))
  | .barwait b _ => some (0x702, m7 b 0#7)
  | .barsync b _ => some (0x703, m7 b 0#7)
  | .barstat b _ => some (0x704, m7 b 0#7)
  | .barstatClr b _ => some (0x704, m7 b 2#7)
  | .barstatX _ => some (0x704, m7r 0#6 1)
  | .barinv b _ => some (0x705, m7 b 0#7)
  | .shfl mode rel w bar _ => some (0x706, m7r bar (ShflSub.mk 0#1 w rel.code mode.code).toNat)
  | .lred op form w bar _ => some (0x707, m7r bar (LredSub.mk w form.code op.code).toNat)
  | .vote k bar _ => some (0x708, m7r bar k.code.toNat)
  | .spawn _ => some (0x709, m7r 0#6 0)
  | .spawnW _ => some (0x709, m7r 0#6 1)
  | .cp d v _ => some (0x800, m8 v (arg8 0#20 false d.na d.dsp d.ssp))
  | .cptLd lsp na rsp v _ => some (0x801, m8 v (arg8 0#20 rsp na lsp false))
  | .cptSt lsp na rsp v _ => some (0x801, m8 v (arg8 0#20 rsp na lsp true))
  | .cpg d len _ => some (0x802, m8 .absent (len.toNat * 8 + (d.na.toNat * 4 + (d.dsp.toNat * 2 + d.ssp.toNat))))
  | .cpfill dsp na sz v _ => some (0x803, m8 v (sz.code.toNat * 8 + (na.toNat * 4 + dsp.toNat * 2)))
  | .shchk rsp _ => some (0x804, m8 .absent (arg8 0#20 rsp false false false))
  | .mload bar f tr sp k1 n1 _ => some (0x900, m9 bar f.code tr (Arg9Load.mk 0#6 sp n1 k1).toNat)
  | .mswap bar _ => some (0x901, m9 bar 0#4 false 0)
  | .mstream bar f ow rows _ => some (0x902, m9 bar f.code false (Arg9Stream.mk 0#11 ow rows).toNat)
  | .mgather bar f ow rows _ => some (0x903, m9 bar f.code false (Arg9Stream.mk 0#11 ow rows).toNat)
  | .mread bar m _ =>
    some (0x904, m9 bar 0#4 false (Arg9Read.mk 0#1 m.ai m.clr m.dsp m.sat m.rnd.code m.ofmt.code m.rows).toNat)
  | .mzero bar rows _ => some (0x905, m9 bar 0#4 false (Arg9Acc.mk 0#3 false 0#8 rows).toNat)
  | .maccld bar rows ssp _ => some (0x906, m9 bar 0#4 false (Arg9Acc.mk 0#3 ssp 0#8 rows).toNat)
  | .scdesc sp _ => some (0xA00, mA 0#6 sp.toNat)
  | .scan bar _ => some (0xA01, mA bar 0)
  | .scanc l n w bar _ => some (0xA02, mA bar (w.toNat * 4 + (n.toNat * 2 + l.toNat)))
  | .chopen _ => some (0xA03, mA 0#6 0)
  | .chclose _ => some (0xA04, mA 0#6 0)
  | .chbar _ => some (0xA05, mA 0#6 0)
  | .chsend sz _ => some (0xA06, mA 0#6 sz.code.toNat)
  | .chrecv sz _ => some (0xA07, mA 0#6 sz.code.toNat)
  | .shipW tok _ => some (0xB00, mB false 0#5 tok.toNat)
  | .shipT tok _ => some (0xB00, mB true 0#5 tok.toNat)
  | .lcret _ => some (0xB01, mB false 0#5 0)
  | .fspawn n _ => some (0xB02, mB false 0#5 n.toNat)
  | .frefa _ => some (0xB03, mB false 0#5 0)
  | .frefaOut _ => some (0xB03, mB false 1#5 0)
  | .frefaIn _ => some (0xB03, mB false 2#5 0)
  | .frefd _ => some (0xB04, mB false 0#5 0)
  | .frefdOut _ => some (0xB04, mB false 1#5 0)
  | .fwait tok _ => some (0xB05, mB false 0#5 tok.toNat)
  | .fpoll _ => some (0xB06, mB false 0#5 0)
  | .fset _ => some (0xB07, mB false 0#5 0)
  | .rpoint _ => some (0xB08, mB false 0#5 0)
  | .tret _ => some (0xC00, 0)
  | .tretFatal _ => some (0xC00, 1)
  | .freplay _ => some (0xC01, 0)
  | .freplayAll _ => some (0xC01, 1)
  | .fcancel _ => some (0xC02, 0)
  | .fcancelAll _ => some (0xC02, 1)
  | .tlbinv _ => some (0xC03, 0)
  | .tlbinvAll _ => some (0xC03, 1)
  | .tlbinvRoot _ => some (0xC03, 2)
  | .wsopen _ => some (0xC04, 0)
  | .wsclose _ => some (0xC05, 0)
  | .ctxsave _ => some (0xC06, 0)
  | .ctxload _ => some (0xC07, 0)
  | .halt _ => some (0xC08, 0)
  | .haltResume _ => some (0xC08, 1)
  | .red t op tok _ => some (0xD00, mD t.code op.code tok.toNat)
  | .mcast w _ => some (0xD01, mD 0#3 0#4 w.toNat)
  | .rgrp t op _ => some (0xD02, mD t.code op.code 0)
  | .rgrpMc _ => some (0xD02, mD 0#3 0#4 1)
  | .rgrpFree _ => some (0xD02, mD 0#3 0#4 2)
  | _ => none

/-- The fields of an instruction's word under a guard and hints (R12). -/
def Decoded.fields (x : Decoded) : Option Fields :=
  match x.instr.opcM, x.instr.opnds with
  | some (opc, m), some o =>
    some ⟨BitVec.ofNat 12 opc, x.g, x.h, o.d.kill, BitVec.ofNat 9 o.d.field, BitVec.ofNat 10 o.a.field,
      BitVec.ofNat 10 o.b.field, BitVec.ofNat 10 o.c.field, BitVec.ofNat 34 m⟩
  | _, _ => none

/-- The word of an instruction under a guard and hints (R12), or of the two words that are not instructions; none for
an event. -/
def encode (x : Decoded) : Option (BitVec 96) :=
  match x.instr with
  | .entryWordNop w => some (BitVec.ofNat 96 (0xFFE * 2 ^ 84 + w.toNat))
  | .literalWordReached w => some (BitVec.ofNat 96 (0xFFF * 2 ^ 84 + w.toNat))
  | _ => match x.fields with
    | some f => some (BitVec.ofNat 96 f.toNat)
    | none => none

/-- The literal word's 64 bits that stand behind an instruction's word (R27). -/
def Instr.literal (i : Instr) : Option DWord :=
  match i.opnds with
  | some o => o.literal
  | none => none

/-- The context in which every well-formed instruction decodes: supervisor privilege on a throughput core with the
largest budget. -/
def DecodeCtx.top : DecodeCtx := ⟨true, false, maxBudget⟩

/-- The instruction of a word numbered as the opcode table numbers its bits: bits [95:0] the word, the bits above
them the following word (R11, R27). -/
def decodeTableWord (nbits w : Nat) : Option Instr :=
  let x := w % 2 ^ nbits
  match decode DecodeCtx.top (BitVec.ofNat 96 x) (literalOf (BitVec.ofNat 96 (x / 2 ^ 96))) with
  | .ok d => some d.instr
  | .bad _ => none

end Sys2Proof
end

