-- ==== Sys2Proof/Config.lean ====
section
/-! DEFINITION. What the spec leaves open and the model does not choose: free values (constants without a body), the
part's own choices, and the constants that an implementation, its fuses or its boot firmware fix. -/
namespace Sys2Proof.Config

/-- A choice among alternatives the spec leaves to the part, taken when the state's own list of choices is empty;
the argument is the counter of free values taken. -/
opaque choice : Nat → Nat

/-- Whether the one that a descriptor's OUT reads in slot 13 is of .f32: the slot takes the type of a micro-operation, and an
OUT field belongs to none (R246, R248). The argument is the types of the descriptor's micro-operations. -/
opaque outOneFloat : List Nat → Bool

/-- The 48-bit incarnation drawn from the hardware random source (R406). -/
opaque randomIncarnation : Nat → BitVec 48

/-- The part's device number in the fabric domain (R397). -/
opaque deviceNumber : BitVec 13

/-- Whether a device number names a device of the fabric domain (R338, R339). -/
opaque fabricDevice : Nat → Bool

/-- First 32 bytes of SHAKE256 over the public key fused into the part (R391). -/
opaque fusedKeyHash : BitVec 256

/-- The fused rollback counter at reset (R391). -/
opaque fusedRollback : BitVec 64

/-- The device identity's Ed448 secret of 57 bytes (R393). -/
opaque identitySecret : BitVec 456

/-- The supervisor image that the boot processor loads onto the latency cores (R393). -/
opaque supervisorImage : List Byte

/-- Where the boot processor puts the trap areas, fault queues, spill rings, latency-core trap frames (one for each die)
and the defect map (R395, R396): the page of 64 KiB within the die's memory, taken modulo the pages that hold it. -/
opaque trapArea : Nat → Nat
opaque faultQueue : Nat → Nat
opaque spillArea : Nat → Nat
opaque lcTrapArea : Nat → Nat
opaque defectMapPage : Nat

/-- The lane-position and unit faults found at bring-up: clusters, cores and lane positions fused off (R45). -/
opaque fusedClusters : BitVec 256
opaque fusedCores : BitVec 1024
opaque fusedLanes : Nat → BitVec 128

/-- Entries at which the boot processor starts supervisor contexts 1-3 of a latency core, 0 for none (R310). -/
opaque supervisorEntry : Nat → BitVec 64

/-- The first virtual page, and the first page of die 0's memory, that the boot processor manages for what it loads
(R395). -/
opaque loaderPage : Nat
opaque loaderFrame : Nat

/-- The page-table root that the boot processor sets at bring-up (R280): the number of its 64 KiB frame. -/
opaque bootRoot : Nat

/-- What the boot processor loads into memory from the firmware image: supervisor images and their translations
(R280, R310, R393), as physical addresses and bytes. -/
opaque bootMemory : List (Nat × Byte)

end Sys2Proof.Config
end

