-- ==== Sys2Proof/Machine/Maps.lean ====
section
/-! DEFINITION. Keyed data and byte memories: association lists in ascending key order, with no key twice; a memory
also lists no byte equal to what an unlisted address reads as. -/
namespace Sys2Proof.AMap

/-- The value at a key. -/
def get? {α : Type} : AMap α → Nat → Option α
  | [], _ => none
  | (k', v) :: m, k => if k' = k then some v else if k < k' then none else get? m k

/-- The value at a key, or what an absent key reads as. -/
def getD {α : Type} (m : AMap α) (k : Nat) (d : α) : α := (get? m k).getD d

/-- The map with `v` at `k`. -/
def set {α : Type} : AMap α → Nat → α → AMap α
  | [], k, v => [(k, v)]
  | (k', v') :: m, k, v =>
    if k < k' then (k, v) :: (k', v') :: m
    else if k = k' then (k, v) :: m
    else (k', v') :: set m k v

/-- The map without `k`. -/
def erase {α : Type} : AMap α → Nat → AMap α
  | [], _ => []
  | (k', v') :: m, k => if k' = k then m else if k < k' then (k', v') :: m else (k', v') :: erase m k

/-- The keys. -/
def keys {α : Type} (m : AMap α) : List Nat := m.map (·.1)

/-- The values. -/
def vals {α : Type} (m : AMap α) : List α := m.map (·.2)

/-- Every key stands above `lo`, in ascending order. -/
def sortedFrom {α : Type} : Option Nat → AMap α → Bool
  | _, [] => true
  | none, (k, _) :: m => sortedFrom (some k) m
  | some l, (k, _) :: m => decide (l < k) && sortedFrom (some k) m

/-- The keys ascend, no key twice. -/
def sorted {α : Type} (m : AMap α) : Bool := sortedFrom none m

end Sys2Proof.AMap

namespace Sys2Proof

/-- Data keyed by address that reads as a fixed value where nothing is listed, and lists no such value: a register
file or a byte memory. -/
def cellGet {α : Type} (m : AMap α) (dflt : α) (a : Nat) : α := AMap.getD m a dflt

/-- A write of one cell; the value an unlisted address reads as removes the entry. -/
def cellSet {α : Type} [DecidableEq α] (m : AMap α) (dflt : α) (a : Nat) (v : α) : AMap α :=
  if v = dflt then AMap.erase m a else AMap.set m a v

/-- The canonical form of a cell list: keys rising and no default value listed. -/
def cellsWf {α : Type} [DecidableEq α] (m : AMap α) (dflt : α) : Bool :=
  AMap.sorted m && m.all (fun c => decide (c.2 ≠ dflt))

end Sys2Proof
end

