-- ==== Sys2Proof/Machine/State.lean ====
section
/-! DEFINITION. The state of the package, plain data throughout: threads, groups, launches, cores, clusters, dies, the
package and its fabric ports, and the events still to come. Structures are keyed by number:
a throughput core is 256 * die + core (0-1023); a latency core n of die d is 1024 + 16 * d + n; a cluster is
64 * die + cluster; a group is 64 * core + slot; a thread of a group is 1024 * group + TID; context c of a latency
core is `lcThreadBase` + 4 * (16 * die + n) + c. -/
namespace Sys2Proof.Machine

/-! ### Threads -/

/-- A bypass latch and its valid bit (R21). -/
structure Latch where
  valid : Bool
  value : DWord
  deriving DecidableEq, Repr

/-- A loop-stack entry (R51). -/
structure LoopEntry where
  start : DWord
  last : DWord
  count : Word
  deriving DecidableEq, Repr

/-- A CALLX or BRX.entry that completed although the word at its target could not be fetched (R122): the thread's pc and depth
before it, and the registers that its link overwrote. The checks of R30 and R124 are made once the word is there. -/
structure Calling where
  pc : DWord
  depth : Nat
  link : Option (Nat × List Word)
  deriving DecidableEq, Repr

/-- What a thread is doing (R23, R154). Every state but `ready` and `walking` and the holds is a suspension. -/
inductive Status where
  /-- may issue -/
  | ready
  /-- waits on pending registers (scoreboard wait) -/
  | scoreboard (regs : List Nat)
  /-- the YIELD suspension, for one quarter cycle -/
  | yielded
  /-- in a barrier wait on a register barrier, with the awaited token, D and the bytes of the waiting instruction -/
  | barReg (bar : Nat) (tok : Bool) (d : Dest) (len : Nat)
  /-- in a barrier wait on an object -/
  | barObj (off : Nat) (tok : Bool) (d : Dest) (len : Nat)
  /-- signed into a convergence set -/
  | signed (bar : Nat) (len : Nat)
  /-- its set has been withdrawn by a stop or a halt: it executes its signing instruction afresh (R200) -/
  | withdrawn
  /-- in an FWAIT on a handle -/
  | fwait (handle : DWord) (d : Dest) (tok : Nat) (len : Nat)
  /-- in a SHIP wait for a landing -/
  | shipWait (request : Nat)
  /-- in a SHIP wait, parked on a full perch queue -/
  | shipParked (request : Nat)
  /-- a SPAWN.w that finds no room: the entry's address, thread count, budget and BARS, and D -/
  | spawnWait (entry : DWord) (n budget bars : Nat) (d : Dest) (len : Nat)
  /-- held while a translation-buffer miss is walked: no suspension -/
  | walking
  /-- held until a future of another device has answered: no suspension (R345) -/
  | asking
  /-- parked by a walk on an entry under migration, without a record -/
  | migParked
  /-- parked by a translation fault -/
  | faultParked
  /-- ended by EXIT or by reclamation -/
  | exited
  /-- a latency-core context that runs nothing -/
  | idle
  deriving DecidableEq, Repr

/-- A thread: a thread of a group, or a context of a latency core (R48). Registers list no zero. -/
structure Thread where
  /-- group key; none for a latency-core context -/
  group : Option Nat
  tid : Nat
  /-- thread slot of the core, 0-2,047 (R169) -/
  slot : Nat
  budget : Nat
  pc : DWord
  regs : AMap Word
  preds : BitVec 7
  l0 : Latch
  l1 : Latch
  l2 : Latch
  l3 : Latch
  /-- loop-stack entries 0-3, entry 0 the bottom -/
  loop : List LoopEntry
  depth : Nat
  cbank : BitVec 4
  seed : Word
  shadow : Word
  sup : Bool
  ctxbase : DWord
  trapCode : Word
  trapPc : DWord
  trapVa : DWord
  /-- registers whose asynchronous result has not landed (R23, R141) -/
  pending : List Nat
  status : Status
  /-- quarter cycles of STALL still to pass (R14) -/
  stall : Nat
  /-- quarter cycles of a RECONV or CONV hold still to pass (R14, R133) -/
  hold : Nat
  /-- the hold is a CONV at this PC -/
  conv : Bool
  /-- the RECONV hold of the word at PC has been served -/
  reconvDone : Bool
  /-- cycles ready without issuing (R154) -/
  waitCount : Nat
  /-- latch readers issued in a row (R25) -/
  latchRun : Nat
  /-- restored at an FWAIT that it waited in: a stale handle lands there and does not fault (R346) -/
  fwaiting : Bool
  /-- what the future of this device that it waits for in an FWAIT resolved with: status and results, and whether another
  device resolved it (R346, R350) -/
  got : Option (Code × List Word × Bool)
  /-- it has executed a releasing FENCE: its later stores are releases (R148) -/
  fenced : Bool
  /-- the branch whose target the thread has still to fetch and to check (R30, R122) -/
  calling : Option Calling
  /-- PRIO and LAUNCH that a latency-core context reads (R53) -/
  lcPrio : Nat
  lcLaunch : Nat
  deriving DecidableEq, Repr

/-- The access of a load whose value may still be a later one: nothing has been ordered after it since (R148, R150). -/
structure LateLoad where
  core : Nat
  pa : Nat
  size : Size
  entry : DWord
  na : Bool
  deriving DecidableEq, Repr

/-- An asynchronous register result on its way: the value lands in `regs` (a first register and its words), then the
token in `tok` (R141, R214, R316). `gid` marks the answer to an RGRP, with the plane of its spine (R413). -/
structure Landing where
  thread : Nat
  reg : Option Nat
  words : List Word
  tok : Option (Nat × Word)
  gid : Option (Nat × Nat)
  /-- a load that may still read a later value as it lands (R150) -/
  again : Option LateLoad
  deriving DecidableEq, Repr

/-! ### Barriers -/

/-- One member's signature in a convergence set (R194): lane position, thread, value of A and of B, D. -/
structure Signature where
  thread : Nat
  lane : Nat
  a : DWord
  b : Word
  d : Dest
  deriving DecidableEq, Repr

/-- A barrier register (R180) with the signatures of its phase and the instruction that the first one fixed. -/
structure Barrier where
  expected : BitVec 11
  arrivals : BitVec 11
  phase : Bool
  status : Word
  engpend : Nat
  signatures : List Signature
  sigQuarter : Nat
  sigInstr : Option Instr
  deriving DecidableEq, Repr

/-! ### Groups and launches -/

/-- Why a group's threads are being stopped (R172, R174, R177). -/
inductive StopReason where
  | running
  /-- by the dispatcher's pre-emption -/
  | preempt
  /-- by CTXSAVE of a thread: who, its D, and the save address -/
  | save (thread : Nat) (d : Dest) (addr : DWord)
  deriving DecidableEq, Repr

/-- A resident group (R158-R165). -/
structure Group where
  launch : Nat
  core : Nat
  slot : Nat
  /-- GROUP -/
  index : Nat
  gsize : Nat
  budget : Nat
  bars : List Barrier
  spOff : Nat
  spSize : Nat
  /-- family number, shared by a root and the groups spawned from it -/
  family : Nat
  spawned : Bool
  prio : Nat
  /-- creation order -/
  age : Nat
  /-- current scan descriptor, 64 bytes, and DESCADDR (R245, R251, R264) -/
  desc : Option (List Byte)
  descAddr : DWord
  stop : StopReason
  /-- being ended by a fatal fault of its launch (R168) -/
  ending : Bool
  deriving DecidableEq, Repr

/-- Life of a launch (R331, R340). -/
inductive LaunchState where
  | waiting | queued | placing | running | failed (c : Code) | ended
  deriving DecidableEq, Repr

/-- A launch and its record's fields (R161). -/
structure Launch where
  ident : Word
  state : LaunchState
  entry : DWord
  signature : DWord
  future : DWord
  cbaddr : DWord
  clmask : DWord
  ngroup : Nat
  spad : Nat
  spbase : Nat
  bars : Nat
  gsize : Nat
  spslots : Nat
  chlen : Nat
  chstart : Nat
  diemask : BitVec 4
  chain : Bool
  sysRel : Bool
  prio : Nat
  cbmask : BitVec 16
  /-- reserved bits of the record, kept for check 2 of R162 -/
  reserved : Bool
  /-- reserved bits of CHSEG -/
  chReserved : Bool
  budget : Nat
  /-- the words of its constant banks, word N of bank b keyed 256 * b + N, read when its record is checked (R31, R162) -/
  banks : AMap Word
  /-- next GROUP to place -/
  placed : Nat
  checked : Bool
  /-- the dies' admission order (R331) -/
  admitted : Nat
  /-- held references: handle and number (R342); handle 0 keeps the place of a waiting FSPAWN (R344) -/
  holdings : List (DWord × Nat)
  /-- families that CTXSAVE has saved and no CTXLOAD restored (R174, R175) -/
  savedOut : Nat
  /-- offsets of the armed objects of groups when they were saved, keyed by GROUP (R175) -/
  objs : AMap (List Nat)
  /-- reclaimed by the device that holds its future (R351) -/
  reclaimed : Bool
  /-- die whose fault queue records its failure -/
  homeDie : Nat
  deriving DecidableEq, Repr

/-- A saved family awaiting restore (R332, R334): its images, where it ran, when its launch was admitted. -/
structure SavedFamily where
  launch : Nat
  prio : Nat
  admitted : Nat
  core : Nat
  chainMember : Bool
  image : List Byte
  deriving DecidableEq, Repr

/-! ### Translation -/

/-- One translation: page base, leaf level, entry (R281, R299). -/
structure TlbEntry where
  /-- virtual address bits above the leaf's page offset, as a page base -/
  base : Nat
  level : Nat
  entry : DWord
  deriving DecidableEq, Repr

/-- Access kinds (R283). -/
inductive Access where | read | write | fetch
  deriving DecidableEq, Repr

/-- A party that waits on a walk or on a fault record: a thread, or an engine operation of a cluster (R302, R305). -/
inductive Party where
  | thread (t : Nat)
  | copy (cluster op : Nat)
  | matrix (cluster op : Nat)
  deriving DecidableEq, Repr

/-- A party that waits on a walk: its own address within the granule, its privilege, the core it works for, and what its
access checks. -/
structure Walker where
  who : Party
  va : DWord
  sup : Bool
  core : Nat
  /-- a fault is answered to the instruction that asked, and parks nobody of itself -/
  probe : Bool
  /-- the translation is for the matrix operand buffer (R299) -/
  mtlb : Bool
  /-- CLEAN: a write without the weight-store check -/
  clean : Bool
  /-- the access classifies the page (R286) -/
  classify : Bool
  deriving DecidableEq, Repr

/-- One entry of a walker queue (R300). -/
structure Walk where
  va : DWord
  kind : Access
  parties : List Walker
  /-- parked on an entry under migration -/
  parked : Bool
  deriving DecidableEq, Repr

/-- A walk that a party asked for has ended in a fault; the party finds it when it tries its access again (R300). -/
structure Walked where
  who : Party
  granule : Nat
  kind : Access
  code : Code
  level : Nat
  entry : DWord
  deriving DecidableEq, Repr

/-- A fault of an agent (R302-R305): the fields of its record, the party it holds parked, and the index of the record
it is attached to, none while no record of it is written (R303). A fatal one holds nobody. -/
structure Attachment where
  party : Party
  index : Option Nat
  fatal : Bool
  va : DWord
  pc : DWord
  code : Code
  kind : Access
  agent : Nat
  level : Nat
  location : Nat
  launch : Word
  slot : Word
  future : DWord
  entry : DWord
  deriving DecidableEq, Repr

/-- A waiting record of a fault queue, with what a new fault must equal to attach to it (R305). -/
structure FaultRec where
  index : Nat
  code : Code
  kind : Access
  granule : Nat
  parties : Nat
  deriving DecidableEq, Repr

/-! ### Caches -/

/-- A line of an L1 (R277, R279, R285): its bytes and its dirty bytes. -/
structure L1Line where
  data : LineData
  dirty : BitVec 128
  tensor : BitVec 6
  key : BitVec 8
  /-- the line belongs to a private page -/
  owned : Bool
  /-- the line belongs to a weight-store page -/
  ws : Bool
  deriving DecidableEq, Repr

/-- A line of an L2 (R277, R372). -/
structure L2Line where
  data : LineData
  /-- valid and dirty bit of each 64-byte sector -/
  valid : BitVec 2
  dirty : BitVec 2
  way : Nat
  tensor : BitVec 6
  key : BitVec 8
  evictFirst : Bool
  /-- a lease copy of a line homed on another die -/
  lease : Bool
  wts : BitVec 24
  rts : BitVec 24
  deriving DecidableEq, Repr

/-- A directory region (R290, R291): `size` bytes from the key. -/
inductive DirState where
  | invalid
  | shared (clusters : List Nat)
  | modified (core : Nat)
  deriving DecidableEq, Repr

/-- A tracked region (R291). -/
structure Region where
  size : Nat
  state : DirState
  deriving DecidableEq, Repr

/-- An entry of a write-combining buffer (R289). `nt` marks bytes of ST.nt stores that no DRAIN has covered (R151);
`owners` are the threads whose stores stand in it, `since` the age of the oldest of each by State.nextOp, `who` the
privilege of the thread that opened it. -/
structure WcEntry where
  line : Nat
  data : LineData
  mask : BitVec 128
  nt : BitVec 128
  tensor : BitVec 6
  key : BitVec 8
  na : Bool
  /-- the line lies in a private page: ST.nt stores alone (R151, R285) -/
  owned : Bool
  owners : List Nat
  ntOwners : List Nat
  since : AMap Nat
  who : Option Bool
  deriving DecidableEq, Repr

/-- A store forwarded to its home on another die and not yet acknowledged (R293), with its no-allocate hint (R278) and
the age of its oldest store by State.nextOp. -/
structure Forwarded where
  thread : Nat
  core : Nat
  die : Nat
  line : Nat
  data : LineData
  mask : BitVec 128
  tensor : BitVec 6
  key : BitVec 8
  na : Bool
  seq : Nat
  deriving DecidableEq, Repr

/-! ### Engines -/

/-- What a copy operation does (R218-R225). -/
inductive CopyKind where
  | cp (ssp dsp : Bool) (dst src : DWord) (len : Nat)
  | fill (dsp : Bool) (dst : DWord) (len : Nat) (size : Nat) (pattern : Word)
  /-- `shape` is the record once it has been read -/
  | tile (store lsp rsp : Bool) (rec linear : DWord) (o0 o1 o2 o3 : Word) (shape : List Byte)
  | collective (obj : Nat)
  deriving DecidableEq, Repr

/-- A slice of a collective copy (R225). -/
structure CpgSlice where
  obj : Nat
  ssp : Bool
  dsp : Bool
  na : Bool
  dst : DWord
  src : DWord
  len : Nat
  thread : Nat
  core : Nat
  launch : Nat
  pc : DWord
  sup : Bool
  /-- the phase is complete and the operation started -/
  started : Bool
  /-- how it ended -/
  code : Option Code
  deriving DecidableEq, Repr

/-- An operation of a copy engine (R211). -/
structure CopyOp where
  id : Nat
  core : Nat
  thread : Nat
  group : Nat
  launch : Nat
  pc : DWord
  sup : Bool
  kind : CopyKind
  na : Bool
  tok : Option Nat
  arv : Option Nat
  /-- the engine has taken it up (R211) -/
  started : Bool
  /-- units done -/
  pos : Nat
  /-- of the unit it stands at: accesses made, its reads before its writes, and what they read (R216) -/
  phase : Nat
  held : List (List Byte)
  /-- bytes of armed objects were skipped -/
  clobber : Bool
  parked : Bool
  result : Option Code
  deriving DecidableEq, Repr

/-- A weight plane and its tag (R228): elements as codes, listed where nonzero, keyed 192 * k + n. -/
structure Plane where
  fmt : MFmt
  kext : Nat
  next : Nat
  owner : Option Nat
  elems : AMap (BitVec 16)
  deriving DecidableEq, Repr

/-- What a matrix operation does (R231). -/
inductive MatKind where
  | load (fmt : MFmt) (tr sp : Bool) (addr : DWord) (stride k n : Nat)
  | swap
  | stream (fmt : MFmt) (ow : Bool) (addr : DWord) (row stride rows : Nat)
  | gather (fmt : MFmt) (ow : Bool) (addr : DWord) (glist slist rows : Nat)
  | read (m : MreadMod) (addr : DWord) (row cols stride : Nat)
  | zero (row rows : Nat)
  | accld (sp : Bool) (addr : DWord) (row cols stride rows : Nat)
  deriving DecidableEq, Repr

/-- An entry of the matrix reservation table (R232, R234). -/
structure MatOp where
  id : Nat
  core : Nat
  thread : Nat
  group : Nat
  launch : Nat
  prio : Nat
  pc : DWord
  sup : Bool
  kind : MatKind
  bar : Nat
  tok : Option Nat
  granted : Bool
  /-- it has run up to where it stands -/
  begun : Bool
  /-- rows, units or bytes done -/
  pos : Nat
  /-- source bytes that an MLOAD has read -/
  got : List Byte
  /-- first noted code and row -/
  code : Code
  row : Nat
  parked : Bool
  result : Option Code
  deriving DecidableEq, Repr

/-- An operation of a scan engine (R245). A SCANC that takes a carry holds a claim; once its carry is taken it keeps the tile
that it is to write, and learns what became of its carry-out. -/
inductive ScanKind where
  | desc (sp : Bool) (addr : DWord) (record : List Byte)
  | scan (src dst es n : Nat)
  | scanc (local_ init wrap : Bool) (src dst es n : Nat) (tile : Option (List (List Word))) (sent : Option Code)
  deriving DecidableEq, Repr

/-- An entry of a scan queue. -/
structure ScanOp where
  id : Nat
  thread : Nat
  group : Nat
  kind : ScanKind
  bar : Nat
  d : Option Nat
  deriving DecidableEq, Repr

/-- What a mailbox holds (R257): a carry or a word entry. -/
structure ChEntry where
  carry : Bool
  words : List Word
  deriving DecidableEq, Repr

/-- A send of a member, in issue order (R257): of a CHSEND with its D, or of a SCANC (`op`), whose entry stands once its
carry is computed. -/
structure ChSend where
  thread : Nat
  d : Option Nat
  op : Option Nat
  entry : Option ChEntry
  deriving DecidableEq, Repr

/-- A claim on the next entry (R257): of a CHRECV with its D, or of a SCANC of the queue (`op`), in the same order. -/
structure ChClaim where
  op : Option Nat
  thread : Nat
  reg : Option Nat
  words : Nat
  deriving DecidableEq, Repr

/-- A CHOPEN that waits for the stop (R255): launch and member, thread and D, bounds. -/
structure ChOpen where
  launch : Nat
  index : Nat
  thread : Nat
  d : Option Nat
  head : Nat
  len : Nat
  deriving DecidableEq, Repr

/-- A core's Chain stop (R255-R264). -/
structure ChainStop where
  /-- the launch and member that has opened it -/
  owner : Option (Nat × Nat)
  head : Nat
  len : Nat
  formed : Bool
  waiting : List ChOpen
  /-- threads and D of the CHOPENs that wait for the segment to form -/
  opening : List (Nat × Option Nat)
  mailbox : List ChEntry
  /-- mailbox entries kept in a saved image -/
  saved : Nat
  claims : Nat
  received : Nat
  claimq : List ChClaim
  sends : List ChSend
  /-- CHBAR: tokens passed ahead by the predecessor, and the members' pending CHBARs (thread, D) -/
  tokens : Nat
  /-- tokens that the head has passed before the segment formed: its successor's stop takes them then -/
  passed : Nat
  chbars : List (Nat × Option Nat)
  /-- pending CHCLOSEs, an ending group's among them (thread, D) -/
  closing : List (Nat × Option Nat)
  deriving DecidableEq, Repr

/-! ### Cores and clusters -/

/-- A resident launch of a core with its constant banks, word N of bank b keyed 256 * b + N (R31, R159). -/
structure Resident where
  launch : Nat
  banks : AMap Word
  deriving DecidableEq, Repr

/-- A lane's part in a request at a bank: its thread, the registers that a value goes to, and its bytes. -/
structure BankLane where
  thread : Nat
  reg : Option Nat
  off : Nat
  size : Size
  deriving DecidableEq, Repr

/-- What a request does at its bank of the scratchpad (R208); loads of one unit from one issue are one request. -/
inductive BankAct where
  | load (lanes : List BankLane)
  | store (off : Nat) (bs : List Byte)
  | atom (l : BankLane) (op : AtomOp) (v : Nat)
  | cas (l : BankLane) (cmp v : Nat)
  deriving DecidableEq, Repr

/-- A request in a core's queue at a bank: the quarter that issued it, and how many cycles of the quarter have begun since. -/
structure BankReq where
  quarter : Nat
  age : Nat
  act : BankAct
  deriving DecidableEq, Repr

/-- A throughput core, or what a latency core shares with one. -/
structure Core where
  ltime : BitVec 24
  pmc0 : DWord
  pmc1 : DWord
  pmc2 : DWord
  pmc3 : DWord
  pmsel0 : Word
  pmsel1 : Word
  pmsel2 : Word
  pmsel3 : Word
  l1 : AMap L1Line
  wc : List WcEntry
  itlb : List TlbEntry
  vtlb : List TlbEntry
  residents : List Resident
  scanq : List ScanOp
  chain : ChainStop
  halted : Bool
  /-- HALTs that wait for quiescence: thread and D (R177) -/
  halts : List (Nat × Dest)
  /-- quarter cycles for which a unit of a quarter stays occupied, keyed 128 * quarter + unit (R79, R155) -/
  busy : AMap Nat
  /-- the quarter whose cycle comes next: the four take their cycles in turn (R155, R317) -/
  turn : Nat
  /-- the instruction cache: pieces of words fetched, by physical address, newest last (R2) -/
  icache : List (Nat × List Byte)
  /-- its requests at each bank of the scratchpad, oldest first (R208) -/
  bankq : AMap (List BankReq)
  deriving DecidableEq, Repr

/-- A scratchpad range owned by a launch (R163). -/
structure SpOwner where
  launch : Nat
  base : Nat
  size : Nat
  deriving DecidableEq, Repr

/-- A cluster. -/
structure Cluster where
  spad : List Host.Cell
  /-- offsets of the barrier objects that BARINIT has armed (R182, R183) -/
  armed : List Nat
  owners : List SpOwner
  copyq : List CopyOp
  /-- the core, of the cluster's four, that the copy engine takes its next operation from first (R211) -/
  copyNext : Nat
  /-- the requester that each bank serves next, and the copy engine's requests that stand there (R208) -/
  bankNext : AMap Nat
  engq : AMap Nat
  slices : List CpgSlice
  ctlb : List TlbEntry
  mtlb : List TlbEntry
  walkq : List Walk
  stationary : Plane
  shadow : Plane
  acc : AMap Word
  poison : BitVec 1024
  matq : List MatOp
  deriving DecidableEq, Repr

/-! ### Latency cores -/

/-- A request of a perch (R316). `sender` is a local thread, `remote` a fabric peer and its tag. -/
structure ShipReq where
  id : Nat
  entry : DWord
  lockVa : DWord
  lockPa : Nat
  args : List Word
  sup : Bool
  prio : Nat
  launch : Nat
  sender : Option Nat
  d : Option Nat
  tok : Nat
  wait : Bool
  remote : Option (Nat × Nat)
  core : Nat
  /-- the group that shipped it, which retires after it (R166) -/
  group : Option Nat
  sysScope : Bool
  deriving DecidableEq, Repr

/-- A shipped section's result on its way to its sender, with the latency core that ran it. -/
structure ShipResult where
  lc : Nat
  req : ShipReq
  code : Code
  under : Code
  words : List Word
  deriving DecidableEq, Repr

/-- A latency core's perch (R310, R317, R323). -/
structure Perch where
  queue : List ShipReq
  parkedSenders : List ShipReq
  running : Option ShipReq
  /-- the section has passed its entry checks and runs -/
  entered : Bool
  cycles : Nat
  /-- the section has ended with these results, its `.sys` release not complete (R320, R326) -/
  ending : Option (Code × Code × List Word)
  deriving DecidableEq, Repr

/-! ### Dies -/

/-- States of a future (R340). -/
inductive FutState where | unbound | waiting | queued | running | resolved
  deriving DecidableEq, Repr

/-- A future table entry (R340). `live` is false for a free entry, which keeps its generation. -/
structure Fut where
  live : Bool
  gen : BitVec 16
  state : FutState
  reclaimed : Bool
  count : Nat
  loose : Nat
  after : List DWord
  /-- of its after-list, the futures of other devices that have resolved OK (R341) -/
  ready : List DWord
  launch : Option Nat
  /-- the device whose launch is bound to it, where that is another one (R336) -/
  bound : Option Nat
  taskEnded : Bool
  status : Code
  r0 : Word
  r1 : Word
  r2 : Word
  r3 : Word
  /-- note blocks of the host entries that named it (R337) -/
  notes : List DWord
  /-- an FSET of another device resolved it (R350) -/
  far : Bool
  deriving DecidableEq, Repr

/-- An FSPAWN that waits for a free entry (R344), with the creator's task. -/
structure WaitingSpawn where
  thread : Nat
  d : Option Nat
  record : List Byte
  after : List DWord
  launch : Nat
  deriving DecidableEq, Repr

/-- An entry of a submission ring that names futures of other devices and is in progress: its bytes, the ring's BASE and
HEAD, the refusal that was due when they were asked, what they answered so far, and how many answers are still to come
(R336, R396). -/
structure SubAsk where
  entry : List Byte
  base : DWord
  head : Nat
  due : Option Code
  waiting : Nat
  answers : List (DWord × Code)
  deriving DecidableEq, Repr

/-- States of a fill window (R297). -/
inductive Window where | closed | opening | open
  deriving DecidableEq, Repr

/-- A die. -/
structure Die where
  /-- admitted launches of each level in order (R330) -/
  queues : AMap (List Nat)
  window : Window
  /-- WSOPENs that wait (thread and D) -/
  windowWaits : List (Nat × Dest)
  l2 : AMap L2Line
  /-- tree bits of each set, keyed 1,024 * slice + set -/
  plru : AMap (BitVec 15)
  dir : AMap Region
  /-- eviction floor of each slice (R372) -/
  floors : AMap (BitVec 24)
  /-- slices in retention sleep with the THAWGEN they recorded (R376) -/
  asleep : AMap Word
  fabtime : BitVec 24
  futures : AMap Fut
  spawns : List WaitingSpawn
  subAsk : Option SubAsk
  attached : List Attachment
  /-- waiting records, oldest first, and SEQ (R303) -/
  records : List FaultRec
  fqSeq : DWord
  saved : List SavedFamily
  power : BitVec 2
  clockMhz : Nat
  /-- the arbiter holds the clock below 850 MHz (R384) -/
  throttled : Bool
  watts : Nat
  deriving DecidableEq, Repr

/-! ### Fabric -/

/-- A sequence stream to a peer (R402-R405). -/
structure SendChan where
  next : Nat
  floor : Nat
  unacked : List Packet
  /-- what waits to be sent until fewer than 16,384 packets stand unacknowledged: tag and contents (R402) -/
  waiting : List (Nat × FabOp)
  /-- incarnation of the peer as last learned, 0 before -/
  peerInc : Nat
  deriving DecidableEq, Repr

/-- A sequence stream from a peer: begun by the first packet of its incarnation in this class, the number awaited next,
the packets that wait for their turn (R402, R405, R406). -/
structure RecvChan where
  begun : Bool
  expected : Nat
  reorder : List Packet
  deriving DecidableEq, Repr

/-- What an acquiring load of another device's memory does once its value is there: nothing more, the acquire at `.sys`
(R407), or what an ACQR forces at its scope (R153). -/
inductive Acquire where
  | plain
  | sys
  | force (sc : Scope) (pa n : Nat)
  deriving DecidableEq, Repr

/-- An FSPAWN whose after-list names futures of other devices: the handles taken there so far, the worst answer, and the
fault that it takes where none is stale (R344). -/
structure AskedSpawn where
  record : List Byte
  after : List DWord
  d : Dest
  len : Nat
  fault : Option Code
  taken : List DWord
  code : Code
  deriving DecidableEq, Repr

/-- What bytes that an instruction loads piece by piece are for: the list of an RGRP.mc, the record and after-list of an
FSPAWN. -/
inductive GatherUse where
  | devices (gid : Nat) (o : Opnds)
  | spawn (o : Opnds)
  deriving DecidableEq, Repr

/-- What a fabric request of this device waits to do when its answer comes (R400, R413-R415, R418). -/
inductive RemoteKind where
  /-- `acq`: an acquire; `sys`: at `.sys` -/
  | load (reg : Option Nat) (size : Size) (acq : Bool) (edge : Acquire)
  | store
  | atom (reg : Option Nat) (w64 : Bool) (acq sys : Bool)
  | ship (req : ShipReq)
  /-- the copies of an MCAST: its D, its group, and the code of the first copy that failed -/
  | mcast (reg : Option Nat) (gid : Nat) (first : Code)
  | fpoll (reg : Option Nat)
  | fwait (h : DWord) (d : Dest) (tok : Nat) (len : Nat)
  /-- a FREFA, FREFD or FSET that its thread does not issue past -/
  | future (op : FutOp) (d : Option Nat) (len : Nat)
  /-- the wait of a future here for one of its after-list on another device -/
  | after (dependent : DWord) (h : DWord)
  /-- an after reference of an FSPAWN on a future of another device (R344) -/
  | spawn (q : AskedSpawn) (h : DWord)
  /-- a note block that waits for a future of another device to resolve (R337) -/
  | note (a : DWord)
  /-- what the entry at HEAD of a die's submission ring asks of a future of another device (R336) -/
  | host (die : Nat) (h : DWord)
  /-- a piece of `n` bytes of what an instruction loads: what it is for, what came before, and the pieces after -/
  | gather (use : GatherUse) (got : List Byte) (rest : List (DWord × Nat)) (n : Nat)
  /-- a contribution of `n` result registers (R414) -/
  | red (reg : Option Nat) (tok n : Nat)
  /-- an RGRP to the spine of a plane (R413) -/
  | rgrp (reg : Option Nat) (gid plane : Nat)
  deriving DecidableEq, Repr

/-- An outstanding fabric request, with the address and the PC that a fault record of it names (R304). -/
structure Remote where
  tag : Nat
  thread : Nat
  peer : Nat
  va : DWord
  pc : DWord
  kind : RemoteKind
  deriving DecidableEq, Repr

/-- A fabric port (R409, R410). -/
structure Port where
  up : Bool
  spare : Bool
  active : BitVec 3
  lanes : BitVec 5
  margin : BitVec 8
  corr : Word
  deriving DecidableEq, Repr

/-- One contribution to an open round (R414): the device, its incarnation, the tag of its request. -/
structure Contribution where
  src : Nat
  inc : Nat
  tag : Nat
  value : DWord
  deriving DecidableEq, Repr

/-- A message of the host (R378). -/
inductive HostMsg where
  | write (rkey : Word) (va : DWord) (data : List Byte)
  | read (rkey : Word) (va : DWord) (n : Nat)
  | cas (rkey : Word) (va : DWord) (cmp : DWord) (new : DWord)
  | fetchAdd (rkey : Word) (va : DWord) (add : DWord)
  | refusedOp
  deriving DecidableEq, Repr

/-- A collective group held in a spine of a plane (R411, R413). -/
structure CGroup where
  kind : GroupKind
  plane : Nat
  round : List Contribution
  deriving DecidableEq, Repr

/-! ### The package control block -/

/-- Registers of the package control block that software writes or the boot processor keeps (R377). -/
structure Pcb where
  stage : BitVec 3
  reduced : Bool
  fullsvc : Bool
  reason : BitVec 8
  dieState : BitVec 16
  links : BitVec 4
  leasecfg : BitVec 8
  thawgen : Word
  lattol : Word
  pwrcap : BitVec 12
  crit : Bool
  hot : Bool
  apertures : AMap DWord
  /-- WINDOW bytes 0x0200-0x09FF, keyed by offset from 0x0200 -/
  windows : AMap Byte
  keydata : BitVec 512
  keycmd : Word
  keystat : Word
  nonce : BitVec 256
  attcmd : Word
  attstat : Word
  /-- the fields of the report, bytes 0x000-0x0BF, read at the moment of the request (R393) -/
  attFields : List Byte
  /-- REPORT bytes -/
  report : AMap Byte
  ldfile : DWord
  ldlen : DWord
  ldres : DWord
  ldcmd : Word
  ldstat : Word
  defsig : DWord
  defmap : DWord
  trapvec : DWord
  tabbase : AMap DWord
  fqbase : AMap DWord
  spillbase : AMap DWord
  lctabbase : AMap DWord
  subringBase : AMap DWord
  subringEnable : BitVec 4
  fabresend : DWord
  fabdup : DWord
  deriving DecidableEq, Repr

/-! ### The whole machine -/

/-- The state of the package and its ports. -/
structure State where
  /-- the thread that a word instruction acts for -/
  cur : Nat
  /-- the model's own: the word just executed could not be issued, and its thread stays at it -/
  retry : Bool
  /-- threads that the issue cycle in progress has still to issue -/
  issue : List Nat
  /-- events to come, from the outside world and from the part's own agents -/
  agenda : List Instr
  /-- choices that the spec leaves to the part, taken first from here and then from Config -/
  choices : List Nat
  /-- counter of the free values taken -/
  free : Nat
  /-- pages that the boot processor has given to what it loaded (R395) -/
  loaderPages : Nat
  nextLaunch : Nat
  nextAge : Nat
  nextOp : Nat
  nextAdmit : Nat
  timebase : DWord
  mem : List Host.Cell
  threads : AMap Thread
  groups : AMap Group
  launches : AMap Launch
  cores : AMap Core
  clusters : AMap Cluster
  dies : AMap Die
  perches : AMap Perch
  landings : List Landing
  forwarded : List Forwarded
  /-- the releases that an ACQR may read from, keyed by address: the thread and the count nextOp at its release (R148,
  R153) -/
  releases : AMap (List (Nat × Nat))
  /-- faults of walks, not yet taken by the parties that asked -/
  walked : List Walked
  /-- requests on their way to a perch, with the latency core (R316, R317) -/
  shipFlights : List (Nat × ShipReq)
  shipResults : List ShipResult
  root : Option Nat
  keys : AMap (BitVec 512)
  clusterOff : BitVec 256
  coreOff : BitVec 1024
  laneOff : AMap (BitVec 128)
  pcb : Pcb
  device : BitVec 13
  rollback : DWord
  fwDigest : BitVec 256
  fwRollback : DWord
  incarnation : BitVec 48
  sendChans : AMap SendChan
  recvChans : AMap RecvChan
  /-- incarnation of each peer as a source, and the incarnations of it that have ended (R406) -/
  peerIncs : AMap Nat
  endedIncs : AMap (List Nat)
  remotes : List Remote
  /-- note blocks whose page does not translate now: address, status, results (R337) -/
  noteWaits : List (DWord × Code × List Word)
  /-- waits of other devices on futures of this one: device, tag, handle (R346) -/
  futWaits : List (Nat × Nat × DWord)
  ports : List Port
  cgroups : AMap CGroup
  /-- spines that have been lost: plane and spine (R417) -/
  lostSpines : List (Nat × Nat)
  /-- messages of the host's queue pairs that wait, oldest first (R380) -/
  hostQueues : AMap (List HostMsg)
  /-- answers to the host's requests, newest last: refused, and the data read -/
  hostReplies : List (Bool × List Byte)
  deriving DecidableEq, Repr

/-- Key of context 0 of latency core 0 of die 0. -/
def lcThreadBase : Nat := 1024 * 64 * 1024

/-- Stops of a step. -/
inductive Fault where
  /-- a word instruction is executed for a thread key that names no thread: a state no run reaches. Safe. -/
  | noThread
  deriving DecidableEq, Repr

/-- Refusals of a step. -/
inductive Refusal where
  /-- an instruction whose meaning is not yet modelled; raised only by its arm of `exec`. Safe. -/
  | notModelled (mnemonic : String)
  deriving DecidableEq, Repr

/-- An empty chain stop. -/
def ChainStop.init : ChainStop :=
  ⟨none, 0, 0, false, [], [], [], 0, 0, 0, [], [], 0, 0, [], []⟩

/-- A core at bring-up: LTIME, counters and selectors zero, caches and buffers empty. -/
def Core.init : Core :=
  ⟨0#24, 0#64, 0#64, 0#64, 0#64, 0#32, 0#32, 0#32, 0#32, [], [], [], [], [], [], ChainStop.init, false, [], [], 0, [], []⟩

/-- A plane at bring-up: owned by no launch (R230). -/
def Plane.init : Plane := ⟨.t8, 1, 1, none, []⟩

/-- A cluster at bring-up: every accumulator row poisoned (R230). -/
def Cluster.init : Cluster :=
  ⟨[], [], [], [], 0, [], [], [], [], [], [], Plane.init, Plane.init, [], BitVec.allOnes 1024, []⟩

/-- A latency core's perch at bring-up. -/
def Perch.init : Perch := ⟨[], [], none, false, 0, none⟩

/-- A die at bring-up: fill window CLOSED (R297), power state 0, eviction floors and FABTIME zero (R372, R407). -/
def Die.init : Die :=
  ⟨[], .closed, [], [], [], [], [], [], 0#24, [], [], none, [], [], 0#64, [], 0#2, 425, false, 0⟩

/-- A future table entry never used: free, generation 1 (R338). -/
def Fut.init : Fut := ⟨false, 1#16, .unbound, false, 0, 0, [], [], none, none, true, .ok, 0#32, 0#32, 0#32, 0#32, [], false⟩

/-- A port before training. -/
def Port.init : Port := ⟨false, false, 0#3, 0#5, 0#8, 0#32⟩

/-- A sequence stream at bring-up (R402). -/
def SendChan.init : SendChan := ⟨0, 0, [], [], 0⟩

/-- A sequence stream at bring-up (R402). -/
def RecvChan.init : RecvChan := ⟨false, 0, []⟩

/-- The package control block at reset: STAGE 0 (R388), LEASE 10 (R373), PWRCAP 3,200 (R384), LATTOL 0 (R386),
TRAPVEC 0 (R396). -/
def Pcb.init : Pcb where
  stage := 0#3
  reduced := false
  fullsvc := false
  reason := 0#8
  dieState := 0#16
  links := 0#4
  leasecfg := 10#8
  thawgen := 0#32
  lattol := 0#32
  pwrcap := 3200#12
  crit := false
  hot := false
  apertures := []
  windows := [(9, 0x10#8), (20, 7#8)]
  keydata := 0#512
  keycmd := 0#32
  keystat := 0#32
  nonce := 0#256
  attcmd := 0#32
  attstat := 0#32
  attFields := []
  report := []
  ldfile := 0#64
  ldlen := 0#64
  ldres := 0#64
  ldcmd := 0#32
  ldstat := 0#32
  defsig := 0#64
  defmap := 0#64
  trapvec := 0#64
  tabbase := []
  fqbase := []
  spillbase := []
  lctabbase := []
  subringBase := []
  subringEnable := 0#4
  fabresend := 0#64
  fabdup := 0#64

/-- The package right after reset: STAGE 0, nothing placed, nothing running, no root (R280, R388). -/
def State.reset : State where
  cur := 0
  retry := false
  issue := []
  agenda := []
  choices := []
  free := 0
  loaderPages := 0
  nextLaunch := 1
  nextAge := 0
  nextOp := 0
  nextAdmit := 0
  timebase := 0#64
  mem := []
  threads := []
  groups := []
  launches := []
  cores := []
  clusters := []
  dies := []
  perches := []
  landings := []
  forwarded := []
  releases := []
  walked := []
  shipFlights := []
  shipResults := []
  root := none
  keys := []
  clusterOff := 0#256
  coreOff := 0#1024
  laneOff := []
  pcb := Pcb.init
  device := 0#13
  rollback := Config.fusedRollback
  fwDigest := 0#256
  fwRollback := 0#64
  incarnation := 0#48
  sendChans := []
  recvChans := []
  peerIncs := []
  endedIncs := []
  remotes := []
  futWaits := []
  noteWaits := []
  ports := List.replicate 18 Port.init
  cgroups := []
  hostQueues := []
  lostSpines := []
  hostReplies := []

end Sys2Proof.Machine
end

