-- ==== Sys2Proof/Machine/Access.lean ====
section
/-! DEFINITION. Reaching the parts of the state by number, free choices, registers and pending results. -/
namespace Sys2Proof.Machine

/-- Throughput cores are 0-1023, latency cores 1024-1087. -/
def isLC (core : Nat) : Bool := decide (1024 ≤ core)

/-- The die of a core. -/
def dieOfCore (core : Nat) : Nat := if isLC core then (core - 1024) / 16 else core / 256

/-- The cluster of a throughput core; for a latency core, the cluster at its router (R274). -/
def clusterOfCore (core : Nat) : Nat :=
  if isLC core then (core - 1024) / 16 * 64 + (core - 1024) % 16 * 4 else core / 4

/-- The walker that serves a core: its cluster's, or a latency core's own (R300). -/
def walkerOfCore (core : Nat) : Nat := if isLC core then 256 + (core - 1024) else core / 4

/-- The core of a thread key. -/
def coreOfThread (t : Nat) : Nat := if t < lcThreadBase then t / 65536 else 1024 + (t - lcThreadBase) / 4

/-- The context of a latency-core thread key. -/
def ctxOfThread (t : Nat) : Nat := t % 4

/-- A thread key is a latency-core context. -/
def threadOnLC (t : Nat) : Bool := decide (lcThreadBase ≤ t)

/-- The perch context of a latency core (R310). -/
def isPerchCtx (t : Nat) : Bool := threadOnLC t && ctxOfThread t == 0

/-- The key of thread `tid` of a group. -/
def threadKey (group tid : Nat) : Nat := group * 1024 + tid

/-- The key of a latency core's context; `lc` is 16 * die + number. -/
def lcThreadKey (lc ctx : Nat) : Nat := lcThreadBase + 4 * lc + ctx

/-- The key of the group in a core's slot. -/
def groupKey (core slot : Nat) : Nat := core * 64 + slot

/-- Thread `t`. -/
def State.thread? (s : State) (t : Nat) : Option Thread := AMap.get? s.threads t

/-- The privilege that a thread's events count under (R309). -/
def State.whoOf (s : State) (t : Nat) : Option Bool := (s.thread? t).map (·.sup)

/-- Replace thread `t`. -/
def State.setThread (s : State) (t : Nat) (th : Thread) : State := { s with threads := AMap.set s.threads t th }

/-- Change thread `t`, if there is one. -/
def State.modThread (s : State) (t : Nat) (f : Thread → Thread) : State :=
  match s.thread? t with
  | some th => s.setThread t (f th)
  | none => s

/-- Group `g`. -/
def State.group? (s : State) (g : Nat) : Option Group := AMap.get? s.groups g

/-- Replace group `g`. -/
def State.setGroup (s : State) (g : Nat) (x : Group) : State := { s with groups := AMap.set s.groups g x }

/-- Change group `g`, if there is one. -/
def State.modGroup (s : State) (g : Nat) (f : Group → Group) : State :=
  match s.group? g with
  | some x => s.setGroup g (f x)
  | none => s

/-- Launch `l`. -/
def State.launch? (s : State) (l : Nat) : Option Launch := AMap.get? s.launches l

/-- Replace launch `l`. -/
def State.setLaunch (s : State) (l : Nat) (x : Launch) : State := { s with launches := AMap.set s.launches l x }

/-- Change launch `l`, if there is one. -/
def State.modLaunch (s : State) (l : Nat) (f : Launch → Launch) : State :=
  match s.launch? l with
  | some x => s.setLaunch l (f x)
  | none => s

/-- Core `c`. -/
def State.core (s : State) (c : Nat) : Core := AMap.getD s.cores c Core.init

/-- Change core `c`. -/
def State.modCore (s : State) (c : Nat) (f : Core → Core) : State :=
  { s with cores := AMap.set s.cores c (f (s.core c)) }

/-- Cluster `c`. -/
def State.cluster (s : State) (c : Nat) : Cluster := AMap.getD s.clusters c Cluster.init

/-- Change cluster `c`. -/
def State.modCluster (s : State) (c : Nat) (f : Cluster → Cluster) : State :=
  { s with clusters := AMap.set s.clusters c (f (s.cluster c)) }

/-- Die `d`. -/
def State.die (s : State) (d : Nat) : Die := AMap.getD s.dies d Die.init

/-- Change die `d`. -/
def State.modDie (s : State) (d : Nat) (f : Die → Die) : State :=
  { s with dies := AMap.set s.dies d (f (s.die d)) }

/-- Every die changed. -/
def State.mapDies (s : State) (f : Die → Die) : State := { s with dies := s.dies.map (fun p => (p.1, f p.2)) }

/-- The perch of latency core `lc` (16 * die + number). -/
def State.perch (s : State) (lc : Nat) : Perch := AMap.getD s.perches lc Perch.init

/-- Change a perch. -/
def State.modPerch (s : State) (lc : Nat) (f : Perch → Perch) : State :=
  { s with perches := AMap.set s.perches lc (f (s.perch lc)) }

/-- A choice below `n` that the spec leaves to the part: from the state's list, else a free value. -/
def State.choose (s : State) (n : Nat) : Nat × State :=
  match s.choices with
  | c :: cs => (c % n, { s with choices := cs })
  | [] => (Config.choice s.free % n, { s with free := s.free + 1 })

/-- The group of a thread. -/
def State.groupOf (s : State) (t : Nat) : Option Group :=
  match s.thread? t with
  | some th => match th.group with
    | some g => s.group? g
    | none => none
  | none => none

/-- The launch of a thread. -/
def State.launchOf (s : State) (t : Nat) : Option Launch :=
  match s.groupOf t with
  | some g => s.launch? g.launch
  | none => none

/-- Die of a thread. -/
def dieOfThread (t : Nat) : Nat := dieOfCore (coreOfThread t)

/-! ### Registers -/

/-- A general register; g240 and above read zero (R49). -/
def Thread.reg (th : Thread) (n : Nat) : Word := if n < 240 then cellGet th.regs 0#32 n else 0#32

/-- Write a general register; g240 and above discard (R49). -/
def Thread.setReg (th : Thread) (n : Nat) (v : Word) : Thread :=
  if n < 240 then { th with regs := cellSet th.regs 0#32 n v } else th

/-- Write consecutive registers from `n`; g255 discards them all (R16). -/
def Thread.setRegs (th : Thread) (n : Nat) : List Word → Thread
  | [] => th
  | v :: vs => if n < 240 then (th.setReg n v).setRegs (n + 1) vs else th

/-- A register pair, low half first; g255 reads zero (R16, R49). -/
def Thread.pair (th : Thread) (n : Nat) : DWord := if n < 240 then th.reg (n + 1) ++ th.reg n else 0#64

/-- A predicate; p7 reads 1 (R50). -/
def Thread.pred (th : Thread) (n : Nat) : Bool := if n < 7 then th.preds.getLsbD n else true

/-- Write a predicate; p7 discards (R50). -/
def Thread.setPred (th : Thread) (n : Nat) (b : Bool) : Thread :=
  if n < 7 then
    let bit : BitVec 7 := BitVec.ofNat 7 (2 ^ n)
    { th with preds := if b then th.preds ||| bit else th.preds &&& ~~~bit }
  else th

/-- All four valid bits cleared (R23). -/
def Thread.clearLatches (th : Thread) : Thread :=
  { th with
    l0 := { th.l0 with valid := false }, l1 := { th.l1 with valid := false },
    l2 := { th.l2 with valid := false }, l3 := { th.l3 with valid := false } }

/-- A latch. -/
def Thread.latch (th : Thread) (n : Nat) : Latch :=
  match n with
  | 0 => th.l0
  | 1 => th.l1
  | 2 => th.l2
  | _ => th.l3

/-- Push a result into the latches (R21). -/
def Thread.push (th : Thread) (v : DWord) : Thread :=
  { th with l0 := ⟨true, v⟩, l1 := th.l0, l2 := th.l1, l3 := th.l2 }

/-- Resume from a suspension: ready, latches invalid (R23). -/
def Thread.resume (th : Thread) : Thread := { th.clearLatches with status := .ready }

/-! ### Pending results -/

/-- Mark `n` registers from `r` pending; a register above 239 is never pending (R23). -/
def Thread.pend (th : Thread) (r n : Nat) : Thread :=
  if r < 240 then { th with pending := th.pending ++ (List.range n).map (r + ·) } else th

/-- A scoreboard wait ends once none of its registers is pending (R23). -/
def Thread.wake (th : Thread) : Thread :=
  match th.status with
  | .scoreboard rs => if rs.any (th.pending.contains ·) then th else th.resume
  | _ => th

/-- A result lands: the registers are written, are pending no longer, and a waiting thread wakes. An exited thread
discards it (R126, R141). -/
def Thread.deliver (th : Thread) (r : Nat) (ws : List Word) : Thread :=
  match th.status with
  | .exited => th
  | _ =>
    let done := (List.range ws.length).map (r + ·)
    let th := { th.setRegs r ws with pending := th.pending.filter (fun p => !done.contains p) }
    th.wake

/-- A result lands in thread `t`. -/
def State.deliver (s : State) (t : Nat) (r : Nat) (ws : List Word) : State := s.modThread t (·.deliver r ws)

/-- A result lands in the register that D names, if any. -/
def State.deliverOpt (s : State) (t : Nat) (r : Option Nat) (ws : List Word) : State :=
  match r with
  | some n => s.deliver t n ws
  | none => s

/-- The number of the general register a D names, if it names one that can be written. -/
def destReg (d : Dest) : Option Nat :=
  match d with
  | .gpr n => if n.toNat < 240 then some n.toNat else none
  | .pred _ | .sreg _ | .none | .latch => none

/-- A 16-bit code (R9). -/
def codeNum : Code → Nat
  | .ok => 0x00 | .illegalOpcode => 0x01 | .illegalOperand => 0x02 | .illegalLiteral => 0x03 | .illegalRegister => 0x04
  | .budgetExceeded => 0x05 | .latchStale => 0x06 | .loopOverflow => 0x07 | .misaligned => 0x08 | .privilege => 0x09
  | .unsupportedOnLc => 0x0A | .softwareTrap => 0x0B | .illegalTarget => 0x0C | .pageNotPresent => 0x10
  | .protection => 0x11 | .wsReadonly => 0x12 | .tableRemote => 0x13 | .tableNotPresent => 0x14
  | .barrierClobber => 0x20 | .convergenceSpan => 0x21 | .barrierOverrun => 0x22 | .shapeInvalid => 0x30
  | .matrixDataError => 0x31 | .matrixFormat => 0x32 | .chainBroken => 0x33 | .scanDescInvalid => 0x34
  | .handleStale => 0x40 | .futureFailed => 0x41 | .futureCancelled => 0x42 | .sectionAborted => 0x43
  | .sectionFault => 0x44 | .reduceShort => 0x50 | .reduceGroupInvalid => 0x51 | .fabricUnreachable => 0x52
  | .variantNone => 0x60 | .variantCorrupt => 0x61

/-- Every code of R9. -/
def allCodes : List Code :=
  [.ok, .illegalOpcode, .illegalOperand, .illegalLiteral, .illegalRegister, .budgetExceeded, .latchStale,
    .loopOverflow, .misaligned, .privilege, .unsupportedOnLc, .softwareTrap, .illegalTarget, .pageNotPresent,
    .protection, .wsReadonly, .tableRemote, .tableNotPresent, .barrierClobber, .convergenceSpan, .barrierOverrun,
    .shapeInvalid, .matrixDataError, .matrixFormat, .chainBroken, .scanDescInvalid, .handleStale, .futureFailed,
    .futureCancelled, .sectionAborted, .sectionFault, .reduceShort, .reduceGroupInvalid, .fabricUnreachable,
    .variantNone, .variantCorrupt]

/-- The code of a number, if R9 lists it. -/
def codeOfNum (n : Nat) : Option Code := allCodes.find? (fun c => codeNum c == n)

/-- A code as a 32-bit completion value. -/
def codeWord (c : Code) : Word := BitVec.ofNat 32 (codeNum c)

/-- D lands with a code (if it names a register). -/
def State.deliverCode (s : State) (t : Nat) (r : Option Nat) (c : Code) : State := s.deliverOpt t r [codeWord c]

/-! ### Bytes -/

/-- Little-endian value of bytes (R6). -/
def leNat (bs : List Byte) : Nat := bs.foldr (fun b acc => b.toNat + 256 * acc) 0

/-- The `n` little-endian bytes of a value (R6). -/
def leBytes : Nat → Nat → List Byte
  | _, 0 => []
  | v, n + 1 => BitVec.ofNat 8 v :: leBytes (v / 256) n

/-- `n` bytes at an offset of a byte list; missing bytes are zero. -/
def bytesAt (bs : List Byte) (off n : Nat) : List Byte := (List.range n).map (fun i => (bs[off + i]?).getD 0#8)

/-- The little-endian value of `n` bytes at an offset. -/
def fieldAt (bs : List Byte) (off n : Nat) : Nat := leNat (bytesAt bs off n)

/-- Bytes replaced at an offset. -/
def putBytes (bs : List Byte) (off : Nat) (v : List Byte) : List Byte := bs.take off ++ v ++ bs.drop (off + v.length)

/-- The words of a register result of a value, low word first (R49). -/
def wordsOf (v : Nat) : Nat → List Word
  | 0 => []
  | n + 1 => BitVec.ofNat 32 v :: wordsOf (v / 2 ^ 32) n

/-- The value of words, low word first. -/
def wordsNat (ws : List Word) : Nat := ws.foldr (fun w acc => w.toNat + 2 ^ 32 * acc) 0

/-- A bit field of a natural number. -/
def bits (x lo n : Nat) : Nat := x / 2 ^ lo % 2 ^ n

end Sys2Proof.Machine
end

