-- ==== Sys2Proof/Machine/Crypto.lean ====
section
/-! DEFINITION. SHAKE256 (R41-R46, R391-R393) and AES-256-XTS on 64-byte sectors (R284, R394), as the public standards
that the spec names define them. -/
namespace Sys2Proof.Machine

/-! ### SHAKE256 -/

/-- Rotation offset of lane x + 5y. -/
def keccakRot : List Nat :=
  [0, 1, 62, 28, 27, 36, 44, 6, 55, 20, 3, 10, 43, 25, 39, 41, 45, 15, 21, 8, 18, 2, 61, 56, 14]

/-- Round constants. -/
def keccakRc : List Nat :=
  [0x0000000000000001, 0x0000000000008082, 0x800000000000808A, 0x8000000080008000, 0x000000000000808B,
   0x0000000080000001, 0x8000000080008081, 0x8000000000008009, 0x000000000000008A, 0x0000000000000088,
   0x0000000080008009, 0x000000008000000A] ++
  [0x000000008000808B, 0x800000000000008B, 0x8000000000008089, 0x8000000000008003, 0x8000000000008002,
   0x8000000000000080, 0x000000000000800A, 0x800000008000000A, 0x8000000080008081, 0x8000000000008080,
   0x0000000080000001, 0x8000000080008008]

/-- A lane of the permutation's state. -/
def lane (st : List DWord) (x y : Nat) : DWord := (st[x % 5 + 5 * (y % 5)]?).getD 0#64

/-- One round. -/
def keccakRound (st : List DWord) (rc : Nat) : List DWord :=
  let idx := List.range 25
  let col := (List.range 5).map (fun x => (List.range 5).foldl (fun acc y => acc ^^^ lane st x y) 0#64)
  let cAt := fun x => (col[x % 5]?).getD 0#64
  let d := fun x => cAt (x + 4) ^^^ (cAt (x + 1)).rotateLeft 1
  let th := idx.map (fun i => lane st i (i / 5) ^^^ d (i % 5))
  -- rho and pi: lane (y, 2x + 3y) receives lane (x, y) rotated
  let b := idx.map (fun i =>
    let y' := i / 5
    let x' := i % 5
    let x := (x' + 3 * y') % 5
    let y := x'
    (lane th x y).rotateLeft ((keccakRot[x + 5 * y]?).getD 0))
  let chi := idx.map (fun i => lane b i (i / 5) ^^^ (~~~(lane b (i % 5 + 1) (i / 5)) &&& lane b (i % 5 + 2) (i / 5)))
  match chi with
  | a :: rest => (a ^^^ BitVec.ofNat 64 rc) :: rest
  | [] => []

/-- Keccak-f[1600]. -/
def keccakF (st : List DWord) : List DWord := keccakRc.foldl keccakRound st

/-- Absorb blocks of 136 bytes; the fuel is the number of blocks. -/
def keccakAbsorb : Nat → List DWord → List Byte → List DWord
  | 0, st, _ => st
  | n + 1, st, bs =>
    let blk := bs.take 136
    let st := (List.range 25).map (fun i =>
      (st[i]?).getD 0#64 ^^^ (if i < 17 then BitVec.ofNat 64 (fieldAt blk (8 * i) 8) else 0#64))
    keccakAbsorb n (keccakF st) (bs.drop 136)

/-- SHAKE256 with `n` bytes of output, n at most 136. -/
def shake256 (msg : List Byte) (n : Nat) : List Byte :=
  let total := msg.length / 136 + 1
  let zeros := total * 136 - msg.length
  let pad : List Byte := if zeros = 1 then [0x9F#8] else 0x1F#8 :: (List.replicate (zeros - 2) 0#8 ++ [0x80#8])
  let st := keccakAbsorb total (List.replicate 25 0#64) (msg ++ pad)
  (st.flatMap (fun w => leBytes w.toNat 8)).take n

/-! ### AES-256-XTS -/

/-- Multiplication by x in GF(2^8). -/
def xtime (a : Nat) : Nat := if 128 ≤ a then (2 * a % 256) ^^^ 0x1B else 2 * a

/-- Multiplication in GF(2^8). -/
def gmul : Nat → Nat → Nat → Nat
  | 0, _, _ => 0
  | k + 1, a, b => (if b % 2 = 1 then a else 0) ^^^ gmul k (xtime a) (b / 2)

/-- The power a^254 by squaring: the inverse, 0 for 0. -/
def ginv (a : Nat) : Nat :=
  let m := gmul 8
  let a2 := m a a
  let a4 := m a2 a2
  let a8 := m a4 a4
  let a16 := m a8 a8
  let a32 := m a16 a16
  let a64 := m a32 a32
  let a128 := m a64 a64
  m a128 (m a64 (m a32 (m a16 (m a8 (m a4 a2)))))

/-- Rotate a byte left. -/
def rotl8 (a k : Nat) : Nat := (a * 2 ^ k % 256) + a / 2 ^ (8 - k)

/-- The S-box. -/
def sbox (a : Nat) : Nat :=
  let b := ginv a
  b ^^^ rotl8 b 1 ^^^ rotl8 b 2 ^^^ rotl8 b 3 ^^^ rotl8 b 4 ^^^ 0x63

/-- The inverse S-box. -/
def invSbox (a : Nat) : Nat := ginv (rotl8 a 1 ^^^ rotl8 a 3 ^^^ rotl8 a 6 ^^^ 0x05)

/-- Byte `i` of a block or key. -/
def nth (l : List Nat) (i : Nat) : Nat := (l[i]?).getD 0

/-- The AES-256 key schedule: 60 words of 4 bytes, oldest first; the fuel counts words still to make. -/
def aesExpand : Nat → Nat → List (List Nat) → List (List Nat)
  | 0, _, ws => ws
  | k + 1, rcon, ws =>
    let i := ws.length
    let prev := (ws[i - 1]?).getD []
    let back := (ws[i - 8]?).getD []
    let t :=
      if i % 8 = 0 then
        match (prev.drop 1 ++ prev.take 1).map sbox with
        | x :: xs => (x ^^^ rcon) :: xs
        | [] => []
      else if i % 8 = 4 then prev.map sbox
      else prev
    aesExpand k (if i % 8 = 0 then xtime rcon else rcon) (ws ++ [List.zipWith (· ^^^ ·) back t])

/-- The 15 round keys of a 32-byte key, 16 bytes each. -/
def aesKeys (key : List Nat) : List (List Nat) :=
  let w := aesExpand 52 1 ((List.range 8).map (fun i => (key.drop (4 * i)).take 4))
  (List.range 15).map (fun r => ((w.drop (4 * r)).take 4).flatten)

/-- ShiftRows on a column-major block, forward or inverse. -/
def shiftRows (inv : Bool) (b : List Nat) : List Nat :=
  (List.range 16).map (fun i =>
    let r := i % 4
    let c := i / 4
    nth b (4 * ((if inv then c + 4 - r else c + r) % 4) + r))

/-- MixColumns with the circulant row given. -/
def mixColumns (co : List Nat) (b : List Nat) : List Nat :=
  (List.range 16).map (fun i =>
    let r := i % 4
    let c := i / 4
    (List.range 4).foldl (fun acc k => acc ^^^ gmul 8 (nth b (4 * c + k)) (nth co ((k + 4 - r) % 4))) 0)

/-- XOR of two blocks. -/
def xorBlock (a b : List Nat) : List Nat := List.zipWith (· ^^^ ·) a b

/-- AES-256 encryption of a block. -/
def aesEnc (keys : List (List Nat)) (blk : List Nat) : List Nat :=
  match keys with
  | [] => blk
  | k0 :: ks =>
    let last := (ks.getLast?).getD []
    let mid := ks.dropLast.foldl
      (fun b k => xorBlock (mixColumns [2, 3, 1, 1] (shiftRows false (b.map sbox))) k) (xorBlock blk k0)
    xorBlock (shiftRows false (mid.map sbox)) last

/-- AES-256 decryption of a block. -/
def aesDec (keys : List (List Nat)) (blk : List Nat) : List Nat :=
  match keys.reverse with
  | [] => blk
  | k0 :: ks =>
    let last := (ks.getLast?).getD []
    let mid := ks.dropLast.foldl
      (fun b k => mixColumns [14, 11, 13, 9] (xorBlock ((shiftRows true b).map invSbox) k)) (xorBlock blk k0)
    xorBlock ((shiftRows true mid).map invSbox) last

/-- The XTS tweak of block `j` of a data unit: the encrypted tweak times x^j. -/
def xtsMul : Nat → Nat → Nat
  | 0, t => t
  | j + 1, t => xtsMul j (let u := 2 * t; if 2 ^ 128 ≤ u then (u - 2 ^ 128) ^^^ 0x87 else u)

/-- Bytes of a natural number as numbers. -/
def natBytes (v n : Nat) : List Nat := (leBytes v n).map BitVec.toNat

/-- One 64-byte sector under a 512-bit key, encrypting or decrypting; the tweak is PA[45:6] (R394). -/
def xtsSector (enc : Bool) (key : BitVec 512) (pa : Nat) (data : Nat) : Nat :=
  let dk := aesKeys (natBytes (key.toNat % 2 ^ 256) 32)
  let tk := aesKeys (natBytes (key.toNat / 2 ^ 256) 32)
  let t0 := leNat ((aesEnc tk (natBytes (pa / 64 % 2 ^ 40) 16)).map (BitVec.ofNat 8))
  let blocks := (List.range 4).map (fun j =>
    let t := natBytes (xtsMul j t0) 16
    let x := xorBlock (natBytes (data / 2 ^ (128 * j)) 16) t
    xorBlock (if enc then aesEnc dk x else aesDec dk x) t)
  leNat (blocks.flatten.map (BitVec.ofNat 8))

end Sys2Proof.Machine
end

