-- ==== Sys2Proof/Machine/Mem.lean ====
section
/-! DEFINITION. Physical memory: the address map (R370), the bytes that HBM and the weight stores hold, memory
encryption (R284, R394), lines and masks. Event counters (R309). -/
namespace Sys2Proof.Machine

/-! ### The physical address map -/

/-- What stands at a physical address (R370). -/
inductive Place where
  | hbm (die : Nat)
  | ws (die : Nat)
  | pcb
  | aperture (n : Nat)
  | unbacked
  deriving DecidableEq, Repr

/-- The address map of a package (R370); bits [45:0] are significant. -/
def placeOf (pa0 : Nat) : Place :=
  let pa := pa0 % 2 ^ 46
  if 2 ^ 45 ≤ pa then .aperture (pa / 2 ^ 40 % 32)
  else if pa < 2 ^ 40 then
    if pa % 2 ^ 38 < 0x3000000000 then .hbm (pa / 2 ^ 38) else .unbacked
  else if pa < 2 ^ 40 + 2 ^ 32 then
    if pa % 2 ^ 30 < 0x30000000 then .ws ((pa - 2 ^ 40) / 2 ^ 30) else .unbacked
  else if 2 ^ 41 ≤ pa ∧ pa < 2 ^ 41 + 65536 then .pcb
  else .unbacked

/-- The die whose HBM or weight store holds an address. -/
def homeDie (pa : Nat) : Option Nat :=
  match placeOf pa with
  | .hbm d => some d
  | .ws d => some d
  | .pcb | .aperture _ | .unbacked => none

/-- DIESTAT's field of a die: 0 not trained, 1 reduced service, 2 in service, 3 failed (R390). -/
def State.dieStat (s : State) (d : Nat) : Nat := bits s.pcb.dieState.toNat (4 * d) 4

/-- A die gives service: reduced (die 0) or full. -/
def State.dieUp (s : State) (d : Nat) : Bool := s.dieStat d == 1 || s.dieStat d == 2

/-- An address that an access may never reach: unbacked, or in a range of a failed die (R369, R370). -/
def State.backed (s : State) (pa : Nat) : Bool :=
  match placeOf pa with
  | .hbm d => s.dieStat d != 3
  | .ws d => s.dieStat d != 3
  | .pcb | .aperture _ => true
  | .unbacked => false

/-- An access that waits until a die enters service (R389). -/
def State.awaitsDie (s : State) (pa : Nat) : Bool :=
  match placeOf pa with
  | .hbm d => s.dieStat d == 0
  | .ws d => s.dieStat d == 0
  | .pcb | .aperture _ | .unbacked => false

/-- A group of a weight store is being refreshed (R295). -/
def State.refreshing (s : State) (pa : Nat) : Bool :=
  match placeOf pa with
  | .ws _ => s.timebase.toNat / 425 % 64 == pa % 2 ^ 30 / 2 ^ 25
  | .hbm _ | .pcb | .aperture _ | .unbacked => false

/-- The home slice of a line on the die that caches it (R276). -/
def sliceOf (pa : Nat) : Nat :=
  bits pa 7 6 ^^^ bits pa 13 6 ^^^ bits pa 19 6 ^^^ bits pa 25 6 ^^^ bits pa 31 6 ^^^ bits pa 37 6 ^^^ bits pa 43 3

/-- Line number of a physical address. -/
def lineNo (pa : Nat) : Nat := pa % 2 ^ 46 / 128

/-- The set of a slice, as the key of its replacement tree. PRESUMED: set index PA[22:13]; the spec gives none. -/
def setKey (ln : Nat) : Nat := 1024 * sliceOf (128 * ln) + bits (128 * ln) 13 10

/-! ### Lines -/

/-- Byte `i` of a line. -/
def lineByte (l : LineData) (i : Nat) : Byte := l.extractLsb' (8 * i) 8

/-- `n` bytes of a line from an offset. -/
def lineSlice (l : LineData) (off n : Nat) : List Byte := (List.range n).map (fun i => lineByte l (off + i))

/-- A line of bytes; missing bytes are zero. -/
def lineOf (bs : List Byte) : LineData := BitVec.ofNat 1024 (leNat bs)

/-- Bytes placed at an offset of a line. -/
def lineAt (off : Nat) (bs : List Byte) : LineData := BitVec.ofNat 1024 (leNat bs * 2 ^ (8 * off))

/-- The mask of `n` bytes from an offset. -/
def maskAt (off n : Nat) : BitVec 128 := BitVec.ofNat 128 ((2 ^ n - 1) * 2 ^ off)

/-- The line with the masked bytes of `new`. -/
def mergeLine (old new : LineData) (mask : BitVec 128) : LineData :=
  lineOf ((List.range 128).map (fun i => if mask.getLsbD i then lineByte new i else lineByte old i))

/-! ### Stored bytes -/

/-- The byte that HBM or a weight store holds at an address, as stored. -/
def State.rawByte (s : State) (pa : Nat) : Byte := cellGet s.mem 0#8 pa

/-- The canonical form of a memory: addresses rising, and no byte listed that equals what an unlisted address reads as. -/
def Memory.wf (m : List Host.Cell) : Bool := cellsWf m 0#8

/-- `n` stored bytes. -/
def State.rawBytes (s : State) (pa n : Nat) : List Byte := (List.range n).map (fun i => s.rawByte (pa + i))

/-- Store bytes. -/
def cellsPut (m : List Host.Cell) (pa : Nat) : List Byte → List Host.Cell
  | [] => m
  | b :: bs => cellsPut (cellSet m 0#8 pa b) (pa + 1) bs

/-- Store bytes as they are. -/
def State.rawPut (s : State) (pa : Nat) (bs : List Byte) : State := { s with mem := cellsPut s.mem pa bs }

/-- The key of a slot; none for plaintext (R394). -/
def State.slotKey (s : State) (k : BitVec 8) : Option (BitVec 512) :=
  if k = 0#8 then none else AMap.get? s.keys k.toNat

/-- The plaintext of one 64-byte sector of HBM under a slot (R284, R394). -/
def State.sectorRead (s : State) (pa : Nat) (k : BitVec 8) : List Byte :=
  match s.slotKey k with
  | none => s.rawBytes pa 64
  | some key => leBytes (xtsSector false key pa (leNat (s.rawBytes pa 64))) 64

/-- Write one sector's plaintext to HBM under a slot (R284, R394). -/
def State.sectorWrite (s : State) (pa : Nat) (k : BitVec 8) (bs : List Byte) : State :=
  match s.slotKey k with
  | none => s.rawPut pa bs
  | some key => s.rawPut pa (leBytes (xtsSector true key pa (leNat bs)) 64)

/-- A line as HBM gives it. -/
def State.hbmLine (s : State) (ln : Nat) (k : BitVec 8) : LineData :=
  lineOf (s.sectorRead (128 * ln) k ++ s.sectorRead (128 * ln + 64) k)

/-- The sectors of a line written to HBM: those whose bit is set. -/
def State.hbmWrite (s : State) (ln : Nat) (k : BitVec 8) (data : LineData) (sectors : BitVec 2) : State :=
  let s := if sectors.getLsbD 0 then s.sectorWrite (128 * ln) k (lineSlice data 0 64) else s
  if sectors.getLsbD 1 then s.sectorWrite (128 * ln + 64) k (lineSlice data 64 64) else s

/-- The sectors that a byte mask touches. -/
def maskSectors (mask : BitVec 128) : BitVec 2 :=
  (if mask.extractLsb' 64 64 = 0#64 then 0#2 else 2#2) ||| (if mask.extractLsb' 0 64 = 0#64 then 0#2 else 1#2)

/-! ### Counters -/

/-- Whether a selector counts an event of a thread at a privilege, or of no thread (R309). -/
def pmselCounts (sel : Word) (ev : Nat) (who : Option Bool) : Bool :=
  sel.getLsbD 31 && bits sel.toNat 0 8 == ev &&
    (match who with
     | none => true
     | some sup => if sup then sel.getLsbD 29 else sel.getLsbD 30)

/-- Count `n` of an event in one counter. -/
def pmcAdd (sel : Word) (pmc : DWord) (ev n : Nat) (who : Option Bool) : DWord :=
  if pmselCounts sel ev who then pmc + BitVec.ofNat 64 n else pmc

/-- Count `n` of an event on a core (R309). -/
def Core.count (c : Core) (ev n : Nat) (who : Option Bool) : Core :=
  { c with
    pmc0 := pmcAdd c.pmsel0 c.pmc0 ev n who, pmc1 := pmcAdd c.pmsel1 c.pmc1 ev n who
    pmc2 := pmcAdd c.pmsel2 c.pmc2 ev n who, pmc3 := pmcAdd c.pmsel3 c.pmc3 ev n who }

/-- Count an event of a core, if any of its counters selects it. -/
def State.pmc (s : State) (core ev n : Nat) (who : Option Bool) : State :=
  let c := s.core core
  if pmselCounts c.pmsel0 ev who || pmselCounts c.pmsel1 ev who || pmselCounts c.pmsel2 ev who ||
    pmselCounts c.pmsel3 ev who then s.modCore core (·.count ev n who) else s

/-- A read of a refresh group under refresh stalls until the slot of 425 counts ends (R138, R295): quarter cycles of the
part's, which the core counts. -/
def State.refreshStall (s : State) (core pa : Nat) (who : Option Bool) : State :=
  if s.refreshing pa then
    let (k, s) := s.choose 426
    s.pmc core 0x24 k who
  else s

end Sys2Proof.Machine
end

