-- ==== Sys2Proof/Machine/Pte.lean ====
section
/-! DEFINITION. Page entries: their fields, what makes one malformed, and classification (R281-R287). -/
namespace Sys2Proof.Machine

/-- Weight-store page. -/
def pteWs (e : DWord) : Bool := e.getLsbD 63
/-- Memory-encryption key slot. -/
def pteKey (e : DWord) : BitVec 8 := e.extractLsb' 55 8
/-- Tensor tag. -/
def pteTensor (e : DWord) : BitVec 6 := e.extractLsb' 49 6
/-- Host-coherent. -/
def pteHc (e : DWord) : Bool := e.getLsbD 48
/-- A leaf entry. -/
def pteLeaf (e : DWord) : Bool := e.getLsbD 47
/-- Supervisor only. -/
def pteSup (e : DWord) : Bool := e.getLsbD 46
/-- The frame or the next node, as a physical address. -/
def pteFrame (e : DWord) : Nat := 65536 * (e.extractLsb' 16 30).toNat
/-- Allocate no line. -/
def pteNa (e : DWord) : Bool := e.getLsbD 15
/-- Classification: 0 unclaimed, 1 private, 2 shared. -/
def pteCl (e : DWord) : Nat := (e.extractLsb' 13 2).toNat
/-- The owner as a throughput-core number, 256 * die + core. -/
def pteOwner (e : DWord) : Nat := (e.extractLsb' 3 10).toNat
/-- No instruction fetch. -/
def pteNx (e : DWord) : Bool := e.getLsbD 2
/-- Writable. -/
def pteWr (e : DWord) : Bool := e.getLsbD 1
/-- Present. -/
def pteP (e : DWord) : Bool := e.getLsbD 0
/-- Under migration, in an entry with P = 0. -/
def pteMig (e : DWord) : Bool := e.getLsbD 1

/-- The entry with another classification and owner. -/
def pteClassed (e : DWord) (cl owner : Nat) : DWord :=
  (e &&& ~~~0x7FF8#64) ||| BitVec.ofNat 64 (cl * 8192 + owner * 8)

/-- An entry for a page that no walk gave: bytes an agent of the part reaches untranslated, shared and plaintext. -/
def pteFlat (pa : Nat) : DWord := BitVec.ofNat 64 (2 ^ 47 + pa / 65536 * 65536 + 2 * 8192 + 3)

/-- The page size of a leaf at a level (R280). -/
def leafSize (level : Nat) : Nat := if level = 1 then 2 ^ 42 else if level = 2 then 2 ^ 29 else 2 ^ 16

/-- The index into the node of a level (R280). -/
def nodeIndex (va : DWord) (level : Nat) : Nat :=
  if level = 1 then bits va.toNat 42 13 else if level = 2 then bits va.toNat 29 13 else bits va.toNat 16 13

/-- Clusters marked fused off by the defect map in force, every cluster of a failed die included (R45, R369). -/
def State.clusterFused (s : State) (c : Nat) : Bool := s.clusterOff.getLsbD c || s.dieStat (c / 64) == 3

/-- A throughput core marked fused off (R45). -/
def State.coreFused (s : State) (c : Nat) : Bool := s.coreOff.getLsbD c || s.clusterFused (c / 4)

/-- A frame lies inside a weight store. -/
def inWeightStore (pa : Nat) : Bool :=
  match placeOf pa with
  | .ws _ => true
  | .hbm _ | .pcb | .aperture _ | .unbacked => false

/-- A frame lies in an aperture (R383). -/
def inAperture (pa : Nat) : Bool :=
  match placeOf pa with
  | .aperture _ => true
  | .hbm _ | .ws _ | .pcb | .unbacked => false

/-- A malformed present entry (R282, R399), or one whose KEY names an empty slot (R394). -/
def State.pteMalformed (s : State) (e : DWord) (level : Nat) : Bool :=
  if pteLeaf e then
    pteCl e == 3 || (pteCl e == 1 && s.coreFused (pteOwner e)) || (pteCl e != 1 && pteOwner e != 0) ||
    pteFrame e % leafSize level != 0 || pteWs e != inWeightStore (pteFrame e) ||
    (pteWs e && pteKey e != 0#8) || (inAperture (pteFrame e) && (pteKey e != 0#8 || pteCl e != 0)) || (pteKey e != 0#8 && (AMap.get? s.keys (pteKey e).toNat).isNone)
  else level == 3 || (e &&& ~~~0x3FFFFFFF0001#64) != 0#64

end Sys2Proof.Machine
end

