-- ==== Sys2Proof/Machine/Cache.lean ====
section
/-! DEFINITION. Caches and coherence: L2 slices (R276-R279), the directory (R290, R291), leases, forwarded stores and
the thaw (R293, R372-R376), L1s and write-combining buffers (R285, R289). -/
namespace Sys2Proof.Machine

/-- The larger of two timestamps. -/
def maxTs (a b : BitVec 24) : BitVec 24 := if a.toNat ≤ b.toNat then b else a

/-- A line as L2 holds it. -/
def State.l2 (s : State) (d ln : Nat) : Option L2Line := AMap.get? (s.die d).l2 ln

/-- Replace a line of an L2. -/
def State.setL2 (s : State) (d ln : Nat) (l : L2Line) : State :=
  s.modDie d (fun x => { x with l2 := AMap.set x.l2 ln l })

/-- The eviction floor of a slice (R372). -/
def Die.floorOf (x : Die) (slice : Nat) : BitVec 24 := AMap.getD x.floors slice 0#24

/-- The eviction floor of the slice of a line. -/
def State.floor (s : State) (d ln : Nat) : BitVec 24 := (s.die d).floorOf (sliceOf (128 * ln))

/-- Raise a core's lease clock (R373). -/
def State.raiseLtime (s : State) (core : Nat) (t : BitVec 24) : State :=
  if (s.core core).ltime.toNat < t.toNat then s.modCore core (fun c => { c with ltime := t }) else s

/-- An ordering edge that no line of memory carries (R148): a core's lease clock passes those of the cores that may stand
before the edge. -/
def State.passClocks (s : State) (core : Nat) (p : Nat → Bool) : State :=
  (AMap.keys s.cores).foldl (fun s c => if p c then s.raiseLtime core (s.core c).ltime else s) s

/-- An edge within a cluster. -/
def State.clockClus (s : State) (core : Nat) : State :=
  if isLC core then s else s.passClocks core (fun c => !isLC c && c / 4 == core / 4)

/-- An edge within a die. -/
def State.clockDie (s : State) (core : Nat) : State := s.passClocks core (fun c => dieOfCore c == dieOfCore core)

/-- An edge within the package. -/
def State.clockPkg (s : State) (core : Nat) : State := s.passClocks core (fun _ => true)

/-- Raise the lease clock of the agent, if it has one. -/
def State.raiseLt (s : State) (who : Option Nat) (t : BitVec 24) : State :=
  match who with
  | some c => s.raiseLtime c t
  | none => s

/-- The lease clock of an agent; the host's is 0 (R373). -/
def State.ltimeOf (s : State) (who : Option Nat) : Nat :=
  match who with
  | some c => (s.core c).ltime.toNat
  | none => 0

/-! ### Slices in retention sleep (R376) -/

/-- The lines of a slice as a wake-up after a thaw leaves them: lease copies dropped, home timestamps zero. -/
def thawLines (slice : Option Nat) (m : AMap L2Line) : AMap L2Line :=
  m.filterMap (fun p =>
    if slice.all (fun x => sliceOf (128 * p.1) == x) then
      if p.2.lease then none else some (p.1, { p.2 with wts := 0#24, rts := 0#24 })
    else some p)

/-- A slice wakes (R376). -/
def Die.wakeSlice (x : Die) (gen : Word) (slice : Nat) : Die :=
  match AMap.get? x.asleep slice with
  | none => x
  | some g =>
    let x := { x with asleep := AMap.erase x.asleep slice }
    if g = gen then x else { x with l2 := thawLines (some slice) x.l2, floors := AMap.erase x.floors slice }

/-- A die leaves its low-power state, its slices awake (R385, R376); no other stays in state 3, which holds every die at
once. -/
def State.wakeDie (s : State) (d : Nat) : State :=
  (s.modDie d (fun x =>
    { (AMap.keys x.asleep).foldl (fun x sl => x.wakeSlice s.pcb.thawgen sl) x with power := 0#2 })).mapDies (fun x =>
      if x.power = 3#2 then { x with power := 2#2 } else x)

/-- A request that needs a die, or a sleeping slice of it, wakes it. -/
def State.needDie (s : State) (d : Nat) : State :=
  if (s.die d).power = 0#2 ∧ (s.die d).asleep = [] then s else s.wakeDie d

/-! ### L2 lines -/

/-- A lease copy that holds forwarded stores not yet acknowledged (R293). -/
def State.held (s : State) (d ln : Nat) : Bool := s.forwarded.any (fun f => f.die == d && f.line == ln)

/-- The way that a replacement tree gives up. DESIGN CHOICE: node 2n+1+b is the child of node n that bit b names. -/
def plruWalk (t : BitVec 15) : Nat → Nat → Nat → Nat
  | 0, _, way => way
  | k + 1, n, way =>
    let b := if t.getLsbD n then 1 else 0
    plruWalk t k (2 * n + 1 + b) (2 * way + b)

/-- A replacement tree after an access to a way. -/
def plruTouch (way : Nat) : Nat → Nat → BitVec 15 → BitVec 15
  | 0, _, t => t
  | k + 1, n, t =>
    let b := way / 2 ^ k % 2
    let bit := BitVec.ofNat 15 (2 ^ n)
    plruTouch way k (2 * n + 1 + b) (if b = 0 then t ||| bit else t &&& ~~~bit)

/-- The replacement position of a line becomes the newest (R277). -/
def State.l2Touch (s : State) (d ln way : Nat) : State :=
  s.modDie d (fun x =>
    { x with plru := AMap.set x.plru (setKey ln) (plruTouch way 4 0 (AMap.getD x.plru (setKey ln) 0#15)) })

/-- A line leaves an L2: dirty sectors of a home line are written back, and the floor rises (R277, R373). -/
def State.l2Evict (s : State) (d ln : Nat) : State :=
  match s.l2 d ln with
  | none => s
  | some l =>
    if l.lease then s.modDie d (fun x => { x with l2 := AMap.erase x.l2 ln })
    else
      let s := s.hbmWrite ln l.key l.data l.dirty
      s.modDie d (fun x =>
        { x with
          l2 := AMap.erase x.l2 ln
          floors := AMap.set x.floors (sliceOf (128 * ln)) (maxTs (x.floorOf (sliceOf (128 * ln))) l.rts) })

/-- The lines of the set that a line falls in. -/
def State.l2Set (s : State) (d ln : Nat) : AMap L2Line := (s.die d).l2.filter (fun p => setKey p.1 == setKey ln)

/-- Make room in the set of a line: an evict-first line goes first, then the way that the tree gives; a copy that
holds forwarded stores stays (R277, R293). -/
def State.l2Room (s : State) (d ln : Nat) : State :=
  let set := s.l2Set d ln
  if set.length < 16 then s
  else
    let free := set.filter (fun p => !s.held d p.1)
    let w := plruWalk (AMap.getD (s.die d).plru (setKey ln) 0#15) 4 0 0
    match (free.find? (fun p => p.2.evictFirst)).orElse
        (fun _ => (free.find? (fun p => p.2.way == w)).orElse (fun _ => free.head?)) with
    | some p => s.l2Evict d p.1
    | none => s

/-- Allocate a line in an L2. -/
def State.l2Fill (s : State) (d ln : Nat) (l : L2Line) : State :=
  let s := s.l2Room d ln
  let used := (s.l2Set d ln).map (fun p => p.2.way)
  let way := ((List.range 16).find? (fun w => !used.contains w)).getD 0
  (s.setL2 d ln { l with way := way }).l2Touch d ln way

/-- The line of a home, fetched from HBM if its slice does not hold it; without timestamps it takes the eviction
floor (R372). The flag says that HBM was read. -/
def State.homeFetch (s : State) (d ln : Nat) (key : BitVec 8) (tensor : BitVec 6) : L2Line × Bool × State :=
  let s := s.needDie d
  match s.l2 d ln with
  | some l => (l, false, s.l2Touch d ln l.way)
  | none =>
    let f := s.floor d ln
    let l : L2Line := ⟨s.hbmLine ln key, 3#2, 0#2, 0, tensor, key, false, false, f, f⟩
    let s := s.l2Fill d ln l
    ((s.l2 d ln).getD l, true, s)

/-! ### The directory (R290, R291) -/

/-- The cores whose L1s a cluster number of the directory names: a cluster, or 256 + a latency core. -/
def dirCores (c : Nat) : List Nat := if c < 256 then [4 * c, 4 * c + 1, 4 * c + 2, 4 * c + 3] else [1024 + (c - 256)]

/-- The key of a region in the directory of a home slice (R290). -/
def dirKey (slice base : Nat) : Nat := 2 ^ 46 * slice + base

/-- The sizes of a region, the largest first (R291). -/
def dirSizes : List Nat := [65536, 32768, 16384, 8192, 4096, 2048, 1024, 512, 256, 128]

/-- The regions that a slice tracks, by base. -/
def Die.tracked (x : Die) (slice : Nat) : AMap Region :=
  (x.dir.filter (fun p => p.1 / 2 ^ 46 == slice)).map (fun p => (p.1 % 2 ^ 46, p.2))

/-- The region that tracks an address at its home slice, by its base; what no region tracks starts as the largest that
overlaps none, at most 64 KiB. -/
def State.regionOf (s : State) (d pa : Nat) : Nat × Region :=
  let m := (s.die d).tracked (sliceOf pa)
  match m.find? (fun p => decide (p.1 ≤ pa) && decide (pa < p.1 + p.2.size)) with
  | some p => p
  | none =>
    let free (n : Nat) : Bool := m.all (fun p => decide (p.1 + p.2.size ≤ pa - pa % n) || decide (pa - pa % n + n ≤ p.1))
    let n := (dirSizes.find? free).getD 128
    (pa - pa % n, ⟨n, .invalid⟩)

/-- Drop the lines of shared pages that a core's L1 holds in a region of a slice. -/
def Core.dropShared (c : Core) (slice base size : Nat) : Core :=
  { c with l1 := c.l1.filter (fun p =>
      p.2.owned || p.2.ws || sliceOf (128 * p.1) != slice || decide (128 * p.1 < base) ||
        decide (base + size ≤ 128 * p.1)) }

/-- Drop shared lines of a region in every L1 of some clusters but one core's, counting the invalidations (R290). -/
def State.dropClusters (s : State) (cls : List Nat) (but : Option Nat) (slice base size : Nat) : State :=
  cls.foldl (fun s cl =>
    (dirCores cl).foldl (fun s c =>
      if but = some c then s
      else (if (s.core c).l1 = [] then s else s.modCore c (·.dropShared slice base size)).pmc c 0x1A 1 none) s) s

/-- Clusters that may hold lines of a region. -/
def dirHolders (st : DirState) : List Nat :=
  match st with
  | .invalid => []
  | .shared cls => cls
  | .modified c => [walkerOfCore c]

/-- A slice has a place for a region: it tracks it, or fewer than 32,768; else it gives one up, of another 64 KiB and of
the part's choice, whose lines every L1 drops (R291). -/
def State.dirRoom (s : State) (d slice base : Nat) : State :=
  let m := (s.die d).tracked slice
  if m.any (fun p => p.1 == base) || decide (m.length < 32768) then s
  else
    let others := m.filter (fun p => p.1 / 65536 != base / 65536)
    let (k, s) := s.choose others.length
    match others[k]? with
    | some p =>
      (s.dropClusters (dirHolders p.2.state) none slice p.1 p.2.size).modDie d
        (fun x => { x with dir := AMap.erase x.dir (dirKey slice p.1) })
    | none => s

/-- Record a region. -/
def State.setRegion (s : State) (d slice base : Nat) (r : Region) : State :=
  (s.dirRoom d slice base).modDie d (fun x => { x with dir := AMap.set x.dir (dirKey slice base) r })

/-- A conflict: a region larger than a line splits into two halves with the old state; the half that holds the
address is the region acted on. -/
def State.splitRegion (s : State) (d pa : Nat) : Nat × Region × State :=
  let (base, r) := s.regionOf d pa
  if r.size ≤ 128 then (base, r, s)
  else
    let h := r.size / 2
    let half : Region := ⟨h, r.state⟩
    let s := (s.setRegion d (sliceOf pa) base half).setRegion d (sliceOf pa) (base + h) half
    if pa < base + h then (base, half, s) else (base + h, half, s)

/-- A load of a core finds a region in M for another: it becomes S (R290). -/
def State.dirDemote (s : State) (d ln core : Nat) : State :=
  match (s.regionOf d (128 * ln)).2.state with
  | .modified k =>
    if k = core then s
    else
      let (base, r, s) := s.splitRegion d (128 * ln)
      s.setRegion d (sliceOf (128 * ln)) base ⟨r.size, .shared [walkerOfCore k]⟩
  | .shared _ | .invalid => s

/-- A core's load asks the home for S (R290). -/
def State.dirRead (s : State) (d ln core : Nat) : State :=
  let pa := 128 * ln
  let cl := walkerOfCore core
  let s := s.dirDemote d ln core
  match (s.regionOf d pa).2.state with
  | .modified _ => s
  | .shared cls =>
    if cls.contains cl then s
    else
      let (base, r) := s.regionOf d pa
      s.setRegion d (sliceOf pa) base ⟨r.size, .shared (cl :: cls)⟩
  | .invalid =>
    let (base, r, s) := s.splitRegion d pa
    s.setRegion d (sliceOf pa) base ⟨r.size, .shared [cl]⟩

/-- A write reaches the home: for a core of the die, an upgrade to M unless it holds M, counted under the privilege of
the thread that wrote; for any other writer, every L1 copy is dropped (R290). -/
def State.dirWrite (s : State) (d ln : Nat) (core : Option (Nat × Option Bool)) : State :=
  let pa := 128 * ln
  match core with
  | some (c, who) =>
    if (s.regionOf d pa).2.state = .modified c then s
    else
      let s := s.pmc c 0x18 1 who
      let (base, r, s) := s.splitRegion d pa
      let s := s.dropClusters (dirHolders r.state) (some c) (sliceOf pa) base r.size
      s.setRegion d (sliceOf pa) base ⟨r.size, .modified c⟩
  | none =>
    if (s.regionOf d pa).2.state = .invalid then s
    else
      let (base, r, s) := s.splitRegion d pa
      let s := s.dropClusters (dirHolders r.state) none (sliceOf pa) base r.size
      s.setRegion d (sliceOf pa) base ⟨r.size, .invalid⟩

/-- Two halves of one former region of a slice merge if their states agree (R291). The key names the region. -/
def State.mergeRegions (s : State) (d key : Nat) : State :=
  match AMap.get? (s.die d).dir key with
  | none => s
  | some r =>
    let slice := key / 2 ^ 46
    let base := key % 2 ^ 46
    let lo := base - base % (2 * r.size)
    match AMap.get? (s.die d).dir (dirKey slice lo), AMap.get? (s.die d).dir (dirKey slice (lo + r.size)) with
    | some a, some b =>
      if a = b ∧ a.size = r.size ∧ r.size < 65536 then
        s.modDie d (fun x =>
          { x with dir := AMap.set (AMap.erase x.dir (dirKey slice (lo + r.size))) (dirKey slice lo) ⟨2 * r.size, a.state⟩ })
      else s
    | _, _ => s

/-! ### Home writes, timestamps and the thaw (R373, R375) -/

/-- Bytes merged at the home, without timestamps. A no-allocate store that misses is written to HBM (R278); the tag
becomes the writer's (R279). -/
def State.homeMerge (s : State) (d ln : Nat) (data : LineData) (mask : BitVec 128) (tensor : BitVec 6)
    (key : BitVec 8) (na : Bool) : State :=
  let s := s.needDie d
  let put (s : State) (l : L2Line) : State :=
    s.setL2 d ln { l with
      data := mergeLine l.data data mask, dirty := l.dirty ||| maskSectors mask, tensor := tensor, key := key
      evictFirst := l.evictFirst || na }
  match s.l2 d ln with
  | some l => if na then put s l else put (s.l2Touch d ln l.way) l
  | none =>
    if na then s.hbmWrite ln key (mergeLine (s.hbmLine ln key) data mask) (maskSectors mask)
    else
      let (l, _, s) := s.homeFetch d ln key tensor
      put s l

/-- The rts that a write at the home must pass. -/
def State.homeRts (s : State) (d ln : Nat) : BitVec 24 :=
  match s.l2 d ln with
  | some l => l.rts
  | none => s.floor d ln

/-- Give the home line the timestamps of a write; a line that is not held raises the floor. -/
def State.setStamp (s : State) (d ln : Nat) (t : BitVec 24) : State :=
  match s.l2 d ln with
  | some l => s.setL2 d ln { l with wts := t, rts := t }
  | none => s.modDie d (fun x =>
      { x with floors := AMap.set x.floors (sliceOf (128 * ln)) (maxTs (x.floorOf (sliceOf (128 * ln))) t) })

/-- A forwarded store merges at its home, without timestamps (R375 step 2). -/
def State.mergeForwarded (s : State) (f : Forwarded) : State :=
  match homeDie (128 * f.line) with
  | some h => (s.dirWrite h f.line none).homeMerge h f.line f.data f.mask f.tensor f.key f.na
  | none => s

/-- A forwarded store runs from one die to one home. -/
def Forwarded.onPair (f : Forwarded) (pair : Nat × Nat) : Bool :=
  f.die == pair.1 && homeDie (128 * f.line) == some pair.2

/-- The thaw (R375). Forwarded stores behind a held one, of the pair given, wait for it. -/
def State.thaw (s : State) (pair : Option (Nat × Nat)) : State :=
  let waits (f : Forwarded) : Bool := pair.any f.onPair
  let s := (s.forwarded.filter (fun f => !waits f)).foldl State.mergeForwarded s
  { s with
    forwarded := s.forwarded.filter waits
    dies := s.dies.map (fun p =>
      (p.1, { p.2 with
        l2 := p.2.l2.filterMap (fun q =>
          if (AMap.get? p.2.asleep (sliceOf (128 * q.1))).isSome then some q
          else if q.2.lease then none else some (q.1, { q.2 with wts := 0#24, rts := 0#24 }))
        floors := p.2.floors.filter (fun q => (AMap.get? p.2.asleep q.1).isSome)
        fabtime := 0#24 }))
    cores := s.cores.map (fun p => (p.1, { p.2 with ltime := 0#24 }))
    pcb := { s.pcb with thawgen := s.pcb.thawgen + 1#32 } }

/-- The timestamp of a write at the home: max(rts + 1, the writer's LTIME) (R373). -/
def State.nextStamp (s : State) (d ln : Nat) (who : Option Nat) : Nat :=
  max ((s.homeRts d ln).toNat + 1) (s.ltimeOf who)

/-- A write performed at the home: the directory acts, the bytes merge, the timestamps jump, the writer's clock rises
(R290, R373). `dirOwner` is the core recorded in M. -/
def State.homePut (s : State) (d ln : Nat) (data : LineData) (mask : BitVec 128) (tensor : BitVec 6)
    (key : BitVec 8) (na : Bool) (who : Option Nat) (dirOwner : Option (Nat × Option Bool)) : State :=
  let t := BitVec.ofNat 24 (s.nextStamp d ln who)
  let s := (s.dirWrite d ln dirOwner).homeMerge d ln data mask tensor key na
  (s.setStamp d ln t).raiseLt who t

/-- As `homePut`, after a thaw if the timestamp would pass 0xFF_FFFF (R375). -/
def State.homeStore (s : State) (d ln : Nat) (data : LineData) (mask : BitVec 128) (tensor : BitVec 6)
    (key : BitVec 8) (na : Bool) (who : Option Nat) (dirOwner : Option (Nat × Option Bool)) : State :=
  let s := s.needDie d
  let s := if 0xFFFFFF < s.nextStamp d ln who then s.thaw none else s
  s.homePut d ln data mask tensor key na who dirOwner

/-- A load served at the home raises the reader's clock to wts (R373). A no-allocate load that misses leaves the line
in HBM and takes the floor. The flag says that HBM was read. -/
def State.homeLoad (s : State) (d ln : Nat) (key : BitVec 8) (tensor : BitVec 6) (na : Bool) (who : Option Nat) :
    LineData × Bool × State :=
  let s := s.needDie d
  if na then
    match s.l2 d ln with
    | some l => (l.data, false, s.raiseLt who l.wts)
    | none => (s.hbmLine ln key, true, s.raiseLt who (s.floor d ln))
  else
    let (l, missed, s) := s.homeFetch d ln key tensor
    (l.data, missed, s.raiseLt who l.wts)

/-! ### Forwarded stores (R293) -/

/-- The die's copy after a write of its own has been performed at the home: the home's line with the stores still under
way, under the timestamps granted (R373); while it holds such stores, its wts stands no lower than before. -/
def State.refreshCopy (s : State) (d h ln : Nat) : State :=
  match s.l2 d ln with
  | none => s
  | some c =>
    let own := s.forwarded.filter (fun f => f.die == d && f.line == ln)
    let (x, w, r) := match s.l2 h ln with
      | some l => (l.data, l.wts, l.rts)
      | none => (s.hbmLine ln c.key, s.floor h ln, s.floor h ln)
    s.setL2 d ln { c with
      data := own.foldl (fun x f => mergeLine x f.data f.mask) x, wts := if own = [] then w else maxTs w c.wts, rts := r }

/-- A forwarded store, taken from the list, is performed at its home and acknowledged. -/
def State.performForwarded (s : State) (f : Forwarded) (h : Nat) : State :=
  (s.homePut h f.line f.data f.mask f.tensor f.key f.na (some f.core) none).refreshCopy f.die h f.line

/-- The first store on its way from a die to a home is performed and acknowledged; a thaw it needs performs the
others first, and those behind it after it (R368, R373, R375). -/
def State.ackFirst (s : State) (pair : Nat × Nat) : State :=
  match s.forwarded.find? (·.onPair pair) with
  | none => s
  | some f =>
    let s := s.needDie pair.2
    let s := { s with forwarded := s.forwarded.eraseP (·.onPair pair) }
    if 0xFFFFFF < s.nextStamp pair.2 f.line (some f.core) then
      let s := (s.thaw (some pair)).performForwarded f pair.2
      s.forwarded.foldl (fun s g => { s with forwarded := s.forwarded.drop 1 }.performForwarded g pair.2) s
    else s.performForwarded f pair.2

/-- The k-th forwarded store, with those before it on its way, is acknowledged: the count bounds the work. -/
def State.ackCount (s : State) (pair : Nat × Nat) : Nat → State
  | 0 => s
  | n + 1 => (s.ackFirst pair).ackCount pair n

/-- Every store forwarded from a die to the home of a line up to the last one to that line is acknowledged. -/
def State.ackLine (s : State) (d ln : Nat) : State :=
  match homeDie (128 * ln) with
  | none => s
  | some h =>
    let onWay := s.forwarded.filter (·.onPair (d, h))
    let behind := (onWay.reverse.takeWhile (fun f => f.line != ln)).length
    s.ackCount (d, h) (onWay.length - behind)

/-- Every forwarded store of some cores is acknowledged (R374). -/
def State.ackAll (s : State) (which : Forwarded → Bool) : State :=
  (s.forwarded.filter which).foldl (fun s f =>
    if s.forwarded.contains f then s.ackLine f.die f.line else s) s

/-! ### Leases (R373) -/

/-- A miss at the home grants a lease and returns the line; the stores that a thaw performs may have evicted it, and it is
fetched again (R375). -/
def State.leaseGrant (s : State) (d h ln core : Nat) (key : BitVec 8) (tensor : BitVec 6) : LineData × State :=
  let lease := s.pcb.leasecfg.toNat
  let s := (s.needDie d).needDie h
  let (_, _, s) := s.homeFetch h ln key tensor
  let want (s : State) : Nat :=
    match s.l2 h ln with
    | some l => max l.rts.toNat (max (l.wts.toNat + lease) ((s.core core).ltime.toNat + lease))
    | none => 0
  let s := if 0xFFFFFF < want s then ((s.thaw none).homeFetch h ln key tensor).2.2 else s
  let r := BitVec.ofNat 24 (want s)
  match s.l2 h ln with
  | some l =>
    let s := s.setL2 h ln { l with rts := r }
    let copy : L2Line := ⟨l.data, 3#2, 0#2, 0, tensor, key, false, true, l.wts, r⟩
    let s := match s.l2 d ln with
      | some c => s.setL2 d ln { copy with way := c.way }
      | none => s.l2Fill d ln copy
    (l.data, s.raiseLtime core l.wts)
  | none => (0#1024, s)

/-- A lease copy may serve a core's load (R373, R293). -/
def State.leaseHit (s : State) (d ln core : Nat) (l : L2Line) : Bool :=
  decide ((s.core core).ltime.toNat ≤ l.rts.toNat) || s.held d ln

/-- A load of a line homed on another die, shared: the line, and which counter event served it. -/
def State.leaseLoad (s : State) (d h ln core : Nat) (key : BitVec 8) (tensor : BitVec 6) (na : Bool) :
    LineData × Nat × State :=
  let s := s.needDie d
  let miss (s : State) : LineData × Nat × State :=
    if na then
      let (x, _, s) := s.homeLoad h ln key tensor true (some core)
      (x, 0x14, s)
    else
      let (x, s) := s.leaseGrant d h ln core key tensor
      (x, 0x14, s)
  match s.l2 d ln with
  | some l =>
    if s.leaseHit d ln core l then
      let s := if na then s else s.l2Touch d ln l.way
      (l.data, 0x13, s.raiseLtime core l.wts)
    else miss s
  | none => miss s

/-- Lines of the set of `ln` that hold forwarded stores. -/
def State.heldInSet (s : State) (d ln : Nat) : List Nat :=
  ((s.l2Set d ln).filter (fun p => s.held d p.1)).map (·.1)

/-- A store to a line homed on another die: this die's copy is updated, fetched first if the die holds none that the
writer may use, and the store is forwarded (R293). At most 15 copies of a set wait for acknowledgements. The copy takes
the writer's clock as its wts while it holds the store, so that a load of the store is ordered after what the writer had
read (R148). -/
def State.forwardStore (s : State) (d h ln core thread : Nat) (data : LineData) (mask : BitVec 128)
    (tensor : BitVec 6) (key : BitVec 8) (na : Bool) (seq : Nat) : State :=
  let s := s.needDie d
  let others := (s.heldInSet d ln).filter (· != ln)
  let s := if others.length < 15 then s else (others.head?.elim s (fun o => s.ackLine d o))
  let usable := match s.l2 d ln with
    | some l => s.leaseHit d ln core l
    | none => false
  let s := if usable then s else (s.leaseGrant d h ln core key tensor).2
  let s := match s.l2 d ln with
    | some l => s.setL2 d ln { l with
        data := mergeLine l.data data mask, tensor := tensor, key := key, evictFirst := l.evictFirst || na
        wts := maxTs l.wts (s.core core).ltime }
    | none => s
  { s with forwarded := s.forwarded ++ [⟨thread, core, d, ln, data, mask, tensor, key, na, seq⟩] }

/-! ### Write-combining buffers (R289) -/

/-- The copy of a line in its writer's own L1 takes the bytes of a write that its home performs, and the writer's tag
(R279, R290). -/
def Core.mergeL1 (c : Core) (ln : Nat) (data : LineData) (mask : BitVec 128) (tensor : BitVec 6) (key : BitVec 8) : Core :=
  { c with l1 := c.l1.map (fun p =>
      if p.1 = ln ∧ ¬ p.2.ws then (p.1, { p.2 with data := mergeLine p.2.data data mask, tensor := tensor, key := key })
      else p) }

/-- The core recorded in M by the upgrade of an entry, with the privilege that counts it; no directory tracks the lines of
a private page (R285, R290). -/
def WcEntry.upgrades (e : WcEntry) (core : Nat) : Option (Nat × Option Bool) := if e.owned then none else some (core, e.who)

/-- The age of the oldest store of an entry. -/
def WcEntry.oldest (e : WcEntry) : Nat := (e.since.map (·.2)).foldl min ((e.since.head?.map (·.2)).getD 0)

/-- One entry is sent and performed: at its home on this die, or into this die's copy and on its way (R292). -/
def State.wcPerform (s : State) (core : Nat) (e : WcEntry) : State :=
  let d := dieOfCore core
  let s := s.modCore core (·.mergeL1 e.line e.data e.mask e.tensor e.key)
  match homeDie (128 * e.line) with
  | none => s
  | some h =>
    if h = d then s.homeStore d e.line e.data e.mask e.tensor e.key e.na (some core) (e.upgrades core)
    else s.forwardStore d h e.line core (e.owners.headD 0) e.data e.mask e.tensor e.key e.na e.oldest

/-- The i-th entry leaves the buffer. -/
def State.wcSend (s : State) (core i : Nat) : State :=
  match (s.core core).wc[i]? with
  | none => s
  | some e => (s.modCore core (fun c => { c with wc := c.wc.eraseIdx i })).wcPerform core e

/-- Entries that satisfy a condition leave the buffer, oldest first. -/
def State.wcSendIf (s : State) (core : Nat) (p : WcEntry → Bool) : State :=
  let out := (s.core core).wc.filter p
  if out = [] then s
  else
    out.foldl (fun s e => s.wcPerform core e)
      (s.modCore core (fun c => { c with wc := c.wc.filter (fun e => !p e) }))

/-- The entry of a line leaves the buffer. -/
def State.wcSendLine (s : State) (core ln : Nat) : State := s.wcSendIf core (fun e => e.line == ln)

/-- An entry that a release covers: not one of undrained ST.nt stores alone (R151). -/
def WcEntry.covered (e : WcEntry) : Bool := e.mask != e.nt || e.owners.any (fun t => !e.ntOwners.contains t)

/-- Bytes of the buffer over a line. -/
def Core.wcOverlay (c : Core) (ln : Nat) (data : LineData) : LineData :=
  match c.wc.find? (fun e => e.line == ln) with
  | some e => mergeLine data e.data e.mask
  | none => data

/-- A store may enter the buffer: its line has an entry, or one of the 16 is free. -/
def Core.wcRoom (c : Core) (ln : Nat) : Bool :=
  c.wc.any (fun e => e.line == ln) || decide (c.wc.length < 16)

/-- An entry after another store to its line. -/
def WcEntry.merge (e : WcEntry) (data : LineData) (mask : BitVec 128) (tensor : BitVec 6) (key : BitVec 8)
    (na nt : Bool) (t seq : Nat) : WcEntry :=
  { e with
    data := mergeLine e.data data mask, mask := e.mask ||| mask
    nt := if nt then e.nt ||| mask else e.nt &&& ~~~mask
    tensor := tensor, key := key, na := na
    owners := if e.owners.contains t then e.owners else e.owners ++ [t]
    ntOwners := if nt && !e.ntOwners.contains t then e.ntOwners ++ [t] else e.ntOwners
    since := if (AMap.get? e.since t).isSome then e.since else AMap.set e.since t seq }

/-- A store enters the buffer (R289). -/
def Core.wcPut (c : Core) (ln : Nat) (data : LineData) (mask : BitVec 128) (tensor : BitVec 6) (key : BitVec 8)
    (na nt owned : Bool) (t seq : Nat) (who : Option Bool) : Core :=
  if c.wc.any (fun e => e.line == ln) then
    { c with wc := c.wc.map (fun e => if e.line = ln then e.merge data mask tensor key na nt t seq else e) }
  else
    let e : WcEntry := ⟨ln, 0#1024, 0#128, 0#128, tensor, key, na, owned, [], [], [], who⟩
    { c with wc := c.wc ++ [e.merge data mask tensor key na nt t seq] }

/-- A store or atomic enters a full buffer: its oldest entry goes first. -/
def State.wcMakeRoom (s : State) (core ln : Nat) : State := if (s.core core).wcRoom ln then s else s.wcSend core 0

/-! ### L1 lines (R285) -/

/-- Lines an L1 holds: 1,024 on a throughput core (R3). On a latency core its 64 KiB L1 and its 512 KiB private cache are one
pool of 4,608 distinct lines, and a hit in it counts as an L1 hit: R2 and R312 do not say whether a line of the L1 also stands
in the private cache. DESIGN CHOICE (log 160). -/
def l1Capacity (core : Nat) : Nat := if isLC core then 4608 else 1024

/-- A line leaves an L1; its dirty bytes go to the home. -/
def State.l1Evict (s : State) (core ln : Nat) : State :=
  match AMap.get? (s.core core).l1 ln with
  | none => s
  | some l =>
    let s := s.modCore core (fun c => { c with l1 := AMap.erase c.l1 ln })
    if l.dirty = 0#128 then s
    else
      match homeDie (128 * ln) with
      | some h => s.homeStore h ln l.data l.dirty l.tensor l.key false (some core) none
      | none => s

/-- A line enters an L1; a full L1 gives up a line of the part's choice. -/
def State.l1Fill (s : State) (core ln : Nat) (l : L1Line) : State :=
  let s :=
    if (s.core core).l1.length < l1Capacity core then s
    else
      let (k, s) := s.choose (s.core core).l1.length
      match (s.core core).l1[k]? with
      | some p => s.l1Evict core p.1
      | none => s
  s.modCore core (fun c => { c with l1 := AMap.set c.l1 ln l })

/-- Dirty bytes of a line in an L1 go to the home; the line stays, clean. -/
def State.l1Clean (s : State) (core ln : Nat) : State :=
  match AMap.get? (s.core core).l1 ln with
  | none => s
  | some l =>
    if l.dirty = 0#128 then s
    else
      let s := s.modCore core (fun c => { c with l1 := AMap.set c.l1 ln { l with dirty := 0#128 } })
      match homeDie (128 * ln) with
      | some h => s.homeStore h ln l.data l.dirty l.tensor l.key false (some core) none
      | none => s

/-- The lines of an L1 in a range, by line number. -/
def Core.l1In (c : Core) (p : Nat → L1Line → Bool) : List Nat := (c.l1.filter (fun q => p q.1 q.2)).map (·.1)

/-- Every L1 line of the package that a condition names is written back and invalidated. -/
def State.l1FlushIf (s : State) (p : Nat → L1Line → Bool) : State :=
  (AMap.keys s.cores).foldl (fun s c => ((s.core c).l1In p).foldl (fun s ln => s.l1Evict c ln) s) s

/-- The ST.nt stores of a page's owner to a line are performed at its home, acknowledged where it lies on another die: what the
owner does with the line comes after them (R150, R151). -/
def State.ownSend (s : State) (core ln : Nat) : State := (s.wcSendLine core ln).ackLine (dieOfCore core) ln

/-- A line in the L1 of the owner of its page, fetched from its home without a lease copy (R285, R372). -/
def State.ownLine (s : State) (core ln : Nat) (e : DWord) (na : Bool) (who : Option Bool) (n : Nat) : LineData × State :=
  let s := s.ownSend core ln
  match AMap.get? (s.core core).l1 ln with
  | some l => (l.data, s.pmc core 0x10 1 who)
  | none =>
    let s := s.pmc core 0x11 1 who
    match homeDie (128 * ln) with
    | none => (0#1024, s)
    | some h =>
      let (x, missed, s) := s.homeLoad h ln (pteKey e) (pteTensor e) na (some core)
      let s := s.pmc core (if h = dieOfCore core then (if missed then 0x16 else 0x12) else 0x14) n who
      let s := if na then s else s.l1Fill core ln ⟨x, 0#128, pteTensor e, pteKey e, true, false⟩
      (x, s)

/-! ### Accesses of a core's threads -/

/-- The page of an entry is private to a core. -/
def ownedBy (e : DWord) (core : Nat) : Bool := pteCl e == 1 && pteOwner e == core && !isLC core

/-- A core's load of `n` bytes of one line of HBM or a weight store, by where the line may stand (R285, R290, R296,
R372). `who` is the privilege counted. -/
def State.coreLoad (s : State) (core pa n : Nat) (e : DWord) (na0 : Bool) (who : Option Bool) : List Byte × State :=
  let ln := lineNo pa
  let off := pa % 128
  let d := dieOfCore core
  let na := na0 || pteNa e
  match placeOf pa with
  | .ws w =>
    match AMap.get? (s.core core).l1 ln with
    | some l => (lineSlice l.data off n, s.pmc core 0x10 1 who)
    | none =>
      let x := lineOf (s.rawBytes (128 * ln) 128)
      let s := ((s.needDie w).pmc core 0x11 1 who).pmc core 0x17 n who
      (lineSlice x off n, if na then s else s.l1Fill core ln ⟨x, 0#128, pteTensor e, 0#8, false, true⟩)
  | .hbm h =>
    if ownedBy e core then
      let (x, s) := s.ownLine core ln e na who n
      (lineSlice x off n, s)
    else if h = d then
      match AMap.get? (s.core core).l1 ln with
      | some l => (lineSlice ((s.core core).wcOverlay ln l.data) off n, s.pmc core 0x10 1 who)
      | none =>
        let s := s.pmc core 0x11 1 who
        let s := if na then s.dirDemote d ln core else s.dirRead d ln core
        let (x, missed, s) := s.homeLoad d ln (pteKey e) (pteTensor e) na (some core)
        let s := s.pmc core (if missed then 0x16 else 0x12) n who
        let s := if na then s else s.l1Fill core ln ⟨x, 0#128, pteTensor e, pteKey e, false, false⟩
        (lineSlice ((s.core core).wcOverlay ln x) off n, s)
    else
      let (x, ev, s) := (s.pmc core 0x11 1 who).leaseLoad d h ln core (pteKey e) (pteTensor e) na
      let s := s.pmc core ev n who
      (lineSlice ((s.core core).wcOverlay ln x) off n, s)
  | .pcb | .aperture _ | .unbacked => (List.replicate n 0#8, s)

/-- A store of a thread may be made at once: it needs no free entry of the write-combining buffer, or finds one. -/
def State.storeRoom (s : State) (core pa : Nat) (e : DWord) (nt : Bool) : Bool :=
  match placeOf pa with
  | .hbm _ => (ownedBy e core && !nt) || (s.core core).wcRoom (lineNo pa)
  | .ws _ | .pcb | .aperture _ | .unbacked => true

/-- A core's store of bytes of one line of HBM or a weight store: to the owner's L1, or into the write-combining
buffer (R285, R289); a weight store is written as it is (R297). -/
def State.coreStore (s : State) (core thread pa : Nat) (bs : List Byte) (e : DWord) (na0 nt : Bool)
    (who : Option Bool) : State :=
  let ln := lineNo pa
  let off := pa % 128
  let data := lineAt off bs
  let mask := maskAt off bs.length
  let na := na0 || pteNa e
  match placeOf pa with
  | .ws w => ((s.needDie w).rawPut (pa % 2 ^ 46) bs).modCore core (fun c => { c with l1 := AMap.erase c.l1 ln })
  | .hbm h =>
    if ownedBy e core && !nt then
      match AMap.get? (s.ownSend core ln |>.core core).l1 ln with
      | some _ =>
        let (x, s) := s.ownLine core ln e na who 0
        let l (c : Core) : L1Line :=
          ⟨mergeLine x data mask, ((AMap.get? c.l1 ln).elim 0#128 (·.dirty)) ||| mask, pteTensor e, pteKey e, true, false⟩
        s.modCore core (fun c => { c with l1 := AMap.set c.l1 ln (l c) })
      | none =>
        if na then
          (s.ownSend core ln).homeStore h ln data mask (pteTensor e) (pteKey e) true (some core) none
        else
          let (x, s) := s.ownLine core ln e na who 0
          let l : L1Line := ⟨mergeLine x data mask, mask, pteTensor e, pteKey e, true, false⟩
          s.modCore core (fun c => { c with l1 := AMap.set c.l1 ln l })
    else
      let s := if ownedBy e core then s.l1Evict core ln else s
      s.modCore core (·.wcPut ln data mask (pteTensor e) (pteKey e) na nt (ownedBy e core) thread s.nextOp who)
  | .pcb | .aperture _ | .unbacked => s

/-- An atomic of a core on `n` bytes of one line, performed in the owner's L1 or at the home (R145): the old value;
`f` gives the new value, or none to write nothing. On a shared line it passes through the write-combining buffer, its
upgrade is granted first, and a copy that the writer's die holds takes the line and its timestamps from the home (R289,
R290, R373). -/
def State.coreAtomic (s : State) (core thread pa n : Nat) (e : DWord) (f : Nat → Option Nat) (who : Option Bool) :
    Nat × State :=
  let ln := lineNo pa
  let off := pa % 128
  let d := dieOfCore core
  match placeOf pa with
  | .ws w =>
    let old := leNat (s.rawBytes (pa % 2 ^ 46) n)
    let s := (s.needDie w).pmc core 0x17 n who
    (old, match f old with
      | some v => s.coreStore core thread pa (leBytes v n) e false false who
      | none => s)
  | .hbm h =>
    if ownedBy e core then
      let (x, s) := s.ownLine core ln e false who n
      let old := leNat (lineSlice x off n)
      (old, match f old with
        | some v => s.coreStore core thread pa (leBytes v n) e false false who
        | none => s)
    else
      let s := (s.wcSendLine core ln).wcMakeRoom core ln
      let up : Option (Nat × Option Bool) := if h = d then some (core, who) else none
      let s := (if h = d then s else s.ackLine d ln).dirWrite h ln up
      let (x, missed, s) := s.homeLoad h ln (pteKey e) (pteTensor e) (pteNa e) (some core)
      let s := s.pmc core (if h = d then (if missed then 0x16 else 0x12) else 0x14) n who
      let old := leNat (lineSlice x off n)
      (old, match f old with
        | some v =>
          let data := lineAt off (leBytes v n)
          let s := (s.modCore core (·.mergeL1 ln data (maskAt off n) (pteTensor e) (pteKey e))).homeStore h ln data
            (maskAt off n) (pteTensor e) (pteKey e) (pteNa e) (some core) up
          if h = d then s else s.refreshCopy d h ln
        | none => s)
  | .pcb | .aperture _ | .unbacked => (0, s)

/-! ### Accesses of engines, the host and the part's own agents -/

/-- An engine's read of bytes of one line, on behalf of a core (R372). -/
def State.engineRead (s : State) (core pa n : Nat) (e : DWord) (na0 : Bool) : List Byte × State :=
  let ln := lineNo pa
  let off := pa % 128
  let d := dieOfCore core
  let na := na0 || pteNa e
  match placeOf pa with
  | .ws w => (s.rawBytes (pa % 2 ^ 46) n, (s.needDie w).pmc core 0x17 n none)
  | .hbm h =>
    if h = d then
      let (x, missed, s) := s.homeLoad d ln (pteKey e) (pteTensor e) na (some core)
      (lineSlice x off n, s.pmc core (if missed then 0x16 else 0x12) n none)
    else
      let (x, ev, s) := s.leaseLoad d h ln core (pteKey e) (pteTensor e) na
      (lineSlice x off n, s.pmc core ev n none)
  | .pcb | .aperture _ | .unbacked => (List.replicate n 0#8, s)

/-- An engine's write of bytes of one line, on behalf of a core's thread. -/
def State.engineWrite (s : State) (core thread pa : Nat) (bs : List Byte) (e : DWord) (na0 : Bool) : State :=
  let ln := lineNo pa
  let off := pa % 128
  let d := dieOfCore core
  match placeOf pa with
  | .ws w => (s.needDie w).rawPut (pa % 2 ^ 46) bs
  | .hbm h =>
    let data := lineAt off bs
    let mask := maskAt off bs.length
    if h = d then
      s.homeStore d ln data mask (pteTensor e) (pteKey e) (na0 || pteNa e) (some core) none
    else s.forwardStore d h ln core thread data mask (pteTensor e) (pteKey e) (na0 || pteNa e) s.nextOp
  | .pcb | .aperture _ | .unbacked => s

/-- Write back and invalidate a line in every L1 that holds it as its owner's. -/
def State.flushOwned (s : State) (ln : Nat) : State := s.l1FlushIf (fun k l => k == ln && l.owned)

/-- The key under which an agent accesses a line: that of the leaf it went through, else that of the cached line, else
slot 0 (R284): an access by physical address names no slot. -/
def State.lineKey (s : State) (ln : Nat) (k : Option (BitVec 8)) : BitVec 8 :=
  match k with
  | some k => k
  | none =>
    match homeDie (128 * ln) with
    | some h => match s.l2 h ln with
      | some l => l.key
      | none => 0#8
    | none => 0#8

/-- Bytes of one line read at the home, coherently, by an agent without a core (walker, dispatcher, boot processor,
another device). -/
def State.partRead1 (s : State) (key : Option (BitVec 8)) (pa n : Nat) : List Byte × State :=
  let ln := lineNo pa
  match placeOf pa with
  | .ws w => (s.rawBytes (pa % 2 ^ 46) n, s.needDie w)
  | .hbm h =>
    let s := s.flushOwned ln
    let (x, _, s) := s.homeLoad h ln (s.lineKey ln key) 0#6 true none
    (lineSlice x (pa % 128) n, s)
  | .pcb | .aperture _ | .unbacked => (List.replicate n 0#8, s)

/-- Bytes of one line written at the home by an agent without a core. -/
def State.partWrite1 (s : State) (key : Option (BitVec 8)) (pa : Nat) (bs : List Byte) : State :=
  let ln := lineNo pa
  match placeOf pa with
  | .ws w => (s.needDie w).rawPut (pa % 2 ^ 46) bs
  | .hbm h =>
    let s := s.flushOwned ln
    let tensor := match s.l2 h ln with
      | some l => l.tensor
      | none => 0#6
    s.homeStore h ln (lineAt (pa % 128) bs) (maskAt (pa % 128) bs.length) tensor (s.lineKey ln key) false none none
  | .pcb | .aperture _ | .unbacked => s

/-- Physical bytes read by an agent without a core, line by line; the fuel counts lines. -/
def State.partReadN (s : State) (key : Option (BitVec 8)) (pa n : Nat) : Nat → List Byte × State
  | 0 => ([], s)
  | k + 1 =>
    let m := min n (128 - pa % 128)
    let (a, s) := s.partRead1 key pa m
    let (b, s) := if n ≤ m then ([], s) else s.partReadN key (pa + m) (n - m) k
    (a ++ b, s)

/-- Bytes read through a leaf. -/
def State.partReadKey (s : State) (key : Option (BitVec 8)) (pa n : Nat) : List Byte × State :=
  s.partReadN key pa n (n / 128 + 2)

/-- Bytes read by physical address. -/
def State.partRead (s : State) (pa n : Nat) : List Byte × State := s.partReadKey none pa n

/-- Physical bytes written by an agent without a core, line by line; the fuel counts lines. -/
def State.partWriteN (s : State) (key : Option (BitVec 8)) (pa : Nat) (bs : List Byte) : Nat → State
  | 0 => s
  | k + 1 =>
    let m := 128 - pa % 128
    let s := s.partWrite1 key pa (bs.take m)
    if bs.length ≤ m then s else s.partWriteN key (pa + m) (bs.drop m) k

/-- Bytes written through a leaf. -/
def State.partWriteKey (s : State) (key : Option (BitVec 8)) (pa : Nat) (bs : List Byte) : State :=
  if bs = [] then s else s.partWriteN key pa bs (bs.length / 128 + 2)

/-- Bytes written by physical address. -/
def State.partWrite (s : State) (pa : Nat) (bs : List Byte) : State := s.partWriteKey none pa bs

/-! ### Maintenance (R146) -/

/-- The cores of a die whose L1s the state lists. -/
def State.coresOfDie (s : State) (d : Nat) : List Nat := (AMap.keys s.cores).filter (fun c => dieOfCore c == d)

/-- A maintenance operation acts on a copy of a line: the line form on every copy, the `.t` form on a copy with its tag. -/
def tagMatches (tag : Option (BitVec 6)) (x : BitVec 6) : Bool := tag.all (· == x)

/-- A core's L1 holds a copy of a line that a maintenance operation acts on. -/
def State.l1Matches (s : State) (tag : Option (BitVec 6)) (c ln : Nat) : Bool :=
  (AMap.get? (s.core c).l1 ln).any (fun l => tagMatches tag l.tensor)

/-- CLEAN of a line on a die: dirty data goes to memory, lines stay valid. -/
def State.cleanLine (tag : Option (BitVec 6)) (s : State) (d ln : Nat) : State :=
  let s := (s.coresOfDie d).foldl (fun s c => if s.l1Matches tag c ln then s.l1Clean c ln else s) (s.needDie d)
  match s.l2 d ln with
  | some l =>
    if l.lease || !tagMatches tag l.tensor then s
    else (s.hbmWrite ln l.key l.data l.dirty).setL2 d ln { l with dirty := 0#2 }
  | none => s

/-- Drop a line in every L1 of a die whose copy is acted on, without writing back. -/
def State.dropL1 (tag : Option (BitVec 6)) (s : State) (d ln : Nat) : State :=
  (s.coresOfDie d).foldl (fun s c =>
    if s.l1Matches tag c ln then s.modCore c (fun x => { x with l1 := AMap.erase x.l1 ln }) else s) s

/-- The L2 of a die holds a copy of a line that a maintenance operation acts on. -/
def State.l2Matches (s : State) (tag : Option (BitVec 6)) (d ln : Nat) : Bool :=
  (s.l2 d ln).any (fun l => tagMatches tag l.tensor)

/-- INVAL of a line on a die: written back, then invalidated. -/
def State.invalLine (tag : Option (BitVec 6)) (s : State) (d ln : Nat) : State :=
  let s := s.cleanLine tag d ln
  let s := s.dropL1 tag d ln
  if s.l2Matches tag d ln then (if s.held d ln then s.ackLine d ln else s).l2Evict d ln else s

/-- DISCARD of a line on a die: of each sector the part keeps the value before or the value last written back. The `.t` form
leaves a copy with another tag as it is, in an L1 as in L2 (R279). -/
def State.discardLine (tag : Option (BitVec 6)) (s : State) (d ln : Nat) : State :=
  let s := s.needDie d
  let home := s.l2Matches tag d ln
  let s := if home && s.held d ln then s.ackLine d ln else s
  let (k0, s) := s.choose 2
  let (k1, s) := s.choose 2
  let keep : BitVec 128 :=
    (if k0 = 1 then BitVec.ofNat 128 (2 ^ 64 - 1) else 0#128) |||
    (if k1 = 1 then BitVec.ofNat 128 ((2 ^ 64 - 1) * 2 ^ 64) else 0#128)
  let s := (s.coresOfDie d).foldl (fun s c =>
    if s.l1Matches tag c ln then
      (s.modCore c (fun x => { x with l1 := x.l1.map (fun p =>
        if p.1 = ln then (p.1, { p.2 with dirty := p.2.dirty &&& keep }) else p) })).l1Clean c ln
    else s) s
  let s := s.dropL1 tag d ln
  match s.l2 d ln with
  | some l => if home then (s.setL2 d ln { l with dirty := l.dirty &&& maskSectors keep }).l2Evict d ln else s
  | none => s

/-- The lines of a die of which a copy, in an L1 or in L2, carries a tensor tag (R279). -/
def State.taggedLines (s : State) (d : Nat) (tag : BitVec 6) : List Nat :=
  ((s.coresOfDie d).flatMap (fun c => (s.core c).l1In (fun _ l => l.tensor == tag)) ++
    ((s.die d).l2.filter (fun p => p.2.tensor == tag)).map (·.1)).eraseDups

end Sys2Proof.Machine
end

