-- ==== Sys2Proof/Machine/Translate.lean ====
section
/-! DEFINITION. Address translation: buffers, the walk, permission checks and page classification (R280-R288, R299,
R370, R377, R383). -/
namespace Sys2Proof.Machine

/-- A translation buffer (R299): of a core's fetches, of a core's data, of a cluster's copies or matrix loads. -/
inductive Buf where
  | fetch (core : Nat)
  | data (core : Nat)
  | copy (cluster : Nat)
  | matrix (cluster : Nat)
  deriving DecidableEq, Repr

/-- An access to translate. -/
structure Req where
  va : DWord
  kind : Access
  /-- a CLEAN, which takes no weight-store check -/
  clean : Bool
  sup : Bool
  /-- bytes -/
  size : Nat
  atomic : Bool
  /-- the core it is made for -/
  core : Nat
  /-- made by an engine, the host or the part, not by a thread of the core -/
  eng : Bool
  /-- the access classifies the page (R286) -/
  classify : Bool
  deriving DecidableEq, Repr

/-- What a translation answers: an entry, its level and the physical address; a fault (R283); the walk parks on an
entry under migration; the access waits for a die to enter service (R389). -/
inductive Xl where
  | ok (e : DWord) (level : Nat) (pa : Nat)
  | fault (c : Code) (level : Nat) (e : DWord)
  | mig
  | wait
  deriving DecidableEq, Repr

/-- The throughput core that a page may become private to by this access (R286). -/
def Req.owner (q : Req) : Option Nat := if q.eng || isLC q.core then none else some q.core

/-- The privilege its events count under (R309). -/
def Req.who (q : Req) : Option Bool := if q.eng then none else some q.sup

/-! ### Buffers -/

/-- The entries of a buffer; a latency core has one buffer for its fetches and data. -/
def State.buf (s : State) (b : Buf) : List TlbEntry :=
  match b with
  | .fetch c => if isLC c then (s.core c).vtlb else (s.core c).itlb
  | .data c => (s.core c).vtlb
  | .copy c => (s.cluster c).ctlb
  | .matrix c => (s.cluster c).mtlb

/-- Replace the entries of a buffer. -/
def State.setBuf (s : State) (b : Buf) (l : List TlbEntry) : State :=
  match b with
  | .fetch c => s.modCore c (fun x => if isLC c then { x with vtlb := l } else { x with itlb := l })
  | .data c => s.modCore c (fun x => { x with vtlb := l })
  | .copy c => s.modCluster c (fun x => { x with ctlb := l })
  | .matrix c => s.modCluster c (fun x => { x with mtlb := l })

/-- Entries of a buffer (R299). -/
def Buf.capacity (b : Buf) : Nat :=
  match b with
  | .fetch c => if isLC c then 128 else 64
  | .data c => if isLC c then 128 else 256
  | .copy _ => 128
  | .matrix _ => 64

/-- A buffer that replaces first in, first out; the others replace the least recently used. -/
def Buf.fifo (b : Buf) : Bool :=
  match b with
  | .matrix _ => true
  | .fetch _ | .data _ | .copy _ => false

/-- An entry translates an address. -/
def TlbEntry.covers (x : TlbEntry) (va : DWord) : Bool := va.toNat - va.toNat % leafSize x.level == x.base

/-- The entry that translates an address. -/
def tlbFind (l : List TlbEntry) (va : DWord) : Option TlbEntry := l.find? (·.covers va)

/-- The physical address that a leaf gives. -/
def leafPa (e : DWord) (level : Nat) (va : DWord) : Nat := pteFrame e + va.toNat % leafSize level

/-- A buffer whose replacement is pseudo-LRU (R299). -/
def Buf.pseudo (b : Buf) : Bool :=
  match b with
  | .fetch c => !isLC c
  | .data _ | .copy _ | .matrix _ => false

/-- A translation enters a buffer, in place of one that covers the same addresses. A full pseudo-LRU buffer gives up any
entry but the most recently used, as the part chooses. DESIGN CHOICE. -/
def State.fillBuf (s : State) (b : Buf) (va e : DWord) (level : Nat) : State :=
  let x : TlbEntry := ⟨va.toNat - va.toNat % leafSize level, level, e⟩
  let rest := (s.buf b).filter (fun y => !y.covers va)
  if b.pseudo && decide (b.capacity ≤ rest.length) then
    let (k, s) := s.choose (b.capacity - 1)
    s.setBuf b (x :: rest.eraseIdx (k + 1))
  else s.setBuf b ((x :: rest).take b.capacity)

/-- An entry of a buffer is used. -/
def State.useBuf (s : State) (b : Buf) (x : TlbEntry) : State :=
  if b.fifo || (s.buf b).head? = some x then s else s.setBuf b (x :: (s.buf b).erase x)

/-- Drop entries in every buffer of the package. -/
def State.dropTlb (s : State) (p : TlbEntry → Bool) : State :=
  { s with
    landings := s.landings.map (fun l => { l with again := none })
    cores := s.cores.map (fun c =>
      (c.1, { c.2 with itlb := c.2.itlb.filter (fun x => !p x), vtlb := c.2.vtlb.filter (fun x => !p x) }))
    clusters := s.clusters.map (fun c =>
      (c.1, { c.2 with ctlb := c.2.ctlb.filter (fun x => !p x), mtlb := c.2.mtlb.filter (fun x => !p x) })) }

/-- The level of the leaf by which a buffer translates an address: where a fault that the page gives rise to is
reported (R304). -/
def State.hitLevel (s : State) (b : Buf) (va : DWord) : Nat := ((tlbFind (s.buf b) va).map (·.level)).getD 3

/-- The level of the leaf of a thread's data access. -/
def State.dataLevel (s : State) (t : Nat) (va : DWord) : Nat := s.hitLevel (.data (coreOfThread t)) va

/-! ### Checks at a leaf -/

/-- The APERTURE entry of an aperture (R383). -/
def State.aperture (s : State) (n : Nat) : DWord := AMap.getD s.pcb.apertures n 0#64

/-- Whether an access may reach a physical address (R370, R377, R383). -/
def State.paAllowed (s : State) (q : Req) (e : DWord) (pa : Nat) : Bool :=
  match placeOf pa with
  | .unbacked => false
  | .hbm _ | .ws _ => s.backed pa
  | .aperture n =>
    (s.aperture n).getLsbD 63 && bits (s.aperture n).toNat 16 13 != s.device.toNat && q.kind != .fetch
  | .pcb => pteSup e && !q.atomic && q.kind != .fetch && (q.size == 4 || q.size == 8)

/-- The fill window of the die that holds a weight-store page is open (R297). -/
def State.windowOpen (s : State) (pa : Nat) : Bool :=
  match placeOf pa with
  | .ws d => (s.die d).window == .open
  | .hbm _ | .pcb | .aperture _ | .unbacked => false

/-- The checks of R283 after the walk, in its order; WS_READONLY comes last (R140). -/
def State.leafCheck (s : State) (q : Req) (e : DWord) (level : Nat) : Option Code :=
  let pa := leafPa e level q.va
  if pteSup e && !q.sup then some .protection
  else if q.kind = .write ∧ pteWr e = false then some .protection
  else if q.kind = .fetch ∧ pteNx e then some .protection
  else if s.paAllowed q e pa = false then some .protection
  else if q.kind = .write ∧ pteWs e ∧ q.clean = false ∧ s.windowOpen pa = false then some .wsReadonly
  else none

/-! ### Classification -/

/-- An entry whose classification an access may use as it stands (R286); the pages of an aperture have none (R399). -/
def Req.classed (q : Req) (e : DWord) : Bool :=
  !q.classify || pteWs e || inAperture (pteFrame e) || pteCl e == 2 || (pteCl e == 1 && q.owner == some (pteOwner e))

/-- Reclassification of a private page (R287): the owner's stores are performed and its lines go home, the entry is
rewritten, every buffer drops its entries for the page. -/
def State.reclassify (s : State) (q : Req) (e : DWord) (level at_ : Nat) : DWord × State :=
  let o := pteOwner e
  let inPage (ln : Nat) : Bool := decide (pteFrame e ≤ 128 * ln) && decide (128 * ln < pteFrame e + leafSize level)
  let s := s.wcSendIf o (fun w => inPage w.line)
  let s := ((s.core o).l1In (fun ln _ => inPage ln)).foldl (fun s ln => s.l1Evict o ln) s
  let e' := pteClassed e 2 0
  let s := (s.partWrite at_ (leBytes e'.toNat 8)).dropTlb (fun x => x.level == level && x.covers q.va)
  (e', s.pmc q.core 0x19 1 q.who)

/-- Classification in the walk (R286); `at_` is the entry's address. -/
def State.classify (s : State) (q : Req) (e : DWord) (level at_ : Nat) : DWord × State :=
  if q.classed e then (e, s)
  else if pteCl e = 1 then s.reclassify q e level at_
  else
    let e' := match q.owner with
      | some c => pteClassed e 1 c
      | none => pteClassed e 2 0
    (e', s.partWrite at_ (leBytes e'.toNat 8))

/-! ### The walk (R283) -/

/-- The walk from a node of a level; `via` is the entry that named the node. The fuel counts levels. -/
def State.walkAt (s : State) (q : Req) (node level : Nat) (via : DWord) : Nat → Xl × State
  | 0 => (.fault .protection level via, s)
  | k + 1 =>
    match placeOf node with
    | .aperture _ => (.fault .tableRemote level via, s)
    | .pcb | .unbacked => (.fault .protection level via, s)
    | .hbm _ | .ws _ =>
      if s.awaitsDie node then (.wait, s)
      else if !s.backed node then (.fault .protection level via, s)
      else
        let a := node + 8 * nodeIndex q.va level
        let (bs, s) := s.partRead a 8
        let e : DWord := BitVec.ofNat 64 (leNat bs)
        if !pteP e then
          if pteMig e then (.mig, s)
          else (.fault (if level = 3 then .pageNotPresent else .tableNotPresent) level e, s)
        else if s.pteMalformed e level then (.fault .protection level e, s)
        else if pteLeaf e then
          match s.leafCheck q e level with
          | some c => (.fault c level e, s)
          | none =>
            if s.awaitsDie (leafPa e level q.va) then (.wait, s)
            else
              let (e, s) := s.classify q e level a
              (.ok e level (leafPa e level q.va), s)
        else s.walkAt q (pteFrame e) (level + 1) e k

/-- The walk from the root; without a root every walk faults at level 1 (R280). -/
def State.walk (s : State) (q : Req) : Xl × State :=
  match s.root with
  | none => (.fault .tableNotPresent 1 0#64, s)
  | some r => s.walkAt q r 1 0#64 3

/-- A walk whose translation enters a buffer; a walk that faults leaves nothing there (R299). -/
def State.walkFill (s : State) (b : Buf) (q : Req) : Xl × State :=
  match s.walk q with
  | (.ok e level pa, s) => (.ok e level pa, s.fillBuf b q.va e level)
  | (r, s) => (r, s)

/-- Translation by a buffer alone: none is a miss, or an entry that has to be classified. -/
def State.xlateHit (s : State) (b : Buf) (q : Req) : Option Xl × State :=
  match tlbFind (s.buf b) q.va with
  | none => (none, s)
  | some x =>
    if !q.classed x.entry then (none, s)
    else
      match s.leafCheck q x.entry x.level with
      | some c => (some (.fault c x.level x.entry), s)
      | none =>
        if s.awaitsDie (leafPa x.entry x.level q.va) then (some .wait, s)
        else (some (.ok x.entry x.level (leafPa x.entry x.level q.va)), s.useBuf b x)

/-- Translation by a buffer, walking at once on a miss. -/
def State.xlate (s : State) (b : Buf) (q : Req) : Xl × State :=
  match s.xlateHit b q with
  | (some r, s) => (r, s)
  | (none, s) => ((s.pmc q.core 0x20 1 q.who).pmc q.core 0x21 1 q.who).walkFill b q

/-! ### Virtual accesses by the part on behalf of a thread -/

/-- A thread's data access. -/
def dataReq (core : Nat) (va : DWord) (kind : Access) (size : Nat) (sup : Bool) : Req :=
  ⟨va, kind, false, sup, size, false, core, false, true⟩

/-- A thread's fetch of a word. -/
def fetchReq (core : Nat) (va : DWord) (sup : Bool) : Req := ⟨va, .fetch, false, sup, 12, false, core, false, true⟩

/-- Bytes of a page read for a fetch: from the home, with what the core's own buffer holds over them. -/
def State.fetchLine (s : State) (core pa n : Nat) (e : DWord) : List Byte × State :=
  let ln := lineNo pa
  match placeOf pa with
  | .ws w => (s.rawBytes (pa % 2 ^ 46) n, s.needDie w)
  | .hbm h =>
    let s := s.flushOwned ln
    let (x, _, s) := s.homeLoad h ln (pteKey e) (pteTensor e) true none
    (lineSlice ((s.core core).wcOverlay ln x) (pa % 128) n, s)
  | .pcb | .aperture _ | .unbacked => (List.replicate n 0#8, s)

/-- Pieces of words that an instruction cache of 64 KiB holds (R2). -/
def icachePieces : Nat := 65536 / 12

/-- A piece of a word through the core's instruction cache (R2). Where the cache holds the piece with other bytes than memory
has, the spec says not which of the two is fetched: the part chooses. DESIGN CHOICE. -/
def State.fetchCached (s : State) (core pa : Nat) (bs : List Byte) : List Byte × State :=
  let held := (s.core core).icache.find? (fun p => p.1 == pa && p.2.length == bs.length)
  if 1024 ≤ core ∨ held = some (pa, bs) then (bs, s)
  else
    let (bs, s) := match held with
      | some h =>
        let (k, s) := s.choose 2
        (if k = 0 then bs else h.2, s)
      | none => (bs, s)
    (bs, s.modCore core (fun c =>
      let l := c.icache.filter (fun p => p.1 != pa) ++ [(pa, bs)]
      { c with icache := l.drop (l.length - icachePieces) }))

/-- The bytes of a word within a page, in at most two lines. -/
def State.fetchIn (s : State) (core pa n : Nat) (e : DWord) : List Byte × State :=
  let m := min n (128 - pa % 128)
  let (a, s) := s.fetchLine core pa m e
  let (b, s) := if m < n then s.fetchLine core (pa + m) (n - m) e else ([], s)
  s.fetchCached core pa (a ++ b)

/-- How a fetch ends: the 96 bits, a translation that did not succeed (with the address that failed), or a miss that
the walker has to serve. -/
inductive Fetched where
  | word (w : BitVec 96)
  | fails (va : DWord) (r : Xl)
  | miss (va : DWord)
  deriving DecidableEq, Repr

/-- A fetch translation: at once with a walk, or by the buffer alone. -/
def State.xlateFetch (s : State) (inline : Bool) (q : Req) : Option Xl × State :=
  if inline then
    let (r, s) := s.xlate (.fetch q.core) q
    (some r, s)
  else s.xlateHit (.fetch q.core) q

/-- Fetch the 96 bits at a PC (R11, R33 check 1). A word that crosses a page takes both translations. -/
def State.fetchWord (s : State) (inline : Bool) (core : Nat) (pc : DWord) (sup : Bool) : Fetched × State :=
  match s.xlateFetch inline (fetchReq core pc sup) with
  | (some (.ok e _ pa), s) =>
    let m := min 12 (65536 - pc.toNat % 65536)
    let (a, s) := s.fetchIn core pa m e
    if m = 12 then (.word (BitVec.ofNat 96 (leNat a)), s)
    else
      let pc' := pc + BitVec.ofNat 64 m
      match s.xlateFetch inline (fetchReq core pc' sup) with
      | (some (.ok e' _ pa'), s) =>
        let (b, s) := s.fetchIn core pa' (12 - m) e'
        (.word (BitVec.ofNat 96 (leNat (a ++ b))), s)
      | (some r, s) => (.fails pc' r, s)
      | (none, s) => (.miss pc', s)
  | (some r, s) => (.fails pc r, s)
  | (none, s) => (.miss pc, s)

end Sys2Proof.Machine
end

