-- ==== Sys2Proof/Machine/Boundary.lean ====
section
/-! DEFINITION. The boundaries of a thread's words at which a stop or a halt may act (R25, R172, R177). -/
namespace Sys2Proof

/-- An operand field of a word names a latch (R25): the encoding alone counts, whatever the word decodes to. Entry words and
literal words have no operand fields. -/
def wordNamesLatch (w : BitVec 96) : Bool :=
  let f := Fields.ofNat w.toNat
  let latch (x : BitVec 10) : Bool := decide (0x200 ≤ x.toNat) && decide (x.toNat < 0x204)
  decide (f.opc.toNat < 0xFFE) && (latch f.a || latch f.b || latch f.c)

/-- The latches that an instruction names in its operand fields (R25). -/
def Instr.latchesRead (i : Instr) : List Nat :=
  match i.opnds with
  | some o => [o.a, o.b, o.c].filterMap (fun x => match x with
      | .latch n => some n.toNat
      | .gpr _ | .const _ | .pred _ | .sreg _ | .small _ | .imm | .litLo _ | .litHi _ | .lit _ => none)
  | none => []

/-- An instruction of classes 0x7 to 0xD: a release, or an access of an engine, that stands behind the thread's earlier
acquires (R148, R193, R216, R253, R261). -/
def Instr.behindAcquires (i : Instr) : Bool := i.opcM.any (fun p => decide (7 ≤ p.1 / 256))

/-- A plain load, store or atomic: neither an acquire nor a release (R148). -/
def Instr.plainAccess (i : Instr) : Bool :=
  match i with
  | .ld m _ | .st m _ | .atom _ m _ | .cas m _ => m.order == .rlx
  | _ => false

/-- An access that stands behind what its core has sent to the banks of the scratchpad: all of classes 0x5 to 0xD but the
plain ones. -/
def Instr.settles (i : Instr) : Bool := i.opcM.any (fun p => decide (5 ≤ p.1 / 256)) && !i.plainAccess

/-- An access that stands behind the thread's earlier loads: all of classes 0x5 to 0xD but plain loads, accesses of the
scratchpad that are plain, and SHIP. -/
def Instr.fixes (i : Instr) : Bool :=
  i.opcM.any (fun p => decide (5 ≤ p.1 / 256)) &&
    (match i with
     | .ld m _ => m.order != .rlx
     | .st m _ | .atom _ m _ | .cas m _ => m.order != .rlx || !m.sp
     | .shipW _ _ | .shipT _ _ => false
     | _ => true)

end Sys2Proof

namespace Sys2Proof.Machine

/-- What the checks of R33 need of a thread. -/
def Thread.ctx (th : Thread) (t : Nat) : DecodeCtx := ⟨th.sup, threadOnLC t, th.budget⟩

/-- The boundary before the thread's next word is no pre-emption point: the word's encoding names a latch, and fewer than
eight in a row have (R25). -/
def State.midRun (s : State) (t : Nat) (th : Thread) : Bool :=
  decide (th.latchRun < 8) &&
    (match (s.fetchWord true (coreOfThread t) th.pc th.sup).1 with
     | .word w => wordNamesLatch w
     | .fails _ _ | .miss _ => false)

/-- A thread's family is being stopped (R172). -/
def State.stopping (s : State) (t : Nat) : Bool := (s.groupOf t).any (fun g => g.stop != .running)

/-- Issue is stopped on a thread's core: by HALT, or for temperature (R177, R384). -/
def State.issueStopped (s : State) (t : Nat) : Bool :=
  (s.core (coreOfThread t)).halted || (s.pcb.crit && !threadOnLC t)

/-- A stop of its family, a halt of its core or CRIT has stopped a thread that could go on, at a boundary that R25 allows: a
suspension (R23, R384). -/
def State.heldStill (s : State) (t : Nat) (th : Thread) : Bool :=
  (th.status == .ready || th.status == .walking) && (s.stopping t || s.issueStopped t) && !s.midRun t th

/-- A thread whose core issues again: a withdrawn signer is at its instruction again, latches invalid, whatever its word
reads (R200); what the stop has stopped has lost its latches; a thread still in a run of latch readers was never stopped
(R23, R25, R177). -/
def State.unhalt (s : State) (t : Nat) : State :=
  match s.thread? t with
  | none => s
  | some th =>
    if th.status = .withdrawn ∧ s.stopping t = false then s.modThread t Thread.resume
    else if s.midRun t th then s
    else s.modThread t Thread.clearLatches

end Sys2Proof.Machine
end

