-- ==== Sys2Proof/Machine/Flags.lean ====
section
/-! DEFINITION. Number formats and their rounding: integer fitting (R56, R81), IEEE formats (R57-R60), tapered formats
(R61-R66), E8 (R67), rounding modes (R68, R69), the LFSR (R70), and the exact arithmetic they round. The part keeps no
flags (R95): carries, borrows and comparisons are results of their own. -/
namespace Sys2Proof.Machine

/-! ### Integers -/

/-- The least value of a type of width `w` (R56). -/
def intLo (w : Nat) (signed : Bool) : Int := if signed then -(2 ^ (w - 1) : Nat) else 0

/-- The greatest value of a type of width `w` (R56). -/
def intHi (w : Nat) (signed : Bool) : Int := if signed then (2 ^ (w - 1) : Nat) - 1 else (2 ^ w : Nat) - 1

/-- A value clamped to a type. -/
def clampInt (w : Nat) (signed : Bool) (v : Int) : Int := min (max v (intLo w signed)) (intHi w signed)

/-- `fit` (R81): clamped under SAT, then modulo 2^w. -/
def fit (w : Nat) (signed sat : Bool) (v : Int) : BitVec w :=
  BitVec.ofInt w (if sat then clampInt w signed v else v)

/-- A bit pattern read as an exact integer. -/
def asInt {w : Nat} (signed : Bool) (x : BitVec w) : Int := if signed then x.toInt else x.toNat

/-! ### Exact values -/

/-- An exact real, or one just above `m * 2^e` by less than 2^e where `sticky`; NaN; an infinity. -/
inductive Ex where
  | nan
  | inf (neg : Bool)
  | fin (neg : Bool) (m : Nat) (e : Int) (sticky : Bool)
  deriving DecidableEq, Repr

/-- An IEEE format: exponent width and precision with the hidden bit (R57). -/
structure FFmt where
  ew : Nat
  p : Nat
  deriving DecidableEq, Repr

/-- binary16. -/
def fF16 : FFmt := ⟨5, 11⟩
/-- BF16. -/
def fBf16 : FFmt := ⟨8, 8⟩
/-- binary32. -/
def fF32 : FFmt := ⟨8, 24⟩
/-- binary64. -/
def fF64 : FFmt := ⟨11, 53⟩

/-- Exponent bias, also the largest exponent. -/
def FFmt.bias (f : FFmt) : Nat := 2 ^ (f.ew - 1) - 1
/-- The least exponent of a normal value. -/
def FFmt.emin (f : FFmt) : Int := 1 - (f.bias : Int)
/-- Bits of the format. -/
def FFmt.width (f : FFmt) : Nat := f.ew + f.p
/-- The all-ones exponent field. -/
def FFmt.emax (f : FFmt) : Nat := 2 ^ f.ew - 1
/-- The sign bit. -/
def FFmt.signBit (f : FFmt) (neg : Bool) : Nat := if neg then 2 ^ (f.width - 1) else 0
/-- An infinity. -/
def FFmt.inf (f : FFmt) (neg : Bool) : Nat := f.signBit neg + f.emax * 2 ^ (f.p - 1)
/-- The canonical NaN (R58). -/
def FFmt.nan (f : FFmt) : Nat := f.emax * 2 ^ (f.p - 1) + 2 ^ (f.p - 2)
/-- The largest finite value. -/
def FFmt.maxFin (f : FFmt) (neg : Bool) : Nat := f.signBit neg + f.emax * 2 ^ (f.p - 1) - 1

/-- The value of a bit pattern (R57). -/
def FFmt.decode (f : FFmt) (x0 : Nat) : Ex :=
  let x := x0 % 2 ^ f.width
  let neg := decide (2 ^ (f.width - 1) ≤ x)
  let ex := bits x (f.p - 1) f.ew
  let fr := bits x 0 (f.p - 1)
  if ex = f.emax then (if fr = 0 then .inf neg else .nan)
  else if ex = 0 then .fin neg fr (f.emin - (f.p - 1 : Nat)) false
  else .fin neg (fr + 2 ^ (f.p - 1)) ((ex : Int) - (f.bias : Int) - ((f.p - 1 : Nat) : Int)) false
where
  /-- A bit field. -/
  bits (x lo n : Nat) : Nat := x / 2 ^ lo % 2 ^ n

/-- Whether a bit pattern is a nonzero subnormal. -/
def FFmt.isSub (f : FFmt) (x : Nat) : Bool := x / 2 ^ (f.p - 1) % 2 ^ f.ew == 0 && x % 2 ^ (f.p - 1) != 0

/-- `.ftz` on a bit pattern (R59). -/
def FFmt.flush (f : FFmt) (ftz : Bool) (x : Nat) : Nat :=
  if ftz && f.isSub x then f.signBit (decide (2 ^ (f.width - 1) ≤ x % 2 ^ f.width)) else x

/-! ### Rounding (R68, R69) -/

/-- Whether a magnitude cut to `n` units, with remainder `rem` of `2^shift` and `sticky` below, rounds up. -/
def roundsUp (r : Rnd) (neg : Bool) (n rem shift : Nat) (sticky : Bool) : Bool :=
  match r with
  | .rn =>
    if shift = 0 then false
    else
      let half := 2 ^ (shift - 1)
      decide (half < rem) || (rem == half && (sticky || n % 2 == 1))
  | .rz | .rs => false
  | .ru => !neg && (rem != 0 || sticky)
  | .rd => neg && (rem != 0 || sticky)

/-- What an overflow gives (R68). -/
def FFmt.overflow (f : FFmt) (r : Rnd) (neg : Bool) : Nat :=
  match r with
  | .rn | .rs => f.inf neg
  | .rz => f.maxFin neg
  | .ru => if neg then f.maxFin neg else f.inf neg
  | .rd => if neg then f.inf neg else f.maxFin neg

/-- A finite value, not zero, rounded to a format; `draw` is the LFSR's draw for `.rs`. -/
def FFmt.roundFin (f : FFmt) (r : Rnd) (draw : Nat) (neg : Bool) (m0 : Nat) (e0 : Int) (st0 : Bool) : Nat :=
  let lq : Int := max ((Nat.log2 m0 : Int) + e0) f.emin - ((f.p - 1 : Nat) : Int)
  let (m, e, st) := if (Nat.log2 m0 : Int) + e0 < lq - 40 then (1, lq - 40, true) else (m0, e0, st0)
  -- the unit of m is made at least 16 bits finer than the spacing
  let up := (e - (lq - 16)).toNat
  let m := m * 2 ^ up
  let e := e - up
  let shift := (lq - e).toNat
  let m := match r with
    | .rs => m + draw * 2 ^ (shift - 16)
    | .rn | .rz | .ru | .rd => m
  let n := m / 2 ^ shift
  let n := if roundsUp r neg n (m % 2 ^ shift) shift st then n + 1 else n
  let (n, lq) := if 2 ^ f.p ≤ n then (n / 2, lq + 1) else (n, lq)
  if (f.bias : Int) < lq + ((f.p - 1 : Nat) : Int) ∧ 2 ^ (f.p - 1) ≤ n then f.overflow r neg
  else if n < 2 ^ (f.p - 1) then f.signBit neg + n
  else f.signBit neg + (lq + ((f.p - 1 : Nat) : Int) + (f.bias : Int)).toNat * 2 ^ (f.p - 1) + (n - 2 ^ (f.p - 1))

/-- `round(x, fmt, RND)` (R58, R68, R69). -/
def FFmt.round (f : FFmt) (r : Rnd) (draw : Nat) (x : Ex) : Nat :=
  match x with
  | .nan => f.nan
  | .inf neg => f.inf neg
  | .fin neg m e st => if m = 0 && !st then f.signBit neg else f.roundFin r draw neg m e st

/-! ### Exact arithmetic -/

/-- The sign of a sum's zero (R60). -/
def zeroSign (r : Rnd) (a b : Bool) : Bool := if a = b then a else r == .rd

/-- Exact sum; the mode decides the sign of a zero. -/
def Ex.add (r : Rnd) (a b : Ex) : Ex :=
  match a, b with
  | .nan, _ | _, .nan => .nan
  | .inf x, .inf y => if x = y then .inf x else .nan
  | .inf x, .fin _ _ _ _ => .inf x
  | .fin _ _ _ _, .inf y => .inf y
  | .fin n1 m1 e1 s1, .fin n2 m2 e2 s2 =>
    let e := min e1 e2
    let v1 : Int := (m1 * 2 ^ (e1 - e).toNat : Nat)
    let v2 : Int := (m2 * 2 ^ (e2 - e).toNat : Nat)
    let v := (if n1 then -v1 else v1) + (if n2 then -v2 else v2)
    if v = 0 then .fin (zeroSign r n1 n2) 0 e (s1 || s2) else .fin (decide (v < 0)) v.natAbs e (s1 || s2)

/-- Negation. -/
def Ex.neg : Ex → Ex
  | .nan => .nan
  | .inf n => .inf (!n)
  | .fin n m e s => .fin (!n) m e s

/-- Exact product. -/
def Ex.mul (a b : Ex) : Ex :=
  match a, b with
  | .nan, _ | _, .nan => .nan
  | .inf x, .inf y => .inf (x != y)
  | .inf x, .fin y m _ _ => if m = 0 then .nan else .inf (x != y)
  | .fin x m _ _, .inf y => if m = 0 then .nan else .inf (x != y)
  | .fin n1 m1 e1 s1, .fin n2 m2 e2 s2 => .fin (n1 != n2) (m1 * m2) (e1 + e2) (s1 || s2)

/-- Quotient, to 80 bits and a sticky bit. -/
def Ex.div (a b : Ex) : Ex :=
  match a, b with
  | .nan, _ | _, .nan => .nan
  | .inf _, .inf _ => .nan
  | .inf x, .fin y _ _ _ => .inf (x != y)
  | .fin x _ _ _, .inf y => .fin (x != y) 0 0 false
  | .fin n1 m1 e1 _, .fin n2 m2 e2 _ =>
    if m2 = 0 then (if m1 = 0 then .nan else .inf (n1 != n2))
    else if m1 = 0 then .fin (n1 != n2) 0 0 false
    else
      let k := 80 + Nat.log2 m2
      .fin (n1 != n2) (m1 * 2 ^ k / m2) (e1 - e2 - k) (m1 * 2 ^ k % m2 != 0)

/-- The integer square root of a number below 4^k, bit by bit. -/
def isqrt (n : Nat) : Nat → Nat → Nat
  | 0, r => r
  | k + 1, r =>
    let r' := r + 2 ^ k
    isqrt n k (if r' * r' ≤ n then r' else r)

/-- Square root, to at least 80 bits and a sticky bit. -/
def Ex.sqrt (a : Ex) : Ex :=
  match a with
  | .nan => .nan
  | .inf n => if n then .nan else .inf false
  | .fin n m e _ =>
    if m = 0 then .fin n 0 0 false
    else if n then .nan
    else
      let odd := (e % 2).toNat
      let x := m * 2 ^ odd * 4 ^ 80
      let r := isqrt x (Nat.log2 x / 2 + 1) 0
      .fin false r ((e - odd) / 2 - 80) (r * r != x)

/-- A value times a power of two. -/
def Ex.scale (a : Ex) (k : Int) : Ex :=
  match a with
  | .nan => .nan
  | .inf n => .inf n
  | .fin n m e s => .fin n m (e + k) s

/-- Comparison of two positive magnitudes. -/
def cmpMag (m1 : Nat) (e1 : Int) (m2 : Nat) (e2 : Int) : Ordering :=
  if m1 = 0 ∨ m2 = 0 then compare m1 m2
  else
    let l1 := (Nat.log2 m1 : Int) + e1
    let l2 := (Nat.log2 m2 : Int) + e2
    if l1 < l2 then .lt
    else if l2 < l1 then .gt
    else compare (m1 * 2 ^ (e1 - min e1 e2).toNat) (m2 * 2 ^ (e2 - min e1 e2).toNat)

/-- Comparison of two values that are not NaN; zeros of both signs are equal. -/
def Ex.cmp (a b : Ex) : Ordering :=
  match a, b with
  | .inf x, .inf y => if x = y then .eq else if x then .lt else .gt
  | .inf x, _ => if x then .lt else .gt
  | _, .inf y => if y then .gt else .lt
  | .fin n1 m1 e1 _, .fin n2 m2 e2 _ =>
    if m1 = 0 ∧ m2 = 0 then .eq
    else if m1 = 0 then (if n2 then .gt else .lt)
    else if m2 = 0 then (if n1 then .lt else .gt)
    else if n1 ≠ n2 then (if n1 then .lt else .gt)
    else if n1 then cmpMag m2 e2 m1 e1 else cmpMag m1 e1 m2 e2
  | .nan, _ | _, .nan => .eq

/-- A value is NaN. -/
def Ex.isNan : Ex → Bool
  | .nan => true
  | .inf _ | .fin _ _ _ _ => false

/-- The sign of a value. -/
def Ex.isNeg : Ex → Bool
  | .nan => false
  | .inf n => n
  | .fin n _ _ _ => n

/-- The magnitude rounded to an integer (R100, R107); beyond 2^200 it is cut to 2^200, which every format clamps. -/
def roundIntMag (r : Rnd) (neg : Bool) (m : Nat) (e : Int) (st : Bool) : Nat :=
  if m = 0 then 0
  else if 200 < (Nat.log2 m : Int) + e then 2 ^ 200
  else if 0 ≤ e then m * 2 ^ e.toNat
  else
    let (m, sh, st) := if (Nat.log2 m : Int) + e < -3 then (1, 4, true) else (m, (-e).toNat, st)
    let n := m / 2 ^ sh
    if roundsUp r neg n (m % 2 ^ sh) sh st then n + 1 else n

/-- A floating-point value to an integer type, saturating (R107). -/
def Ex.toInt (w : Nat) (signed : Bool) (r : Rnd) (x : Ex) : Int :=
  match x with
  | .nan => 0
  | .inf n => if n then intLo w signed else intHi w signed
  | .fin n m e s =>
    let v : Int := roundIntMag r n m e s
    clampInt w signed (if n then -v else v)

/-- An integer as an exact value. -/
def Ex.ofInt (v : Int) : Ex := .fin (decide (v < 0)) v.natAbs 0 false

/-! ### Tapered formats (R61-R66) -/

/-- The length of the run of bits equal to `b` from bit `k - 1` downward. -/
def runLen (c b : Nat) : Nat → Nat
  | 0 => 0
  | k + 1 => if c / 2 ^ k % 2 = b then 1 + runLen c b k else 0

/-- The magnitude of a positive tapered code (R61): mantissa and exponent. -/
def taperedMag (c n : Nat) : Nat × Int :=
  let b := c / 2 ^ (n - 2) % 2
  let k := runLen c b (n - 1)
  let r : Int := if b = 1 then (k : Int) - 1 else -(k : Int)
  let left := n - 1 - k - 1
  let rest := c % 2 ^ left
  if left = 0 then (1, 2 * r)
  else
    let e := rest / 2 ^ (left - 1)
    (2 ^ (left - 1) + rest % 2 ^ (left - 1), 2 * r + e - ((left - 1 : Nat) : Int))

/-- `value_tapered(c, n)` (R61, R66): not-a-real is NaN. -/
def valueTapered (c0 n : Nat) : Ex :=
  let c := c0 % 2 ^ n
  if c = 0 then .fin false 0 0 false
  else if c = 2 ^ (n - 1) then .nan
  else if 2 ^ (n - 1) < c then
    let (m, e) := taperedMag (2 ^ n - c) n
    .fin true m e false
  else
    let (m, e) := taperedMag c n
    .fin false m e false

/-- The largest positive code whose value is at most a magnitude, bit by bit: positive codes order as their values. -/
def taperedFloor (m : Nat) (e : Int) (n : Nat) : Nat → Nat → Nat
  | 0, c => c
  | k + 1, c =>
    let c' := c + 2 ^ k
    let (m', e') := taperedMag c' n
    taperedFloor m e n k (if cmpMag m' e' m e != .gt then c' else c)

/-- `round_tapered(x, n)` (R65). -/
def roundTapered (x : Ex) (n : Nat) : Nat :=
  match x with
  | .nan | .inf _ => 2 ^ (n - 1)
  | .fin neg m e _ =>
    if m = 0 then 0
    else
      let maxc := 2 ^ (n - 1) - 1
      let (mm, em) := taperedMag maxc n
      let (m1, e1) := taperedMag 1 n
      let c :=
        if cmpMag m e mm em != .lt then maxc
        else if cmpMag m e m1 e1 != .gt then 1
        else
          let c := taperedFloor m e n (n - 1) 0
          let (md, ed) := taperedMag (2 * c + 1) (n + 1)
          match cmpMag m e md ed with
          | .gt => c + 1
          | .eq => if c % 2 = 1 then c + 1 else c
          | .lt => c
      if neg then (2 ^ n - c) % 2 ^ n else c

/-! ### E8 (R67, R108) -/

/-- The value of an E8 field. -/
def valueE8 (e : Nat) : Ex := if e % 256 = 255 then .nan else .fin false 1 ((e % 256 : Nat) - 127) false

/-- Conversion to E8 (R108). -/
def toE8 (r : Rnd) (x : Ex) : Nat :=
  match x with
  | .nan => 255
  | .inf _ => 254
  | .fin _ m e _ =>
    if m = 0 then 0
    else
      let k := Nat.log2 m
      let up := match r with
        | .ru => m != 2 ^ k
        | .rn => decide (3 * 2 ^ k ≤ 2 * m)
        | .rz | .rd | .rs => false
      let E : Int := (k : Int) + e + (if up then 1 else 0)
      (min (max (E + 127) 0) 254).toNat

/-! ### The LFSR (R70) -/

/-- One step. -/
def lfsrStep (s : Word) : Word := let t := s >>> 1; if s.getLsbD 0 then t ^^^ 0x80200003#32 else t

/-- Sixteen steps. -/
def lfsrNext (s : Word) : Word := (List.range 16).foldl (fun s _ => lfsrStep s) s

/-- One draw: its value and the state after it. -/
def lfsrDraw (s : Word) : Nat × Word := let t := lfsrNext s; (t.toNat % 2 ^ 16, t)

/-- A draw if the mode is `.rs`. -/
def drawIf (r : Rnd) (s : Word) : Nat × Word :=
  match r with
  | .rs => lfsrDraw s
  | .rn | .rz | .ru | .rd => (0, s)

/-! ### Formats of R36 -/

/-- The IEEE format of a format code; binary32 for the codes that are none. -/
def fmtIeee (f : Fmt) : FFmt :=
  match f with
  | .f16 => fF16
  | .bf16 => fBf16
  | .f64 => fF64
  | .f32 | .i8 | .i16 | .i32 | .i64 | .n8 | .n16 | .n32 | .n64 | .t8 | .t6 | .e8 => fF32

/-- The exact value of an element's bits in a format, a subnormal reading as zero under `.ftz` (R59). -/
def fmtValue (f : Fmt) (ftz : Bool) (x : Nat) : Ex :=
  match f with
  | .f16 | .bf16 | .f32 | .f64 => (fmtIeee f).decode ((fmtIeee f).flush ftz (x % 2 ^ (fmtIeee f).width))
  | .t8 => valueTapered x 8
  | .t6 => valueTapered x 6
  | .e8 => valueE8 x
  | .i8 => .ofInt (BitVec.ofNat 8 x).toInt
  | .i16 => .ofInt (BitVec.ofNat 16 x).toInt
  | .i32 => .ofInt (BitVec.ofNat 32 x).toInt
  | .i64 => .ofInt (BitVec.ofNat 64 x).toInt
  | .n8 => .ofInt ((x % 2 ^ 8 : Nat) : Int)
  | .n16 => .ofInt ((x % 2 ^ 16 : Nat) : Int)
  | .n32 => .ofInt ((x % 2 ^ 32 : Nat) : Int)
  | .n64 => .ofInt ((x % 2 ^ 64 : Nat) : Int)

/-! ### Minimum and maximum (R96) -/

/-- Order of two bit patterns that are not NaN, −0 below +0 (R96). -/
def orderMinMax (f : FFmt) (x y : Nat) : Bool :=
  match (f.decode x).cmp (f.decode y) with
  | .lt => true
  | .gt => false
  | .eq => (f.decode x).isNeg

/-- FMIN and FMAX of one element (R96), after `.ftz`. -/
def minMax (f : FFmt) (isMax nan ftz : Bool) (x0 y0 : Nat) : Nat :=
  let x := f.flush ftz x0
  let y := f.flush ftz y0
  match (f.decode x).isNan, (f.decode y).isNan with
  | true, true => f.nan
  | true, false => if nan then f.nan else y
  | false, true => if nan then f.nan else x
  | false, false => if orderMinMax f x y != isMax then x else y

end Sys2Proof.Machine
end

