-- ==== Sys2Proof/Machine/Spad.lean ====
section
/-! DEFINITION. The scratchpad of a cluster (R135, R136, R207), the ranges that launches own (R163), and barrier
objects as they lie in it (R182, R183). -/
namespace Sys2Proof.Machine

/-- The byte at an offset of a scratchpad; offsets wrap at 2 MiB (R135). -/
def Cluster.spadByte (c : Cluster) (off : Nat) : Byte := cellGet c.spad 0#8 (off % 2 ^ 21)

/-- `n` bytes from an offset. -/
def Cluster.spadRead (c : Cluster) (off n : Nat) : List Byte := (List.range n).map (fun i => c.spadByte (off + i))

/-- The little-endian value of `n` bytes at an offset. -/
def Cluster.spadNat (c : Cluster) (off n : Nat) : Nat := leNat (c.spadRead off n)

/-- Bytes written from an offset. -/
def Cluster.spadPut (c : Cluster) (off : Nat) : List Byte → Cluster
  | [] => c
  | b :: bs => { c with spad := cellSet c.spad 0#8 (off % 2 ^ 21) b }.spadPut (off + 1) bs

/-- Bytes written to a cluster's scratchpad. -/
def State.spadWrite (s : State) (cl off : Nat) (bs : List Byte) : State := s.modCluster cl (·.spadPut off bs)

/-- The allocations of a launch's groups on a cluster: offset and size (R136, R163). -/
def State.allocations (s : State) (launch cl : Nat) : List (Nat × Nat) :=
  (s.groups.filter (fun g => g.2.launch == launch && clusterOfCore g.2.core == cl && g.2.spSize != 0)).map
    (fun g => (g.2.spOff, g.2.spSize))

/-- A byte lies in an allocation. -/
def inAlloc (al : List (Nat × Nat)) (a : Nat) : Bool := al.any (fun r => decide (r.1 ≤ a) && decide (a < r.1 + r.2))

/-- The first byte of a range that no allocation holds: the fuel counts allocations that a position may pass. -/
def allocGap (al : List (Nat × Nat)) (stop : Nat) : Nat → Nat → Option Nat
  | 0, a => if a < stop then some a else none
  | k + 1, a =>
    if stop ≤ a then none
    else
      match al.find? (fun r => decide (r.1 ≤ a) && decide (a < r.1 + r.2)) with
      | some r => allocGap al stop k (r.1 + r.2)
      | none => some a

/-- The first of `n` bytes from an offset outside the launch's allocations on a cluster (R136). -/
def State.spadOutside (s : State) (launch cl off n : Nat) : Option Nat :=
  let al := s.allocations launch cl
  if n = 0 then none else allocGap al (off + n) al.length off

/-! ### Barrier objects -/

/-- The object at an offset is armed: a BARINIT has armed it and no BARINV disarmed it since (R182, R183). Its ARMED bit
says the same: no store reaches an armed object. Bytes of ordinary data that look like an armed object are none. -/
def Cluster.objArmed (c : Cluster) (off : Nat) : Bool := c.armed.contains (off % 2 ^ 21)

/-- An armed object that some byte of a range belongs to (R183). -/
def Cluster.objectIn (c : Cluster) (off n : Nat) : Option Nat :=
  c.armed.find? (fun o => decide (o < off + n) && decide (off < o + 16))

/-- The threads of a cluster that wait on an object. -/
def State.objWaiters (s : State) (cl off : Nat) : List Nat :=
  (s.threads.filter (fun p => !threadOnLC p.1 && clusterOfCore (coreOfThread p.1) == cl &&
    (match p.2.status with
     | .barObj o _ _ _ => o == off
     | _ => false))).map (·.1)

end Sys2Proof.Machine
end

