-- ==== Sys2Proof/Machine/Banks.lean ====
section
/-! DEFINITION. The banks of the scratchpad (R207, R208): the requests that threads send, what each does when its bank serves
it, and the places of the copy engine's requests. Atomic operations (R144) and the registers that a value fills (R141). -/
namespace Sys2Proof.Machine

/-! ### Values (R141, R144, R145) -/

/-- new(old, v) of ATOM. -/
def atomNew (op : AtomOp) (w : Nat) (a b : BitVec w) : BitVec w :=
  let f : FFmt := if w = 32 then fF32 else fF64
  match op with
  | .add => a + b
  | .and => a &&& b
  | .or => a ||| b
  | .xor => a ^^^ b
  | .exch => b
  | .smin => if a.toInt ≤ b.toInt then a else b
  | .smax => if a.toInt ≤ b.toInt then b else a
  | .umin => if a.toNat ≤ b.toNat then a else b
  | .umax => if a.toNat ≤ b.toNat then b else a
  | .fadd => BitVec.ofNat w (f.round .rn 0 ((f.decode a.toNat).add .rn (f.decode b.toNat)))
  | .fmin => BitVec.ofNat w (minMax f false false false a.toNat b.toNat)
  | .fmax => BitVec.ofNat w (minMax f true false false a.toNat b.toNat)

/-- new(old, v) on `n` bytes. -/
def atomNat (op : AtomOp) (n old v : Nat) : Nat :=
  if n = 8 then (atomNew op 64 (BitVec.ofNat 64 old) (BitVec.ofNat 64 v)).toNat
  else (atomNew op 32 (BitVec.ofNat 32 old) (BitVec.ofNat 32 v)).toNat

/-- new(old, cmp, v) of CAS: none where the old value is another. -/
def casNat (cmp v old : Nat) : Option Nat := if old = cmp then some v else none

/-- The registers that a loaded value fills. -/
def loadWords (z : Size) (v : Nat) : List Word :=
  match z with
  | .b8 | .b16 | .b32 => [BitVec.ofNat 32 v]
  | .s8 => [(BitVec.ofNat 8 v).signExtend 32]
  | .s16 => [(BitVec.ofNat 16 v).signExtend 32]
  | .b64 => wordsOf v 2
  | .b128 => wordsOf v 4

/-! ### Requests (R208) -/

/-- The quarter of a thread (R152). -/
def quarterOf (tid : Nat) : Nat := tid / 32 % 4

/-- The offset of what a request acts on. -/
def BankAct.offset (a : BankAct) : Nat :=
  match a with
  | .load ls => (ls.head?.map (·.off)).getD 0
  | .store off _ => off
  | .atom l _ _ | .cas l _ _ => l.off

/-- A value goes to the registers of a lane's thread. -/
def State.laneLands (s : State) (l : BankLane) (v : Nat) : State :=
  match l.reg with
  | some r => { s with landings := s.landings ++ [⟨l.thread, some r, loadWords l.size v, none, none, none⟩] }
  | none => s

/-- A store at a bank. An object armed after the store's checks keeps its bytes (R183). -/
def State.bankStore (s : State) (cl off : Nat) (bs : List Byte) : State :=
  if ((s.cluster cl).objectIn off bs.length).isSome then s else s.spadWrite cl off bs

/-- What a request does when its bank serves it: one access of the 16-byte unit (R207, R208). -/
def State.bankAct (s : State) (cl : Nat) (a : BankAct) : State :=
  match a with
  | .load ls => ls.foldl (fun s l => s.laneLands l ((s.cluster cl).spadNat l.off l.size.bytes)) s
  | .store off bs => s.bankStore cl off bs
  | .atom l op v =>
    let n := l.size.bytes
    let old := (s.cluster cl).spadNat l.off n
    (s.bankStore cl l.off (leBytes (atomNat op n old v) n)).laneLands l old
  | .cas l cmp v =>
    let n := l.size.bytes
    let old := (s.cluster cl).spadNat l.off n
    (match casNat cmp v old with
     | some v => s.bankStore cl l.off (leBytes v n)
     | none => s).laneLands l old

/-- A load takes another load of its unit from its issue with it (R208). -/
def BankReq.merge (x r : BankReq) : Option BankReq :=
  match x.act, r.act with
  | .load a, .load b =>
    if x.quarter = r.quarter ∧ x.age = 0 ∧ x.act.offset / 16 = r.act.offset / 16 then some { x with act := .load (a ++ b) } else none
  | _, _ => none

/-- A request in a queue: with another load of its issue, or at the end. -/
def enterQueue (l : List BankReq) (r : BankReq) : List BankReq :=
  match l with
  | [] => [r]
  | x :: xs => match x.merge r with
    | some y => y :: xs
    | none => x :: enterQueue xs r

/-- The bank of an offset (R207). -/
def bankOf (off : Nat) : Nat := off / 16 % 64

/-- A request joins a core's queue at its bank (R208). -/
def Core.addRequest (c : Core) (r : BankReq) : Core :=
  let b := bankOf r.act.offset
  { c with bankq := AMap.set c.bankq b (enterQueue (AMap.getD c.bankq b []) r) }

/-- The first request of a core at a bank is served. -/
def State.serveFirst (s : State) (core bank : Nat) : State :=
  match AMap.getD (s.core core).bankq bank [] with
  | [] => s
  | r :: rs =>
    (s.modCore core (fun c =>
      { c with bankq := if rs = [] then AMap.erase c.bankq bank else AMap.set c.bankq bank rs })).bankAct (clusterOfCore core) r.act

/-- Every request of a core is served: what the core does next stands after its accesses of the scratchpad (R210). -/
def State.settleCore (s : State) (core : Nat) : State :=
  let q := (s.core core).bankq
  if q = [] then s
  else
    (q.flatMap (fun b => b.2.map (·.act))).foldl (fun s a => s.bankAct (clusterOfCore core) a)
      (s.modCore core (fun c => { c with bankq := [] }))

/-- A thread's access of the scratchpad: it joins the queue of its bank; an acquire or a release is served at once, after what
its core has sent before. -/
def State.spadAccess (s : State) (t : Nat) (ordered : Bool) (a : BankAct) : State :=
  let core := coreOfThread t
  if ordered then (s.settleCore core).bankAct (clusterOfCore core) a
  else s.modCore core (·.addRequest ⟨quarterOf ((s.thread? t).elim 0 (·.tid)), 0, a⟩)

/-- The queues of a quarter's earlier issues: requests to come merge with none of them. -/
def Core.closeIssue (c : Core) (q : Nat) : Core :=
  { c with bankq := c.bankq.map (fun b => (b.1, b.2.map (fun r => if r.quarter = q then { r with age := r.age + 1 } else r))) }

/-- The memory port of a quarter stands behind a bank whose queue of the core is full: 8 requests (R208). -/
def Core.portHeld (c : Core) (q : Nat) : Bool := c.bankq.any (fun b => (b.2.drop 8).any (fun r => r.quarter == q))

/-! ### Service (R208) -/

/-- The threads of a core's groups, exited ones included: they hold their slots until the group retires (R166). -/
def State.threadsOnCore (s : State) (core : Nat) : List (Nat × Thread) :=
  s.threads.filter (fun p => decide (p.1 / 65536 = core) && !threadOnLC p.1 && p.2.group.isSome)

/-- The requester that a bank serves next, round-robin among those with a request there: a core of the cluster by its number,
or 4, the copy engine. A core that runs no thread has no cycles. -/
def State.bankDue (s : State) (cl bank : Nat) : Option Nat :=
  let first := AMap.getD (s.cluster cl).bankNext bank 0
  ((List.range 5).map (fun i => (first + i) % 5)).find? (fun i =>
    if i = 4 then AMap.getD (s.cluster cl).engq bank 0 != 0
    else AMap.getD (s.core (4 * cl + i)).bankq bank [] != [] && !(s.threadsOnCore (4 * cl + i)).isEmpty)

/-- One core cycle of a bank for a core: its first request is served in its turn, or the copy engine's. -/
def State.serveBank (s : State) (core bank : Nat) : State :=
  let cl := clusterOfCore core
  let next (i : Nat) (s : State) : State := s.modCluster cl (fun c => { c with bankNext := AMap.set c.bankNext bank ((i + 1) % 5) })
  match s.bankDue cl bank with
  | some i =>
    if i = 4 then (next 4 s).modCluster cl (fun c =>
      { c with engq := AMap.set c.engq bank (AMap.getD c.engq bank 0 - 1) })
    else if 4 * cl + i = core then (next i s).serveFirst core bank
    else s
  | none => s

/-- One core cycle of the banks for a core that has requests there. -/
def State.serveBanks (s : State) (core : Nat) : State :=
  if (s.core core).bankq = [] then s else (AMap.keys (s.core core).bankq).foldl (fun s b => s.serveBank core b) s

/-! ### The copy engine (R208) -/

/-- Cores of a cluster have requests at a bank. -/
def State.bankBusy (s : State) (cl bank : Nat) : Bool :=
  (List.range 4).any (fun i => AMap.getD (s.core (4 * cl + i)).bankq bank [] != [] && !(s.threadsOnCore (4 * cl + i)).isEmpty)

/-- The copy engine's queue at a bank takes another request: at most 8 stand there. -/
def State.engineRoom (s : State) (cl bank : Nat) : Bool := !s.bankBusy cl bank || decide (AMap.getD (s.cluster cl).engq bank 0 < 8)

/-- A request of the copy engine at a bank: served at once where no core's stand there, else it takes its place; its
access acts as it enters. DESIGN CHOICE (log 150). -/
def State.engineEnters (s : State) (cl bank : Nat) : State :=
  if s.bankBusy cl bank then s.modCluster cl (fun c => { c with engq := AMap.set c.engq bank (AMap.getD c.engq bank 0 + 1) })
  else if AMap.getD (s.cluster cl).engq bank 0 = 0 then s
  else s.modCluster cl (fun c => { c with engq := AMap.erase c.engq bank })

end Sys2Proof.Machine
end

