-- ==== Sys2Proof/Machine/Faults.lean ====
section
/-! DEFINITION. Releases (R179, R210, R292, R374), threads that end (R126), and fault records and fault queues
(R302-R305). -/
namespace Sys2Proof.Machine

/-! ### Releases -/

/-- A `.clus` or `.die` release of a core's threads: its requests at the banks of the scratchpad are served, and covered
entries of its write-combining buffer performed (R210, R292). -/
def State.releaseClus (s : State) (core : Nat) : State := (s.settleCore core).wcSendIf core WcEntry.covered

/-- A `.pkg` release: forwarded stores are acknowledged too (R374). What the thread has read of others of its die comes
before the release (R148): the part acknowledges every store forwarded from the die, and the core's lease clock passes
those of the die's cores. DESIGN CHOICE. -/
def State.releasePkg (s : State) (core : Nat) : State :=
  ((s.releaseClus core).ackAll (fun f => f.die == dieOfCore core)).clockDie core

/-- An entry holds stores made no later than a release of a thread of its core: the thread's own, or another's, which may stand
before the release by an acquire at `.core` (R148, R153). -/
def WcEntry.before (e : WcEntry) (q : Nat) : Bool := e.covered && e.since.any (fun p => decide (p.2 ≤ q))

/-- The releases that a load of `n` bytes at an address may read from, of the threads of some cores (R148, R153): thread and
count. -/
def State.releasesAt (s : State) (pa n : Nat) (inside : Nat → Bool) : List (Nat × Nat) :=
  (((List.range n).flatMap (fun i => AMap.getD s.releases (pa + i) [])).filter
    (fun r => inside (coreOfThread r.1))).eraseDups

/-- The releases of one byte after a thread's release there: its own last one, and those of the other threads. -/
def noteByte (m : AMap (List (Nat × Nat))) (t q : Nat) (a : Nat) : AMap (List (Nat × Nat)) :=
  AMap.set m a ((AMap.getD m a []).filter (fun r => r.1 != t) ++ [(t, q)])

/-- A thread has written `n` bytes at an address, as a release or not (R148). A later write of the place takes no release away:
until that write is performed, another thread still reads the release's value. DEDUCED (log 122). -/
def State.noteWrite (s : State) (t pa n : Nat) (rel : Bool) : State :=
  if !rel then s
  else
    { s with
      releases := (List.range n).foldl (fun m i => noteByte m t s.nextOp (pa + i)) s.releases
      nextOp := s.nextOp + 1 }

/-- DRAIN: a thread's ST.nt stores become covered by its next release (R151). -/
def State.drainNt (s : State) (core t : Nat) : State :=
  if (s.core core).wc = [] then s
  else s.modCore core (fun c => { c with wc := c.wc.map (fun e => { e with ntOwners := e.ntOwners.filter (· != t) }) })

/-- Accesses of a die's threads to other devices made no later than a count are not all acknowledged (R407). -/
def State.remoteBefore (s : State) (die q : Nat) : Bool :=
  s.remotes.any (fun r => dieOfThread r.thread == die && decide (r.tag ≤ q) &&
    (match r.kind with
     | .load _ _ _ _ | .store | .atom _ _ _ _ | .mcast _ _ _ => true
     | _ => false))

/-- A thread waits for a value of another device (R399, R408). -/
def State.loadPending (s : State) (t : Nat) : Bool :=
  s.remotes.any (fun r => r.thread == t &&
    (match r.kind with
     | .load _ _ _ _ | .atom _ _ _ _ => true
     | _ => false))

/-- A thread waits for an answer to a store, atomic or load of another device: a `.sys` release of it is not complete
(R407). -/
def State.remotePending (s : State) (t : Nat) : Bool :=
  s.remotes.any (fun r => r.thread == t &&
    (match r.kind with
     | .load _ _ _ _ | .store | .atom _ _ _ _ | .mcast _ _ _ => true
     | _ => false))

/-! ### Waiters of barrier objects -/

/-- The part keeps WAITERS of an armed object: bit i for core i of the cluster (R182). -/
def State.refreshWaiters (s : State) (cl off : Nat) : State :=
  if (s.cluster cl).objArmed off then
    let cores := (s.objWaiters cl off).map (fun t => coreOfThread t % 4)
    let w := (List.range 4).foldl (fun acc i => if cores.contains i then acc + 2 ^ i else acc) 0
    s.spadWrite cl (off + 10) [BitVec.ofNat 8 w]
  else s

/-! ### Threads that end -/

/-- A thread ended: it issues nothing further, and pending writes are discarded (R126). -/
def Thread.exit (th : Thread) : Thread := { th.clearLatches with status := .exited, pending := [] }

/-- A request of a local sender that ended or was dropped returns nothing (R325). -/
def ShipReq.orphan (r : ShipReq) (t : Nat) : ShipReq := if r.sender = some t then { r with sender := none } else r

/-- A fabric request whose sender ended returns nothing to it. -/
def RemoteKind.orphan (k : RemoteKind) : RemoteKind :=
  match k with
  | .load _ z a b => .load none z a b
  | .atom _ w a b => .atom none w a b
  | .ship q => .ship { q with sender := none }
  | .store => .store
  | .mcast _ g c => .mcast none g c
  | .fpoll _ => .fpoll none
  | .fwait h _ _ n => .fwait h .none 255 n
  | .future op _ n => .future op none n
  | .red _ _ n => .red none 255 n
  | .rgrp _ g p => .rgrp none g p
  | .after _ _ | .spawn _ _ | .host _ _ | .note _ | .gather _ _ _ _ => k

/-- Asynchronous results of a thread are discarded (R126, R325). -/
def State.discardResults (s : State) (t : Nat) : State :=
  { s with
    landings := s.landings.map (fun l => if l.thread = t then { l with reg := none, tok := none } else l)
    perches := s.perches.map (fun p => (p.1, { p.2 with
      queue := p.2.queue.map (·.orphan t), running := p.2.running.map (·.orphan t)
      parkedSenders := p.2.parkedSenders.filter (fun r => r.sender != some t) }))
    shipFlights := s.shipFlights.map (fun p => (p.1, p.2.orphan t))
    shipResults := s.shipResults.map (fun r => { r with req := r.req.orphan t })
    remotes := s.remotes.map (fun r => if r.thread = t then { r with kind := r.kind.orphan } else r) }

/-- Attachments of a thread end (R305). -/
def Die.detach (x : Die) (t : Nat) : Die :=
  { x with attached := x.attached.filter (fun a => a.fatal || a.party != .thread t) }

/-- A party leaves the walker queues. -/
def State.leaveWalks (s : State) (p : Party) : State :=
  let leave (q : List Walk) : List Walk :=
    (q.map (fun w => { w with parties := w.parties.filter (fun x => x.who != p) })).filter (fun w => w.parties != [])
  { s with
    clusters := s.clusters.map (fun c => (c.1, { c.2 with walkq := leave c.2.walkq }))
    walked := s.walked.filter (fun w => w.who != p) }

/-- A thread of a group ends: by EXIT, silently by reclamation, or with its launch. What it has sent to the banks of the
scratchpad is served. -/
def State.exitThread (s : State) (t : Nat) : State :=
  match s.thread? t with
  | none => s
  | some th =>
    let obj := match th.status with
      | .barObj off _ _ _ => some off
      | _ => none
    let s := ((s.settleCore (coreOfThread t)).setThread t th.exit).discardResults t
    let s := (s.modDie (dieOfThread t) (·.detach t)).leaveWalks (.thread t)
    match obj with
    | some off => s.refreshWaiters (clusterOfCore (coreOfThread t)) off
    | none => s

/-! ### Tasks -/

/-- DIE of a handle (R338). -/
def handleDie (h : DWord) : Nat := bits h.toNat 32 2
/-- INDEX of a handle. -/
def handleIndex (h : DWord) : Nat := bits h.toNat 16 16
/-- DEVICE of a handle. -/
def handleDevice (h : DWord) : Nat := bits h.toNat 34 13

/-- The table entry of a handle on this device, whatever its count, if it is live and of this generation (R339). -/
def State.futEntry (s : State) (h : DWord) : Option Fut :=
  if bits h.toNat 47 17 != 0 || handleDevice h != s.device.toNat then none
  else
    match AMap.get? (s.die (handleDie h)).futures (handleIndex h) with
    | some f => if f.live && f.gen == h.extractLsb' 0 16 then some f else none
    | none => none

/-- The key of the launch that an executing thread's holdings belong to; a latency-core context has one of its own. -/
def State.taskKey (s : State) (t : Nat) : Nat :=
  match s.groupOf t with
  | some g => g.launch
  | none => 2 ^ 32 + t

/-- A launch's task has been reclaimed (R351). -/
def State.launchReclaimed (s : State) (l : Nat) : Bool :=
  match s.launch? l with
  | some x => x.reclaimed || (match s.futEntry x.future with
    | some f => f.reclaimed && decide (f.launch = some l)
    | none => false)
  | none => false

/-- A thread's task has been reclaimed. -/
def State.taskReclaimed (s : State) (t : Nat) : Bool :=
  match s.groupOf t with
  | some g => s.launchReclaimed g.launch
  | none => false

/-! ### Fault records -/

/-- WHERE of a core (R304). -/
def whereOfCore (core : Nat) : Nat :=
  if isLC core then dieOfCore core * 512 + 0x100 + (core - 1024) % 16 else dieOfCore core * 512 + core % 256

/-- WHERE of an engine of a cluster (R304). -/
def whereOfCluster (cl : Nat) : Nat := cl / 64 * 512 + cl % 64

/-- The launch identifier, slot word and future of a thread, as records give them (R304). -/
def State.partyOf (s : State) (t : Nat) : Word × Word × DWord :=
  match s.groupOf t, s.launchOf t with
  | some g, some l => (l.ident, BitVec.ofNat 32 (g.slot * 65536 + (t % 1024)), l.future)
  | _, _ =>
    match s.thread? t with
    | some th => (BitVec.ofNat 32 th.lcLaunch, 0#32, 0#64)
    | none => (0#32, 0#32, 0#64)

/-- AGENT of a thread's access (R304). -/
def agentOf (t : Nat) (kind : Access) : Nat :=
  if threadOnLC t then 5
  else match kind with
    | .read => 0
    | .write => 1
    | .fetch => 2

/-- A fault of a thread. -/
def State.threadFault (s : State) (t : Nat) (fatal : Bool) (va pc : DWord) (code : Code) (kind : Access)
    (level : Nat) (entry : DWord) : Attachment :=
  let (l, sl, f) := s.partyOf t
  ⟨.thread t, none, fatal, va, pc, code, kind, agentOf t kind, level, whereOfCore (coreOfThread t), l, sl, f, entry⟩

/-- The 64 bytes of a record with PARTIES 1 (R304). -/
def Attachment.bytes (a : Attachment) : List Byte :=
  leBytes a.va.toNat 8 ++ leBytes a.pc.toNat 8 ++ leBytes (codeNum a.code) 2 ++ leBytes a.agent 1 ++
    leBytes a.level 1 ++ leBytes a.location 2 ++ leBytes 1 2 ++ leBytes a.launch.toNat 4 ++
    leBytes a.slot.toNat 4 ++ leBytes a.future.toNat 8 ++ leBytes a.entry.toNat 8 ++
    leBytes (if a.fatal then 2 else 1) 4 ++ List.replicate 12 0#8

/-- The physical address of a die's fault queue, once published (R303, R396). -/
def State.fqBase (s : State) (d : Nat) : Option Nat := (AMap.get? s.pcb.fqbase d).map BitVec.toNat

/-- Bytes written in a die's fault queue. -/
def State.fqWrite (s : State) (d off : Nat) (bs : List Byte) : State :=
  match s.fqBase d with
  | some b => s.partWrite (b + off) bs
  | none => s

/-- The next slot of a die's queue, and whether its record still waits (R303). -/
def Die.fqNext (x : Die) : Nat := x.fqSeq.toNat % 1024

/-- The queue of a die is full. -/
def Die.fqFull (x : Die) : Bool := x.records.any (fun r => r.index == x.fqNext)

/-- The core whose counters count a record (R309): an engine's is its first core. -/
def coreOfWhere (w : Nat) (agent : Nat) : Nat :=
  let d := w / 512
  if agent = 3 ∨ agent = 4 then 256 * d + 4 * (w % 512)
  else if 0x100 ≤ w % 512 then 1024 + 16 * d + (w % 512 - 0x100) else 256 * d + w % 512

/-- The core whose agent a fault is: of an engine operation, the one that issued it (R309). -/
def State.faultCore (s : State) (a : Attachment) : Nat :=
  let issuer := match a.party with
    | .thread _ => none
    | .copy cl op => ((s.cluster cl).copyq.find? (fun o => o.id == op)).map (·.thread)
    | .matrix cl op => ((s.cluster cl).matq.find? (fun o => o.id == op)).map (·.thread)
  match issuer with
  | some t => coreOfThread t
  | none => coreOfWhere a.location a.agent

/-- A record is written at SEQ mod 1,024, then SEQ is incremented (R303); that of a thread's own access counts under the
thread's privilege (R309). -/
def State.writeRecord (s : State) (d : Nat) (a : Attachment) : State :=
  let seq := (s.die d).fqSeq
  let s := (s.fqWrite d (64 + 64 * (seq.toNat % 1024)) a.bytes).fqWrite d 0 (leBytes (seq + 1#64).toNat 8)
  let who := match a.party with
    | .thread t => if a.agent ∈ [0, 1, 2, 5] then s.whoOf t else none
    | .copy _ _ | .matrix _ _ => none
  (s.modDie d (fun x => { x with fqSeq := seq + 1#64 })).pmc (s.faultCore a) 0x23 1 who

/-- A fault is recorded: a fatal one in a record that waits for nobody; another attaches to an equal waiting record or
writes its own; with the queue full it waits for a slot (R303, R305). -/
def State.fileFault (s : State) (d : Nat) (a : Attachment) : State :=
  let x := s.die d
  if a.fatal then
    if x.fqFull then s.modDie d (fun x => { x with attached := x.attached ++ [{ a with index := none }] })
    else s.writeRecord d a
  else
    let granule := a.va.toNat / 65536
    match x.records.find? (fun r => r.code == a.code && r.kind == a.kind && r.granule == granule) with
    | some r =>
      let n := min (r.parties + 1) 0xFFFF
      let s := s.fqWrite d (64 + 64 * r.index + 0x16) (leBytes n 2)
      s.modDie d (fun x => { x with
        records := x.records.map (fun q => if q.index = r.index then { q with parties := n } else q)
        attached := x.attached ++ [{ a with index := some r.index }] })
    | none =>
      if x.fqFull then s.modDie d (fun x => { x with attached := x.attached ++ [{ a with index := none }] })
      else
        let i := x.fqNext
        (s.writeRecord d a).modDie d (fun x => { x with
          records := x.records ++ [⟨i, a.code, a.kind, granule, 1⟩]
          attached := x.attached ++ [{ a with index := some i }] })

/-- Faults that found the queue full are recorded as slots allow, in order (R303). -/
def State.settleFaults (s : State) (d : Nat) : State :=
  let waiting := (s.die d).attached.filter (fun a => a.index == none)
  waiting.foldl (fun s a => s.fileFault d a)
    (s.modDie d (fun x => { x with attached := x.attached.filter (fun a => a.index != none) }))

/-! ### Parties of attachments -/

/-- Engine operations of a group that are parked on a fault end with its code; the attachment ends (R305). -/
def State.endParked (s : State) (a : Attachment) : State :=
  match a.party with
  | .thread _ => s
  | .copy cl op => s.modCluster cl (fun c =>
      { c with copyq := c.copyq.map (fun o => if o.id = op then { o with parked := false, result := some a.code } else o) })
  | .matrix cl op => s.modCluster cl (fun c =>
      { c with matq := c.matq.map (fun o => if o.id = op then { o with parked := false, result := some a.code } else o) })

/-- The launch that an engine party belongs to. -/
def State.partyLaunch (s : State) (p : Party) : Option Nat :=
  match p with
  | .thread _ => none
  | .copy cl op => ((s.cluster cl).copyq.find? (fun o => o.id == op)).map (·.launch)
  | .matrix cl op => ((s.cluster cl).matq.find? (fun o => o.id == op)).map (·.launch)

/-- The keys of a group's threads that the state lists. -/
def State.threadsOf (s : State) (g : Nat) : List Nat := (AMap.keys s.threads).filter (fun t => t / 1024 == g && !threadOnLC t)

/-- The groups of a launch. -/
def State.groupsOf (s : State) (l : Nat) : List Nat := (s.groups.filter (fun g => g.2.launch == l)).map (·.1)

end Sys2Proof.Machine
end

