-- ==== Sys2Proof/Machine/Link.lean ====
section
/-! DEFINITION. Sending packets into the fabric (R402, R405, R406) and outstanding requests (R400). -/
namespace Sys2Proof.Machine

/-- The key of a sequence stream: peer and class. -/
def chanKey (peer cls : Nat) : Nat := 4 * peer + cls

/-- The stream to a peer in a class. -/
def State.sendChan (s : State) (peer cls : Nat) : SendChan := AMap.getD s.sendChans (chanKey peer cls) SendChan.init

/-- Change a stream to a peer. -/
def State.modSend (s : State) (peer cls : Nat) (f : SendChan → SendChan) : State :=
  { s with sendChans := AMap.set s.sendChans (chanKey peer cls) (f (s.sendChan peer cls)) }

/-- The stream from a peer in a class. -/
def State.recvChan (s : State) (peer cls : Nat) : RecvChan := AMap.getD s.recvChans (chanKey peer cls) RecvChan.init

/-- Change a stream from a peer. -/
def State.modRecv (s : State) (peer cls : Nat) (f : RecvChan → RecvChan) : State :=
  { s with recvChans := AMap.set s.recvChans (chanKey peer cls) (f (s.recvChan peer cls)) }

/-- A stream takes another packet: at most 16,384 stand unacknowledged (R402), and none waits. -/
def State.linkRoom (s : State) (peer cls : Nat) : Bool :=
  decide ((s.sendChan peer cls).unacked.length < 16384) && (s.sendChan peer cls).waiting.isEmpty

/-- A packet is sent, or waits while the stream takes no more (R402, R405, R406). -/
def State.sendPacket (s : State) (peer cls tag : Nat) (op : FabOp) : State :=
  if s.linkRoom peer cls then
    let c := s.sendChan peer cls
    let p : Packet := ⟨s.device.toNat, peer, cls, c.next, c.floor, s.incarnation.toNat, c.peerInc, tag, op⟩
    s.modSend peer cls (fun c => { c with next := (c.next + 1) % 2 ^ 32, unacked := c.unacked ++ [p] })
  else s.modSend peer cls (fun c => { c with waiting := c.waiting ++ [(tag, op)] })

/-- What waits in a stream is sent, as far as the stream takes it (R402). -/
def State.sendWaiting (s : State) (peer cls : Nat) : State :=
  (s.sendChan peer cls).waiting.foldl (fun s w => s.sendPacket peer cls w.1 w.2)
    (s.modSend peer cls (fun c => { c with waiting := [] }))

/-- A request of a thread is sent, its answer awaited under a new tag (R400). -/
def State.sendRequest (s : State) (t peer cls : Nat) (va : DWord) (kind : RemoteKind) (op : FabOp) : State :=
  let tag := s.nextOp
  let r : Remote := ⟨tag, t, peer, va, ((s.thread? t).map (·.pc)).getD 0#64, kind⟩
  let s := { s with nextOp := tag + 1, remotes := s.remotes ++ [r] }
  s.sendPacket peer cls tag op

/-- The device that an aperture names (R383). -/
def apertureDevice (a : DWord) : Nat := bits a.toNat 16 13

/-- The physical address on the target that an aperture address names (R383). -/
def apertureTarget (a : DWord) (pa : Nat) : Nat := bits a.toNat 0 6 * 2 ^ 40 + pa % 2 ^ 40

/-- A thread waits for the value of an acquire from another device: its later accesses stand behind it (R148, R407). -/
def State.acquirePending (s : State) (t : Nat) : Bool :=
  s.remotes.any (fun r => r.thread == t &&
    (match r.kind with
     | .load _ _ acq _ | .atom _ _ acq _ => acq
     | _ => false))

/-- A `.sys` acquire raises the core's LTIME to every die's FABTIME (R407). -/
def State.acquireSys (s : State) (core : Nat) : State :=
  [0, 1, 2, 3].foldl (fun s d => s.raiseLtime core (s.die d).fabtime) s

end Sys2Proof.Machine
end

