-- ==== Sys2Proof/Machine/Reach.lean ====
section
/-! DEFINITION. Futures in their tables (R338-R342): reach counts, resolution, admission, reclamation and the end of a
task (R331, R337, R350-R356). -/
namespace Sys2Proof.Machine

/-! ### Virtual accesses by the part (R280, R286) -/

/-- The core number under which the part's own accesses go: none of the package's. -/
def noCore : Nat := 4096

/-- The part's own access to a virtual address, walked afresh at supervisor privilege. -/
def State.partXlate (s : State) (va : DWord) (kind : Access) : Xl × State :=
  if va.extractLsb' 55 9 ≠ 0#9 then (.fault .protection 1 0#64, s)
  else s.walk ⟨va, kind, false, true, 0, false, noCore, true, true⟩

/-- Bytes of one page written by the part; nothing where they do not translate to this package's memory. -/
def State.partPutVa (s : State) (va : DWord) (bs : List Byte) : State :=
  match s.partXlate va .write with
  | (.ok e _ pa, s) => if (homeDie pa).isSome then s.partWriteKey (some (pteKey e)) pa bs else s
  | (_, s) => s

/-- An address that the part cannot write now: its page is under migration, or waits for a die to enter service. -/
def State.partLater (s : State) (va : DWord) : Bool :=
  match (s.partXlate va .write).1 with
  | .mig | .wait => true
  | .ok _ _ _ | .fault _ _ _ => false

/-! ### Handles and entries (R338, R339) -/

/-- The handle of an entry of this device. -/
def State.mkHandle (s : State) (die index : Nat) (gen : BitVec 16) : DWord :=
  BitVec.ofNat 64 (gen.toNat + index * 2 ^ 16 + die * 2 ^ 32 + s.device.toNat * 2 ^ 34)

/-- A handle of a future of another device; one whose DEVICE names nothing is stale everywhere (R339). -/
def State.remoteHandle (s : State) (h : DWord) : Bool :=
  bits h.toNat 47 17 == 0 && handleDevice h != s.device.toNat && Config.fabricDevice (handleDevice h)

/-- The entry of a handle that is not stale. -/
def State.future (s : State) (h : DWord) : Option Fut := (s.futEntry h).bind (fun f => if f.count = 0 then none else some f)

/-- The entry that a handle names, changed. -/
def State.modFut (s : State) (h : DWord) (f : Fut → Fut) : State :=
  match s.futEntry h with
  | none => s
  | some x => s.modDie (handleDie h) (fun d => { d with futures := AMap.set d.futures (handleIndex h) (f x) })

/-- The largest reach count (R341). -/
def maxCount : Nat := 2 ^ 24 - 1

/-- The next generation, never 0 (R339). -/
def nextGen (g : BitVec 16) : BitVec 16 := if g = 0xFFFF#16 then 1#16 else g + 1#16

/-- An entry is freed: its handles are stale from now on. -/
def State.freeFut (s : State) (h : DWord) : State := s.modFut h (fun f => { Fut.init with gen := nextGen f.gen })

/-- A free entry of a die's table, from an index on: which one is the part's choice (R338). -/
def Die.freeFrom (x : Die) (k : Nat) : Option Nat :=
  let free (i : Nat) : Bool := (AMap.get? x.futures i).all (fun f => !f.live)
  ((List.range 65536).map (fun i => (k + i) % 65536)).find? free

/-! ### Holdings (R342) -/

/-- The holdings of a task. -/
def State.holdings (s : State) (key : Nat) : List (DWord × Nat) := ((s.launch? key).map (·.holdings)).getD []

/-- What the holdings of a latency-core context stand in. -/
def Launch.blank : Launch where
  ident := 0#32
  state := .running
  entry := 0#64
  signature := 0#64
  future := 0#64
  cbaddr := 0#64
  clmask := 0#64
  ngroup := 0
  spad := 0
  spbase := 0
  bars := 0
  gsize := 0
  spslots := 0
  chlen := 0
  chstart := 0
  diemask := 0#4
  chain := false
  sysRel := false
  prio := 0
  cbmask := 0#16
  reserved := false
  chReserved := false
  budget := 0
  banks := []
  placed := 0
  checked := false
  admitted := 0
  holdings := []
  savedOut := 0
  objs := []
  reclaimed := false
  homeDie := 0

/-- The holdings of a task replaced. -/
def State.setHoldings (s : State) (key : Nat) (l : List (DWord × Nat)) : State :=
  s.setLaunch key { (s.launch? key).getD Launch.blank with holdings := l }

/-- References that a task holds on a handle. -/
def heldOf (l : List (DWord × Nat)) (h : DWord) : Nat := ((l.find? (fun p => p.1 == h)).map (·.2)).getD 0

/-- Holdings with `n` more references on a handle. -/
def holdMore (l : List (DWord × Nat)) (h : DWord) (n : Nat) : List (DWord × Nat) :=
  if l.any (fun p => p.1 == h) then l.map (fun p => if p.1 = h then (h, p.2 + n) else p) else l ++ [(h, n)]

/-- Holdings with one reference fewer on a handle, its place kept. -/
def holdLess (l : List (DWord × Nat)) (h : DWord) : List (DWord × Nat) :=
  l.map (fun p => if p.1 = h then (h, p.2 - 1) else p)

/-- The holdings have no place for a handle. A place with no reference is kept for one that is asked for (R342). -/
def holdFull (l : List (DWord × Nat)) (h : DWord) : Bool := decide (16 ≤ l.length) && !l.any (fun p => p.1 == h)

/-- A place for a handle in the holdings. -/
def holdPlace (l : List (DWord × Nat)) (h : DWord) : List (DWord × Nat) :=
  if l.any (fun p => p.1 == h) then l else l ++ [(h, 0)]

/-! ### Queues (R330, R331) -/

/-- The dispatching die of a launch: die CHSTART[9:8] of a chain, else the lowest die of DIEMASK. -/
def Launch.dispDie (x : Launch) : Nat :=
  if x.chain then x.chstart / 256 % 4 else ([0, 1, 2, 3].find? (fun d => x.diemask.getLsbD d)).getD 0

/-- A level's queue and its spill ring take another launch. -/
def State.queueRoom (s : State) (x : Launch) : Bool :=
  decide ((AMap.getD (s.die x.dispDie).queues x.prio []).length < 64 + 131072)

/-- An entry that spills is written to the level's ring in memory (R330, R396). The spec gives an entry 64 bytes and neither
its contents nor its place in the ring: both are free values. -/
def State.spill (s : State) (die level : Nat) : State :=
  let (v, s) := s.choose (2 ^ 512)
  let (i, s) := s.choose 131072
  s.partWrite ((AMap.getD s.pcb.spillbase die 0#64).toNat + 8388608 * level + 64 * i) (leBytes v 64)

/-- A launch is admitted: it enters its queue (R331), whose die it wakes (R385), and its future is QUEUED; one beyond the 64
that the hardware holds spills (R330). -/
def State.pushLaunch (s : State) (l : Nat) : State :=
  match s.launch? l with
  | none => s
  | some x =>
    let s := s.needDie x.dispDie
    let s := { s with nextAdmit := s.nextAdmit + 1 }.setLaunch l { x with state := .queued, admitted := s.nextAdmit }
    let s := s.modFut x.future (fun f => if f.launch = some l ∧ f.state ≠ .resolved then { f with state := .queued } else f)
    let q := AMap.getD (s.die x.dispDie).queues x.prio []
    let s := if 64 ≤ q.length then s.spill x.dispDie x.prio else s
    s.modDie x.dispDie (fun d => { d with queues := AMap.set d.queues x.prio (q ++ [l]) })

/-- A launch leaves the queues. -/
def State.unqueue (s : State) (l : Nat) : State :=
  s.mapDies (fun d => { d with queues := d.queues.map (fun q => (q.1, q.2.filter (· != l))) })

/-! ### What follows from a count, a resolution, an end -/

/-- An event at the entries that may lead to others. -/
inductive FutWork where
  /-- references dropped -/
  | drop (h : DWord) (n : Nat)
  /-- a future resolves -/
  | resolve (h : DWord) (c : Code) (words : List Word)
  /-- a launch's task has ended -/
  | ended (l : Nat)
  /-- a WAITING future may be admitted, or is cancelled -/
  | settle (h : DWord)
  deriving DecidableEq, Repr

/-- A thread that waits suspended or parked (R23): the states that a reclaimed task's thread exits from (R352). -/
def Status.suspended (x : Status) : Bool :=
  match x with
  | .ready | .walking | .asking | .exited | .idle => false
  | .scoreboard _ | .yielded | .barReg _ _ _ _ | .barObj _ _ _ _ | .signed _ _ | .withdrawn | .fwait _ _ _ _ | .shipWait _ | .shipParked _
  | .spawnWait _ _ _ _ _ _ | .migParked | .faultParked => true

/-- A suspended thread of a reclaimed task exits at once (R352), one that a stop or a halt holds too. -/
def State.reclaimThread (s : State) (t : Nat) : State :=
  match s.thread? t, s.groupOf t with
  | some th, some g =>
    if (th.status.suspended || s.heldStill t th) && s.launchReclaimed g.launch then s.exitThread t else s
  | _, _ => s

/-- A section that a thread shipped has not landed (R354). -/
def State.sectionOut (s : State) (t : Nat) : Bool :=
  let mine (r : ShipReq) : Bool := r.sender == some t
  s.shipFlights.any (fun p => mine p.2) || s.shipResults.any (fun x => mine x.req) ||
    s.perches.any (fun p => p.2.queue.any mine || p.2.parkedSenders.any mine || p.2.running.any mine) ||
    s.remotes.any (fun r => match r.kind with
      | .ship q => mine q
      | _ => false)

/-- A thread at the moment its task is reclaimed: one with a section outstanding exits as one suspended does (R354). -/
def State.reclaimNow (s : State) (t : Nat) : State :=
  if s.sectionOut t && (s.thread? t).any (fun th => th.status != .exited) then s.exitThread t else s.reclaimThread t

/-- Parked engine operations of a launch end with their codes (R305). -/
def State.endParkedOf (s : State) (l : Nat) : State :=
  [0, 1, 2, 3].foldl (fun s d =>
    let mine := (s.die d).attached.filter (fun a => !a.fatal && s.partyLaunch a.party == some l)
    mine.foldl State.endParked
      (s.modDie d (fun y => { y with attached := y.attached.filter (fun a => !mine.contains a) }))) s

/-- Waiting FSPAWNs of a task are withdrawn: their holdings places go, and their after references are to be dropped
(R344). -/
def State.withdrawSpawns (s : State) (l : Nat) : List FutWork × State :=
  let mine := s.dies.flatMap (fun d => d.2.spawns.filter (fun w => w.launch == l))
  if mine = [] then ([], s)
  else
    let s := s.mapDies (fun d => { d with spawns := d.spawns.filter (fun w => w.launch != l) })
    (mine.flatMap (fun w => w.after.map (fun h => FutWork.drop h 1)),
      s.setHoldings l ((s.holdings l).filter (fun p => p.1 != 0#64)))

/-- A launch has nothing left on the part: no resident group, none saved by the dispatcher, and none by CTXSAVE unless
the launch is going down. -/
def State.nothingLeft (s : State) (l : Nat) (x : Launch) (down : Bool) : Bool :=
  s.groupsOf l == [] && s.dies.all (fun d => d.2.saved.all (fun f => f.launch != l)) && (down || x.savedOut == 0)

/-- What tells a wait whose handle became stale meanwhile, which lands, from one whose handle was stale, which faults
(R346). -/
def lateStale : List Word := [1#32]

/-- A thread waits in an FWAIT on a handle. -/
def Thread.awaits (th : Thread) (h : DWord) : Bool :=
  match th.status with
  | .fwait x _ _ _ => x == h
  | _ => false

/-- The threads that wait in an FWAIT on a future have what it resolves with: it lands whatever becomes of the entry
(R346). -/
def State.gotWaits (s : State) (h : DWord) (c : Code) (words : List Word) (far : Bool) : State :=
  { s with threads := s.threads.map (fun p =>
    (p.1, if p.2.awaits h then { p.2 with got := some (c, words, far) } else p.2)) }

/-- Waits of other devices on a future are answered (R346). -/
def State.answerWaits (s : State) (h : DWord) (c : Code) (words : List Word) : State :=
  let mine := s.futWaits.filter (fun w => w.2.2 == h)
  mine.foldl (fun s w => s.sendPacket w.1 1 w.2.1 (.response w.2.1 c (BitVec.ofNat 128 (wordsNat words))))
    { s with futWaits := s.futWaits.filter (fun w => w.2.2 != h) }

/-- A note block of a resolved future is written: the results, then RESOLVED (R337). One whose page does not translate now is
written later. -/
def State.writeNote (s : State) (a : DWord) (c : Code) (words : List Word) : State :=
  if s.partLater a then { s with noteWaits := s.noteWaits ++ [(a, c, words)] }
  else (s.partPutVa (a + 16#64) (words.flatMap (fun w => leBytes w.toNat 4))).partPutVa (a + 12#64)
    (leBytes (2 ^ 31 + codeNum c) 4)

/-- The note blocks of a resolved future are written (R337). -/
def State.writeNotes (s : State) (notes : List DWord) (c : Code) (words : List Word) : State :=
  notes.foldl (fun s a => s.writeNote a c words) s

/-- Note blocks that waited are written. -/
def State.retryNotes (s : State) : State :=
  s.noteWaits.foldl (fun s n => s.writeNote n.1 n.2.1 n.2.2) { s with noteWaits := [] }

/-- The WAITING futures whose after-list names a handle. -/
def State.dependents (s : State) (h : DWord) : List DWord :=
  s.dies.flatMap (fun d => d.2.futures.filterMap (fun p =>
    if p.2.live && p.2.state == .waiting && p.2.after.contains h then some (s.mkHandle d.1 p.1 p.2.gen) else none))

/-- Four zero words. -/
def zeroResults : List Word := [0#32, 0#32, 0#32, 0#32]

/-- The four result words of a resolution: zeros where its status is not OK (R346). -/
def resultWords (c : Code) (words : List Word) : List Word :=
  if c = .ok then (List.range 4).map (fun i => (words[i]?).getD 0#32) else zeroResults

/-- A future resolves (R340): its status and results stand from now on. Reclamation leaves nothing to resolve. A future of
another device, which a launch here is bound to, is resolved there (R336). -/
def State.resolveFut (s : State) (h : DWord) (c : Code) (words : List Word) : List FutWork × State :=
  match s.futEntry h with
  | none => ([], if s.remoteHandle h then s.sendPacket (handleDevice h) 0 0 (.future (.finish h c words)) else s)
  | some f =>
    if f.state = .resolved ∨ f.reclaimed = true then ([], s)
    else
      let w (i : Nat) : Word := (words[i]?).getD 0#32
      let s := s.modFut h (fun f => { f with state := .resolved, status := c, r0 := w 0, r1 := w 1, r2 := w 2, r3 := w 3 })
      let s := ((s.writeNotes f.notes c words).answerWaits h c words).gotWaits h c (resultWords c words) f.far
      ((s.dependents h).map FutWork.settle, s)

/-- A handle of an after-list has resolved: some OK, or another status; none has not. `ready` are those of other devices
that resolved OK. -/
def State.afterState (s : State) (ready : List DWord) (h : DWord) : Option Code :=
  match s.futEntry h with
  | none => if s.remoteHandle h then (if ready.contains h then some .ok else none) else some .futureCancelled
  | some f => if f.state = .resolved then some f.status else none

/-- A WAITING future whose after-list has resolved: admitted, or cancelled by a status other than OK (R331, R356). -/
def State.settleFut (s : State) (h : DWord) : List FutWork × State :=
  match s.futEntry h with
  | none => ([], s)
  | some f =>
    match f.launch with
    | none => ([], s)
    | some l =>
      let afters := f.after.map (fun a => FutWork.drop a 1)
      if f.state ≠ .waiting ∨ f.reclaimed = true then ([], s)
      else if f.after.any (fun a => (s.afterState f.ready a).any (· != .ok)) then
        (.resolve h .futureCancelled zeroResults :: .ended l :: afters, s.modFut h (fun f => { f with after := [] }))
      else if f.after.all (fun a => s.afterState f.ready a == some .ok) && (s.launch? l).any s.queueRoom then
        (afters, (s.modFut h (fun f => { f with after := [] })).pushLaunch l)
      else ([], s)

/-- The launch of a reclaimed task: its waiting FSPAWNs are withdrawn, it is placed no more, its threads exit as they may,
and it has ended where nothing of it is left (R344, R351, R352). -/
def State.reclaimLaunch (s : State) (l : Nat) : List FutWork × State :=
  let (back, s) := s.withdrawSpawns l
  match s.launch? l with
  | none => (back, s)
  | some x =>
    match x.state with
    | .failed _ | .ended => (back, s)
    | .waiting | .queued | .placing | .running =>
      let s := (s.unqueue l).modLaunch l (fun x => { x with state := if x.placed = 0 then x.state else .running })
      let s := s.mapDies (fun d => { d with saved := d.saved.filter (fun v => v.launch != l) })
      let s := ((s.groupsOf l).flatMap s.threadsOf).foldl State.reclaimNow s
      let s := s.endParkedOf l
      (back ++ (if s.nothingLeft l x true then [.ended l] else []), s)

/-- The waits of other devices on a future that nobody can reach are answered: its handle is stale (R339, R346). -/
def State.staleWaits (s : State) (h : DWord) : State := s.answerWaits h .handleStale lateStale

/-- A future that nobody can reach, whose task has not ended: the task is reclaimed (R351). -/
def State.reclaim (s : State) (h : DWord) (f : Fut) (l : Nat) : List FutWork × State :=
  let s := (s.modFut h (fun f => { f with reclaimed := true, after := [] })).staleWaits h
  let (more, s) := s.reclaimLaunch l
  (f.after.map (fun a => FutWork.drop a 1) ++ more, s)

/-- A count falls (R345): at 0 the task is reclaimed, or the entry is freed. -/
def State.dropFut (s : State) (h : DWord) (n : Nat) : List FutWork × State :=
  match s.futEntry h with
  | none =>
    if s.remoteHandle h then ([], s.sendPacket (handleDevice h) 0 0 (.future (.drop h n))) else ([], s)
  | some f =>
    let k := f.count - n
    let s := s.modFut h (fun f => { f with count := k })
    if k ≠ 0 then ([], s)
    else
      match f.launch, f.bound with
      | some l, _ => if f.taskEnded then ([], (s.staleWaits h).freeFut h) else s.reclaim h f l
      | none, some d =>
        if f.taskEnded then ([], (s.staleWaits h).freeFut h)
        else ([], ((s.modFut h (fun f => { f with reclaimed := true })).staleWaits h).sendPacket d 0 0 (.future (.reclaim h)))
      | none, none => ([], (s.staleWaits h).freeFut h)

/-- The task of the launch bound to a future has ended: the entry is freed if nobody can reach it (R340, R353). -/
def State.endFut (s : State) (h : DWord) (f : Fut) : State :=
  if f.count = 0 then s.freeFut h else s.modFut h (fun f => { f with taskEnded := true })

/-- A task has ended (R353): its holdings are dropped, and its future's entry is freed if nobody can reach it. -/
def State.taskEnds (s : State) (l : Nat) : List FutWork × State :=
  match s.launch? l with
  | none => ([], s)
  | some x =>
    if x.state = .ended then ([], s)
    else
      let (back, s) := s.withdrawSpawns l
      let held := ((s.holdings l).filter (fun p => p.2 != 0)).map (fun p => FutWork.drop p.1 p.2)
      let s := s.modLaunch l (fun x => { x with state := .ended, holdings := [] })
      let s := match s.futEntry x.future with
        | some f => if f.launch ≠ some l then s else s.endFut x.future f
        | none => if s.remoteHandle x.future then s.sendPacket (handleDevice x.future) 0 0 (.future (.ended x.future)) else s
      (back ++ held, s)

/-- Events at the entries, one at a time (R340); the fuel bounds how many follow. -/
def State.runFut (s : State) : List FutWork → Nat → State
  | [], _ | _, 0 => s
  | w :: ws, k + 1 =>
    let (more, s) := match w with
      | .drop h n => s.dropFut h n
      | .resolve h c words => s.resolveFut h c words
      | .ended l => s.taskEnds l
      | .settle h => s.settleFut h
    s.runFut (ws ++ more) k

/-- More events than can follow: every drop lowers a count, a future resolves and a task ends once. -/
def State.futFuel (s : State) (n : Nat) : Nat :=
  let fs := s.dies.flatMap (fun d => AMap.vals d.2.futures)
  (fs.map (·.count)).sum + (fs.length + 8) * (fs.length + 8) + 20 * s.launches.length + n

/-- What happens at the entries, with all that follows. -/
def State.futDo (s : State) (ws : List FutWork) : State := s.runFut ws (s.futFuel ws.length)

/-- WAITING futures that a full spill ring kept back are admitted as room frees (R330). -/
def State.retryAdmissions (s : State) : State :=
  let kept := s.dies.flatMap (fun d => d.2.futures.filterMap (fun p =>
    if p.2.live && p.2.state == .waiting && p.2.after.all (fun a => s.afterState p.2.ready a == some .ok) then
      some (s.mkHandle d.1 p.1 p.2.gen) else none))
  if kept = [] then s else s.futDo (kept.map FutWork.settle)

end Sys2Proof.Machine
end

