-- ==== Sys2Proof/Machine/Ending.lean ====
section
/-! DEFINITION. How launches, sections and threads end by a fault, and how a thread parks (R168, R300, R302, R310,
R320-R322). -/
namespace Sys2Proof.Machine

/-! ### Launches and sections that fail -/

/-- A launch fails with a code (R168): no further group is placed, its threads end, its parked engine work ends. -/
def State.failLaunch (s : State) (l : Nat) (c : Code) : State :=
  match s.launch? l with
  | none => s
  | some x =>
    match x.state with
    | .failed _ | .ended => s
    | .waiting | .queued | .placing | .running =>
      let s := (s.setLaunch l { x with state := .failed c }).unqueue l
      let (back, s) := s.withdrawSpawns l
      let s := s.futDo back
      let s := s.mapDies (fun d => { d with saved := d.saved.filter (fun v => v.launch != l) })
      let s := (s.groupsOf l).foldl (fun s g => (s.threadsOf g).foldl (fun s t => s.exitThread t)
        (s.modGroup g (fun y => { y with ending := true }))) s
      s.endParkedOf l

/-- The perch context runs nothing more; its results and pending writes are discarded (R320). -/
def State.idleContext (s : State) (t : Nat) : State :=
  let s := s.discardResults t
  ((s.modDie (dieOfThread t) (·.detach t)).leaveWalks (.thread t)).modThread t
    (fun th => { th.clearLatches with status := .idle, pending := [] })

/-- The result of a section whose release is complete goes to its sender; the perch takes the next request (R320). -/
def State.finishSection (s : State) (lc : Nat) (r : ShipReq) (code under : Code) (words : List Word) : State :=
  let s := s.modPerch lc (fun p => { p with running := none, entered := false, cycles := 0, ending := none })
  { s with shipResults := s.shipResults ++ [⟨lc, r, code, under, words⟩] }

/-- A section ends: ST.nt stores drained, the release of R320, and its result goes to the sender; one at `.sys` waits first
for what is on its way to other devices (R326, R407). -/
def State.endSection (s : State) (lc : Nat) (code under : Code) (words : List Word) : State :=
  let core := 1024 + lc
  let t := lcThreadKey lc 0
  match (s.perch lc).running, (s.perch lc).ending with
  | some r, none =>
    let s := (((s.drainNt core t).releasePkg core).idleContext t)
    if r.sysScope && s.remotePending t then
      s.modPerch lc (fun p => { p with entered := false, ending := some (code, under, words) })
    else s.finishSection lc r code under words
  | _, _ => s

/-- A thread ends by a fatal fault (R168, R310, R322). -/
def State.endFatal (s : State) (t : Nat) (c : Code) : State :=
  if isPerchCtx t then s.endSection ((t - lcThreadBase) / 4) .sectionFault c [0#32, 0#32, 0#32, 0#32]
  else if threadOnLC t then s.idleContext t
  else
    match s.groupOf t with
    | some g => s.failLaunch g.launch c
    | none => s

/-- A fatal fault of a thread: its record, then its end. A section's record is written for TABLE_REMOTE alone. -/
def State.fatalThread (s : State) (t : Nat) (va pc : DWord) (c : Code) (kind : Access) (level : Nat) (entry : DWord) :
    State :=
  let s :=
    if isPerchCtx t && c != .tableRemote then s
    else s.fileFault (dieOfThread t) (s.threadFault t true va pc c kind level entry)
  s.endFatal t c

/-- A translation fault of a thread (R302): it parks, with a record; TABLE_REMOTE is fatal. -/
def State.parkThread (s : State) (t : Nat) (va pc : DWord) (c : Code) (kind : Access) (level : Nat) (entry : DWord) :
    State :=
  if c = .tableRemote then s.fatalThread t va pc c kind level entry
  else if s.taskReclaimed t then s.exitThread t
  else
    (s.modThread t (fun th => { th with status := .faultParked })).fileFault (dieOfThread t)
      (s.threadFault t false va pc c kind level entry)

/-- A walk parked on an entry under migration parks the thread without a record (R300). -/
def State.parkMig (s : State) (t : Nat) : State :=
  if s.taskReclaimed t then s.exitThread t else s.modThread t (fun th => { th with status := .migParked })

/-! ### The walker queue (R300) -/

/-- A party of a request. -/
def Req.walker (q : Req) (who : Party) (probe mtlb : Bool) : Walker := ⟨who, q.va, q.sup, q.core, probe, mtlb, q.clean, q.classify⟩

/-- A miss of a party enters its walker's queue, or joins the walk of the same granule and kind, a parked one too; the answer is
whether that walk is parked, and none where the queue is full. -/
def State.joinWalk (s : State) (q : Req) (me : Walker) : Option Bool × State :=
  let w := walkerOfCore q.core
  let same (k : Walk) : Bool := k.va.toNat / 65536 == q.va.toNat / 65536 && k.kind == q.kind
  let c := s.cluster w
  if c.walkq.any same then
    (some (c.walkq.any (fun k => same k && k.parked)), ((s.modCluster w (fun c =>
      { c with walkq := c.walkq.map (fun k => if same k then { k with parties := k.parties ++ [me] } else k) })).pmc
        q.core 0x20 1 q.who).pmc q.core 0x22 1 q.who)
  else if c.walkq.length < 32 then
    (some false, ((s.modCluster w (fun c =>
      { c with walkq := c.walkq ++ [⟨q.va, q.kind, [me], false⟩] })).pmc
        q.core 0x20 1 q.who).pmc q.core 0x21 1 q.who)
  else (none, s)

/-- A thread's miss: the thread is held while its walk runs, and parked with a parked one; a full queue leaves it ready. -/
def State.queueWalkAs (s : State) (t : Nat) (q : Req) (probe : Bool) : State :=
  match s.joinWalk q (q.walker (.thread t) probe false) with
  | (some true, s) => s.parkMig t
  | (some false, s) => s.modThread t (fun th => { th with status := .walking })
  | (none, s) => s

/-- A miss whose fault is the thread's. -/
def State.queueWalk (s : State) (t : Nat) (q : Req) : State := s.queueWalkAs t q false

/-- The fetch of a word fails for a thread: it parks, is walked for, or waits (R33 check 1, R302). -/
def State.fetchFails (s : State) (t : Nat) (pc : DWord) (sup : Bool) (f : Fetched) : State :=
  match f with
  | .word _ => s
  | .miss va => s.queueWalk t (fetchReq (coreOfThread t) va sup)
  | .fails va (.fault c l e) => s.parkThread t va pc c .fetch l e
  | .fails _ .mig => s.parkMig t
  | .fails _ .wait | .fails _ (.ok _ _ _) => s

/-- The fault that a walk of a party has ended in, taken. -/
def State.takeWalked (s : State) (p : Party) (va : DWord) (kind : Access) : Option Walked × State :=
  match s.walked.find? (fun w => w.who == p && w.granule == va.toNat / 65536 && w.kind == kind) with
  | some w => (some w, { s with walked := s.walked.erase w })
  | none => (none, s)

/-- A thread's translation whose fault its instruction takes itself: by the buffer, or by a walk that the thread waits for
before its instruction starts over. -/
def State.probe (s : State) (t : Nat) (b : Buf) (q : Req) (k : Xl → State → State) : State :=
  match s.xlateHit b q with
  | (some r, s) => k r s
  | (none, s) =>
    match s.takeWalked (.thread t) q.va q.kind with
    | (some w, s) => k (.fault w.code w.level w.entry) s
    | (none, s) => { s.queueWalkAs t q true with retry := true }

/-- The word at an address that an instruction of a thread reads; a fault is the instruction's (R122, R124, R127, R201). -/
def State.probeWord (s : State) (t : Nat) (a : DWord) (sup : Bool) (k : Fetched → State → State) : State :=
  let core := coreOfThread t
  match s.fetchWord false core a sup with
  | (.miss va, s) =>
    match s.takeWalked (.thread t) va .fetch with
    | (some w, s) => k (.fails va (.fault w.code w.level w.entry)) s
    | (none, s) => { s.queueWalkAs t (fetchReq core va sup) true with retry := true }
  | (f, s) => k f s

end Sys2Proof.Machine
end

