-- ==== Sys2Proof/Machine/Ops.lean ====
section
/-! DEFINITION. The operations every meaning shares: taking a trap and returning from one (R169-R171), completing an
instruction (R128), and results on their way. -/
namespace Sys2Proof.Machine

/-! ### The trap frame -/

/-- How an access of the part to a thread's trap frame ends: bytes, a fault, or a translation that has to wait. -/
inductive FrameRead where
  | bytes (bs : List Byte)
  | fails
  | mig
  | wait
  deriving DecidableEq, Repr

/-- Where a frame's translation leads: memory of this package alone holds frames. -/
def frameXl (r : Xl) : Xl :=
  match r with
  | .ok e l pa => if (homeDie pa).isSome then .ok e l pa else .fault .protection l e
  | .fault c l e => .fault c l e
  | .mig => .mig
  | .wait => .wait

/-- The request of an access to a frame, at supervisor privilege (R170). -/
def frameReq (t : Nat) (va : DWord) (kind : Access) : Req := dataReq (coreOfThread t) va kind 8 true

/-- The frame's translation by the buffer, or by a walk that has ended in a fault; none is a miss (R300). -/
def State.frameAt (s : State) (t : Nat) (va : DWord) (kind : Access) : Option Xl × State :=
  match s.xlateHit (.data (coreOfThread t)) (frameReq t va kind) with
  | (some r, s) => (some (frameXl r), s)
  | (none, s) =>
    match s.takeWalked (.thread t) va kind with
    | (some w, s) => (some (.fault w.code w.level w.entry), s)
    | (none, s) => (none, s)

/-- The frame's translation, walked at once on a miss: for what the part does with a frame of itself. -/
def State.frameNow (s : State) (t : Nat) (va : DWord) (kind : Access) : Xl × State :=
  match s.xlate (.data (coreOfThread t)) (frameReq t va kind) with
  | (r, s) => (frameXl r, s)

/-- A miss at a frame: the thread waits for the walk, and what it was about starts over (R300). -/
def State.frameMiss (s : State) (t : Nat) (va : DWord) (kind : Access) : State :=
  { s.queueWalkAs t (frameReq t va kind) true with retry := true }

/-- `n` bytes of a frame, within one line. -/
def State.frameRead (s : State) (t : Nat) (va : DWord) (n : Nat) : FrameRead × State :=
  match s.frameNow t va .read with
  | (.ok e _ pa, s) =>
    let (bs, s) := s.coreLoad (coreOfThread t) pa n e false (some true)
    (.bytes bs, s)
  | (.fault _ _ _, s) => (.fails, s)
  | (.mig, s) => (.mig, s)
  | (.wait, s) => (.wait, s)

/-- A store by the part in a thread's name: a full write-combining buffer sends its oldest entry first. -/
def State.storeNow (s : State) (core t pa : Nat) (bs : List Byte) (e : DWord) (who : Option Bool) : State :=
  let s := if s.storeRoom core pa e false then s else s.wcSend core 0
  s.coreStore core t pa bs e false false who

/-- Eight bytes of a frame written, the thread's own store (R170); nothing where the frame does not translate. -/
def State.frameWrite8 (s : State) (t : Nat) (va v : DWord) : State :=
  match s.frameNow t va .write with
  | (.ok e _ pa, s) => s.storeNow (coreOfThread t) t pa (leBytes v.toNat 8) e (some true)
  | (.fault _ _ _, s) | (.mig, s) | (.wait, s) => s

/-- A list of doublewords written to a frame from an offset. -/
def State.frameWrites (s : State) (t : Nat) (va : DWord) : List DWord → State
  | [] => s
  | v :: vs => (s.frameWrite8 t va v).frameWrites t (va + 8#64) vs

/-- A loop-stack entry that may be absent. -/
def loopAt (l : List LoopEntry) (i : Nat) : LoopEntry := (l[i]?).getD ⟨0#64, 0#64, 0#32⟩

/-- CODE and STATE of a frame: STATE in the high half (R169). -/
def frameState (code : Code) (arg : BitVec 16) (busy : Bool) (depth : Nat) (sup : Bool) : DWord :=
  BitVec.ofNat 64 ((codeNum code + arg.toNat * 65536) +
    2 ^ 32 * ((if busy then 256 else 0) + depth * 4 + (if sup then 1 else 0)))

/-- The fields of a frame from offset 0x08 to 0x77 (R169). -/
def Thread.frameWords (th : Thread) (fpc rpc va : DWord) (code : Code) (arg : BitVec 16) : List DWord :=
  let e (i : Nat) := loopAt th.loop i
  [fpc, rpc, va, frameState code arg true th.depth th.sup,
    (e 0).start, (e 1).start, (e 2).start, (e 3).start, (e 0).last, (e 1).last, (e 2).last, (e 3).last,
    (e 1).count ++ (e 0).count, (e 3).count ++ (e 2).count]

/-- A handler address that trap entry accepts (R170). -/
def handlerOk (h : DWord) : Bool := h != 0#64 && h.extractLsb' 0 2 == 0#2 && h.extractLsb' 55 9 == 0#9

/-- The thread as trap entry leaves it (R170). -/
def Thread.entered (th : Thread) (code : Code) (arg : BitVec 16) (va handler : DWord) : Thread :=
  { th.clearLatches with
    trapCode := arg ++ BitVec.ofNat 16 (codeNum code), trapPc := th.pc, trapVa := va
    sup := true, depth := 0, pc := handler, status := .ready, calling := none }

/-- Taking a trap (R169, R170): the pc, the resume pc, the faulting address, the code, the loop stack and the
privilege go into the thread's frame; the thread goes on at the handler at supervisor privilege. While TRAPVEC is 0,
and where the frame is busy, does not translate or holds no handler, the trap is fatal with its own code. -/
def State.takeTrapAt (s : State) (t : Nat) (code : Code) (arg : BitVec 16) (va rpc : DWord) : State :=
  match s.thread? t with
  | none => s
  | some th =>
    let fatal (s : State) : State := s.fatalThread t va th.pc code .read 0 0#64
    if s.pcb.trapvec = 0#64 then fatal s
    else
      match s.frameAt t th.ctxbase .write with
      | (none, s) => s.frameMiss t th.ctxbase .write
      | (some (.fault _ _ _), s) => fatal s
      | (some .mig, s) => s.parkMig t
      | (some .wait, s) => s
      | (some (.ok _ _ _), s) =>
        match s.frameAt t (th.ctxbase + 0x78#64) .write with
        | (none, s) => s.frameMiss t (th.ctxbase + 0x78#64) .write
        | (some (.fault _ _ _), s) => fatal s
        | (some .mig, s) => s.parkMig t
        | (some .wait, s) => s
        | (some (.ok _ _ _), s) =>
          match s.frameRead t (th.ctxbase + 0x20#64) 8 with
          | (.bytes cs, s) =>
            match s.frameRead t th.ctxbase 8 with
            | (.bytes hs, s) =>
              let handler : DWord := BitVec.ofNat 64 (leNat hs)
              if bits (leNat cs) 40 1 = 1 ∨ handlerOk handler = false then fatal s
              else
                (s.frameWrites t (th.ctxbase + 8#64) (th.frameWords th.pc rpc va code arg)).modThread t
                  (fun th => th.entered code arg va handler)
            | (_, s) => fatal s
          | (_, s) => fatal s

/-- A fault that traps at its own pc (R169). -/
def State.takeTrap (s : State) (t : Nat) (code : Code) (va : DWord) : State :=
  match s.thread? t with
  | some th => s.takeTrapAt t code 0#16 va th.pc
  | none => s

/-- The loop stack that a frame gives back. -/
def loopOfFrame (st en ct : List Byte) : List LoopEntry :=
  (List.range 4).map (fun i =>
    ⟨BitVec.ofNat 64 (fieldAt st (8 * i) 8), BitVec.ofNat 64 (fieldAt en (8 * i) 8),
      BitVec.ofNat 32 (fieldAt ct (4 * i) 4)⟩)

/-- Bytes of a frame read eight at a time; the first failure decides. -/
def State.frameReads (s : State) (t : Nat) (va : DWord) : Nat → FrameRead × State
  | 0 => (.bytes [], s)
  | n + 1 =>
    match s.frameRead t va 8 with
    | (.bytes a, s) =>
      match s.frameReads t (va + 8#64) n with
      | (.bytes b, s) => (.bytes (a ++ b), s)
      | (r, s) => (r, s)
    | (r, s) => (r, s)

/-- The code that TRET.fatal ends a group with: SOFTWARE_TRAP for 0 and for a code that R9 does not list (R171). -/
def fatalCode (n : Nat) : Code :=
  if n = 0 then .softwareTrap
  else match codeOfNum n with
    | some c => c
    | none => .softwareTrap

/-- The thread as a return from a trap leaves it (R171): `f` is the frame from offset 0x08. -/
def Thread.returned (th : Thread) (f : List Byte) : Thread :=
  let st := fieldAt f 0x1C 4
  { th.clearLatches with
    loop := loopOfFrame (f.drop 0x20) (f.drop 0x40) (f.drop 0x60), depth := bits st 2 3
    sup := bits st 0 1 == 1, pc := BitVec.ofNat 64 (fieldAt f 0x08 8) }

/-- A frame's translation that did not succeed, for the TRET that reads or writes it (R140, R302). -/
def State.frameFails (s : State) (t : Nat) (va pc : DWord) (kind : Access) (r : Option Xl) : State :=
  match r with
  | none => s.frameMiss t va kind
  | some (.ok _ _ _) | some .wait => s
  | some (.fault .wsReadonly _ _) => s.takeTrap t .wsReadonly va
  | some (.fault c l e) => s.parkThread t va pc c kind l e
  | some .mig => s.parkMig t

/-- What a TRET refuses in a frame read from offset 0x08 (R171). -/
def frameRefused (f : List Byte) : Bool :=
  let rpc := fieldAt f 0x08 8
  let st := fieldAt f 0x1C 4
  rpc % 4 != 0 || decide (2 ^ 55 ≤ rpc) || decide (4 < bits st 2 3) || bits st 9 23 != 0 || bits st 5 3 != 0 || bits st 1 1 != 0

/-- Returning from a trap (R171). The frame is read; only a return that goes on writes to it. A frame that does not
translate parks the TRET; so does its second half, where a page ends between them. -/
def State.trapReturn (s : State) (t : Nat) (fatal : Bool) : State :=
  match s.thread? t with
  | none => s
  | some th =>
    match s.frameAt t th.ctxbase .read with
    | (some (.ok _ _ _), s) =>
      match s.frameAt t (th.ctxbase + 0x78#64) .read with
      | (some (.ok _ _ _), s) =>
        match s.frameReads t (th.ctxbase + 8#64) 14 with
        | (.bytes f, s) =>
          if fatal then s.fatalThread t 0#64 th.pc (fatalCode (fieldAt f 0x18 2)) .read 0 0#64
          else if frameRefused f then s.takeTrap t .illegalOperand 0#64
          else
            match s.frameAt t (th.ctxbase + 0x20#64) .write with
            | (some (.ok _ _ _), s) =>
              let st := fieldAt f 0x1C 4
              let v : DWord := BitVec.ofNat 64 (fieldAt f 0x18 4 + 2 ^ 32 * (st - 256 * bits st 8 1))
              (s.frameWrite8 t (th.ctxbase + 0x20#64) v).modThread t (fun th => th.returned f)
            | (r, s) => s.frameFails t (th.ctxbase + 0x24#64) th.pc .write r
        | (.fails, s) => s.takeTrap t .protection th.ctxbase
        | (.mig, s) => s.parkMig t
        | (.wait, s) => s
      | (r, s) => s.frameFails t (th.ctxbase + 0x40#64) th.pc .read r
    | (r, s) => s.frameFails t th.ctxbase th.pc .read r

/-! ### Completing an instruction -/

/-- The loop-back check at a word (R128): the pc of a pass that goes on, if one does, and the thread with its loop stack
as the check leaves it. The fuel is the depth. -/
def Thread.loopBack (th : Thread) : Nat → Option DWord × Thread
  | 0 => (none, th)
  | k + 1 =>
    if th.depth = 0 then (none, th)
    else
      let top := loopAt th.loop (th.depth - 1)
      if th.pc ≠ top.last then (none, th)
      else
        let c := top.count - 1#32
        let th := { th with loop := th.loop.set (th.depth - 1) { top with count := c } }
        if 2 ≤ top.count.toNat then (some top.start, th)
        else { th with depth := th.depth - 1 }.loopBack k

/-- A thread completes a word that does not transfer control: the loop-back check, then the pc advances by the word and
the literal it reads. A loop-back is a reclamation point (R128, R352). -/
def State.advance (s : State) (t len : Nat) : State :=
  match s.thread? t with
  | none => s
  | some th =>
    match th.loopBack 4 with
    | (some start, th) =>
      if s.taskReclaimed t then s.exitThread t else s.setThread t { th with pc := start }
    | (none, th) => s.setThread t { th with pc := th.pc + BitVec.ofNat 64 len }

/-- D becomes pending. -/
def State.pendD (s : State) (t : Nat) (d : Dest) (n : Nat) : State :=
  match destReg d with
  | some r => s.modThread t (·.pend r n)
  | none => s

/-- A result on its way to registers (R141): the register becomes pending, the value lands with LOAD_LANDS. -/
def State.sendResult (s : State) (t : Nat) (r : Option Nat) (ws : List Word) : State :=
  match r with
  | some n => { s.modThread t (·.pend n ws.length) with landings := s.landings ++ [⟨t, some n, ws, none, none, none⟩] }
  | none => s

end Sys2Proof.Machine
end

