-- ==== Sys2Proof/Machine/Operands.lean ====
section
/-! DEFINITION. Reading operands (R18-R20, R26, R31), special registers (R53-R55, R119, R178, R308, R309), writing
destinations and latches (R15, R21, R77), and how a computing instruction ends (R75, R78). -/
namespace Sys2Proof.Machine

/-- The outcome of a step. -/
abbrev Out := Host.Outcome State Fault Refusal

/-- A word instruction acts for the current thread. -/
def onThread (s : State) (f : Nat → Thread → State) : Out :=
  match s.thread? s.cur with
  | some th => .next (f s.cur th)
  | none => .fault .noThread

/-! ### Constants -/

/-- Word `n` of constant bank `b` as a thread reads it; zero on a latency core (R31). -/
def State.constWord (s : State) (t b n : Nat) : Word :=
  match s.groupOf t with
  | none => 0#32
  | some g =>
    match (s.core g.core).residents.find? (fun r => r.launch == g.launch) with
    | some r => cellGet r.banks 0#32 (256 * b + n)
    | none => 0#32

/-! ### Special registers -/

/-- WSREF: the refresh group of the next slot (R53, R295). -/
def wsref (timebase : DWord) : Word :=
  let n := (timebase.toNat / 425 + 1) % 64
  if n < 24 then BitVec.ofNat 32 (2 ^ n) else 0#32

/-- The Chain position of a throughput core: die [9:8], die-local position [7:0] (R53, R254). -/
def chainPos (core : Nat) : Nat :=
  let c := core / 4 % 64
  let y := c / 8
  let x := c % 8
  core / 256 * 256 + 4 * (8 * y + if y % 2 = 0 then x else 7 - x) + core % 4

/-- FAULTQ of a die (R308). -/
def Die.faultq (x : Die) : Word :=
  let oldest := match x.records with
    | r :: _ => r.index
    | [] => 0
  let full := if x.attached.any (fun a => a.index == none) then 1 else 0
  BitVec.ofNat 32 (min x.records.length 0xFFFF + oldest * 65536 + full * 2 ^ 26)

/-- Engine operations that a core issued and that have not landed: whether any, and whether one of them is parked. A started
slice is of the collective of its object, whichever core issued the last slice (R225). -/
def State.engineWork (s : State) (core : Nat) : Bool × Bool :=
  let c := s.cluster (clusterOfCore core)
  let ops := c.copyq.filter (fun o => o.core == core)
  let ms := c.matq.filter (fun o => o.core == core)
  (!(ops.isEmpty && ms.isEmpty && (s.core core).scanq.isEmpty) || c.slices.any (fun x => x.started && x.core == core),
    ops.any (·.parked) || ms.any (·.parked) ||
      c.slices.any (fun x => x.started && x.core == core &&
        c.copyq.any (fun o => o.parked && o.kind == .collective x.obj)))

/-- A request that stores to another device (R166, R178). -/
def RemoteKind.stores (k : RemoteKind) : Bool :=
  match k with
  | .store | .atom _ _ _ _ | .mcast _ _ _ => true
  | _ => false

/-- Every store of a core's threads has been performed (R166, R178). -/
def State.storesDone (s : State) (core : Nat) : Bool :=
  (s.core core).wc.isEmpty && (s.core core).bankq.isEmpty && !s.forwarded.any (fun f => f.core == core) &&
    !s.remotes.any (fun r => coreOfThread r.thread == core && r.kind.stores)

/-- CORESTAT (R178); zero on a latency core. -/
def State.corestat (s : State) (core : Nat) : Word :=
  if isLC core then 0#32
  else
    let c := s.core core
    let (busy, parked) := s.engineWork core
    let groups := (s.groups.filter (fun g => g.2.core == core)).length
    let quiet := c.halted && !busy && s.storesDone core
    BitVec.ofNat 32 ((if quiet then 1 else 0) + (if c.halted then 2 else 0) + (if parked then 4 else 0) +
      groups * 256 + c.residents.length * 2 ^ 17)

/-- Counter `k` of a core (R309). -/
def Core.pmc (c : Core) (k : Nat) : DWord :=
  match k with
  | 0 => c.pmc0
  | 1 => c.pmc1
  | 2 => c.pmc2
  | _ => c.pmc3

/-- Selector `k` of a core (R309). -/
def Core.pmsel (c : Core) (k : Nat) : Word :=
  match k with
  | 0 => c.pmsel0
  | 1 => c.pmsel1
  | 2 => c.pmsel2
  | _ => c.pmsel3

/-- A special register as a thread reads it (R53, R55). CLOCKLO's effect on the clock shadow is `readShadow`. -/
def State.sreg (s : State) (t : Nat) (th : Thread) (n : Nat) : Word :=
  let core := coreOfThread t
  let lc := threadOnLC t
  let w (x : Nat) : Word := BitVec.ofNat 32 x
  let fut := match s.launchOf t with
    | some l => l.future
    | none => 0#64
  match n with
  | 0 => w th.tid
  | 1 => w (th.tid % 32)
  | 2 => w (th.tid / 32 % 4)
  | 3 => w (if lc then 1 else (s.groupOf t).elim 1 (·.gsize))
  | 4 => w (if lc then 0 else (s.groupOf t).elim 0 (·.index))
  | 5 => w (if lc then 1 else (s.launchOf t).elim 1 (·.ngroup))
  | 6 => w (if lc then 0x100 + (core - 1024) % 16 else core % 256)
  | 7 => w (clusterOfCore core % 64)
  | 8 => w (dieOfCore core)
  | 9 => s.device.setWidth 32
  | 10 => 32#32
  | 11 => th.cbank.setWidth 32
  | 12 => th.seed
  | 13 => (s.core core).ltime.setWidth 32
  | 14 => s.timebase.setWidth 32
  | 15 => th.shadow
  | 16 => fut.setWidth 32
  | 17 => fut.extractLsb' 32 32
  | 18 => w (if lc then th.lcPrio else (s.groupOf t).elim 0 (·.prio))
  | 19 => wsref s.timebase
  | 20 => w th.budget
  | 21 => if lc then 0xFFFFFFFF#32 else w (chainPos core)
  | 22 => if lc then w th.lcLaunch else (s.launchOf t).elim 0#32 (·.ident)
  | 32 => th.ctxbase.setWidth 32
  | 33 => th.ctxbase.extractLsb' 32 32
  | 34 => th.trapCode
  | 35 => th.trapPc.setWidth 32
  | 36 => th.trapPc.extractLsb' 32 32
  | 37 => th.trapVa.setWidth 32
  | 38 => th.trapVa.extractLsb' 32 32
  | 39 => (s.die (dieOfCore core)).faultq
  | 40 => if th.sup then 1#32 else 0#32
  | 41 => s.corestat core
  | 48 => ((s.core core).pmc 0).setWidth 32
  | 49 => ((s.core core).pmc 0).extractLsb' 32 32
  | 50 => ((s.core core).pmc 1).setWidth 32
  | 51 => ((s.core core).pmc 1).extractLsb' 32 32
  | 52 => ((s.core core).pmc 2).setWidth 32
  | 53 => ((s.core core).pmc 2).extractLsb' 32 32
  | 54 => ((s.core core).pmc 3).setWidth 32
  | 55 => ((s.core core).pmc 3).extractLsb' 32 32
  | 56 => (s.core core).pmsel0
  | 57 => (s.core core).pmsel1
  | 58 => (s.core core).pmsel2
  | 59 => (s.core core).pmsel3
  | _ => 0#32

/-- A read of CLOCKLO copies the high half of the timebase into the clock shadow (R54). -/
def State.readShadow (s : State) (t n : Nat) : State :=
  if n = 14 then s.modThread t (fun th => { th with shadow := s.timebase.extractLsb' 32 32 }) else s

/-- The events of R309. -/
def pmEvents : List Nat :=
  [0x00, 0x01, 0x02, 0x03, 0x10, 0x11, 0x12, 0x13, 0x14, 0x15, 0x16, 0x17, 0x18, 0x19, 0x1A, 0x20, 0x21, 0x22, 0x23,
    0x24, 0x30]

/-- A value that a special register's own rule refuses (R32, R55, R309). -/
def sregRefuses (n : Nat) (v : Word) : Bool :=
  match n with
  | 11 => decide (15 < v.toNat)
  | 32 => v.extractLsb' 0 6 != 0#6
  | 33 => v.extractLsb' 23 9 != 0#9
  | 40 => v.extractLsb' 1 31 != 0#31
  | 56 | 57 | 58 | 59 => v.extractLsb' 8 21 != 0#21 || !pmEvents.contains (bits v.toNat 0 8)
  | _ => false

/-- Write half `hi` of a doubleword. -/
def setHalf (x : DWord) (hi : Bool) (v : Word) : DWord :=
  if hi then v ++ x.setWidth 32 else x.extractLsb' 32 32 ++ v

/-- Write a special register (R32, R52, R55, R70, R119): a refused value is not given here, and read-only registers
are never written. -/
def State.writeSreg (s : State) (t n : Nat) (v : Word) : State :=
  let core := coreOfThread t
  match n with
  | 11 => s.modThread t (fun th => { th with cbank := v.setWidth 4 })
  | 12 => s.modThread t (fun th => { th with seed := if v = 0#32 then 1#32 else v })
  | 32 => s.modThread t (fun th => { th with ctxbase := setHalf th.ctxbase false v })
  | 33 => s.modThread t (fun th => { th with ctxbase := setHalf th.ctxbase true v })
  | 40 => s.modThread t (fun th => { th with sup := th.sup && v.getLsbD 0 })
  | 48 => s.modCore core (fun c => { c with pmc0 := setHalf c.pmc0 false v })
  | 49 => s.modCore core (fun c => { c with pmc0 := setHalf c.pmc0 true v })
  | 50 => s.modCore core (fun c => { c with pmc1 := setHalf c.pmc1 false v })
  | 51 => s.modCore core (fun c => { c with pmc1 := setHalf c.pmc1 true v })
  | 52 => s.modCore core (fun c => { c with pmc2 := setHalf c.pmc2 false v })
  | 53 => s.modCore core (fun c => { c with pmc2 := setHalf c.pmc2 true v })
  | 54 => s.modCore core (fun c => { c with pmc3 := setHalf c.pmc3 false v })
  | 55 => s.modCore core (fun c => { c with pmc3 := setHalf c.pmc3 true v })
  | 56 => s.modCore core (fun c => { c with pmsel0 := v })
  | 57 => s.modCore core (fun c => { c with pmsel1 := v })
  | 58 => s.modCore core (fun c => { c with pmsel2 := v })
  | 59 => s.modCore core (fun c => { c with pmsel3 := v })
  | _ => s

/-! ### Operands -/

/-- A 32-bit source read at a width (R20). -/
def extend32 (w64 signed : Bool) (v : Word) : DWord := if w64 && signed then v.signExtend 64 else v.setWidth 64

/-- The value of an operand (R18-R20): 64 bits wide, or 32 bits in the low half. `imm` is what 0x300 reads (R26). -/
def State.operand (s : State) (t : Nat) (th : Thread) (w64 signed : Bool) (imm : DWord) (o : Operand) : DWord :=
  match o with
  | .gpr n => if w64 then th.pair n.toNat else (th.reg n.toNat).setWidth 64
  | .const n =>
    let b := th.cbank.toNat
    if w64 then s.constWord t b (n.toNat + 1) ++ s.constWord t b n.toNat else (s.constWord t b n.toNat).setWidth 64
  | .latch n => (th.latch n.toNat).value
  | .pred n => if th.pred n.toNat then 1#64 else 0#64
  | .sreg n => extend32 w64 signed (s.sreg t th n.toNat)
  | .small v => v.signExtend 64
  | .imm => imm
  | .litLo v => extend32 w64 signed (v.setWidth 32)
  | .litHi v => extend32 w64 signed (v.extractLsb' 32 32)
  | .lit v => v

/-- An operand's side effect: a read of CLOCKLO. -/
def State.afterRead (s : State) (t : Nat) (o : Operand) : State :=
  match o with
  | .sreg n => s.readShadow t n.toNat
  | .gpr _ | .const _ | .latch _ | .pred _ | .small _ | .imm | .litLo _ | .litHi _ | .lit _ => s

/-- Read an operand, its side effect included. -/
def State.read (s : State) (t : Nat) (w64 signed : Bool) (imm : DWord) (o : Operand) : DWord × State :=
  match s.thread? t with
  | some th => (s.operand t th w64 signed imm o, s.afterRead t o)
  | none => (0#64, s)

/-- Read a 32-bit operand that is no immediate. -/
def State.read32 (s : State) (t : Nat) (o : Operand) : Word × State :=
  let (v, s) := s.read t false false 0#64 o
  (v.setWidth 32, s)

/-- Read a 64-bit operand that is no immediate (an address, a handle). -/
def State.read64 (s : State) (t : Nat) (o : Operand) : DWord × State := s.read t true false 0#64 o

/-- The four words of a quad; 0x0FF gives zeros (R314). -/
def Thread.quad (th : Thread) (o : Operand) : List Word :=
  match o with
  | .gpr n => if n.toNat < 240 then (List.range 4).map (fun i => th.reg (n.toNat + i)) else List.replicate 4 0#32
  | .const _ | .latch _ | .pred _ | .sreg _ | .small _ | .imm | .litLo _ | .litHi _ | .lit _ => List.replicate 4 0#32

/-! ### Results -/

/-- The value pushed into the latches for a result: bit 0 for a predicate, else its low 64 bits (R21, R77). -/
def pushValue (d : Dest) (n : Nat) (v : QWord) : DWord :=
  match d with
  | .pred _ => if v.getLsbD 0 then 1#64 else 0#64
  | .gpr _ | .sreg _ | .none | .latch => if n = 1 then (v.setWidth 32).setWidth 64 else v.setWidth 64

/-- A result of `n` words written to D (R15, R77). -/
def State.putDest (s : State) (t : Nat) (d : Dest) (n : Nat) (v : QWord) : State :=
  match d with
  | .gpr r => s.modThread t (fun th => th.setRegs r.toNat (wordsOf v.toNat n))
  | .pred p => s.modThread t (fun th => th.setPred p.toNat (v.getLsbD 0))
  | .sreg k => s.writeSreg t k.toNat (v.setWidth 32)
  | .none | .latch => s

/-- A destination whose own rule refuses the result (R32, R55). -/
def destRefuses (d : Dest) (v : QWord) : Bool :=
  match d with
  | .sreg k => sregRefuses k.toNat (v.setWidth 32)
  | .gpr _ | .pred _ | .none | .latch => false

/-- A computing instruction of classes 0x0-0x3 ends (R75, R78): D is written, the latches are pushed, the pc advances;
a refused special-register value faults and leaves everything as it stood in `s0`. -/
def State.retire (s0 s : State) (t : Nat) (o : Opnds) (n : Nat) (v : QWord) : State :=
  if destRefuses o.d v then s0.takeTrap t .illegalOperand 0#64
  else ((s.putDest t o.d n v).modThread t (fun th => th.push (pushValue o.d n v))).advance t o.len

end Sys2Proof.Machine
end

