-- ==== Sys2Proof/Machine/Control.lean ====
section
/-! DEFINITION. Class 0x4: control flow (R120-R134), and the two words that are not instructions (R28, R30). -/
namespace Sys2Proof.Machine

/-! ### Targets -/

/-- PC + 12 × OFF24 (R122). -/
def wordTarget (pc : DWord) (o : Opnds) : DWord := pc + 12#64 * o.imm.signExtend 64

/-- The checks of an indirect target (R122). -/
def targetFault (a : DWord) : Option Code :=
  if a.extractLsb' 0 2 ≠ 0#2 then some .misaligned else if a.extractLsb' 55 9 ≠ 0#9 then some .protection else none

/-- The loop stack as a branch to `target` leaves it (R129): the fuel is the depth. -/
def Thread.unwind (th : Thread) (target : DWord) : Nat → Thread
  | 0 => th
  | k + 1 =>
    if th.depth = 0 then th
    else
      let top := loopAt th.loop (th.depth - 1)
      if top.start.toNat ≤ target.toNat ∧ target.toNat ≤ top.last.toNat then th
      else ({ th with depth := th.depth - 1 } : Thread).unwind target k

/-- A taken BRA or BRX (R129). -/
def Thread.branch (th : Thread) (target pc : DWord) : Thread := { th.unwind target 4 with pc := pc }

/-! ### Entry words (R29, R30) -/

/-- The uses of an entry word. -/
inductive EntryUse where | call | spawn | shipped | kernel
  deriving DecidableEq, Repr

/-- The flag of a use (R29). -/
def entryFlag (e : Entry) (u : EntryUse) : Bool :=
  match u with
  | .call => e.callable
  | .spawn => e.spwn
  | .shipped => e.sect
  | .kernel => e.kern

/-- An entry word without a reserved value, named for a use (R29). -/
def entryShaped (e : Entry) (u : EntryUse) : Bool :=
  e.opc == 0xFFE#12 && e.rsvG == 0#4 && e.rsvD == 0#12 && e.rsvC == 0#3 && e.rsvM == 0#16 && e.bud != 15#4 && entryFlag e u

/-- A well-formed entry word for a use (R30). -/
def entryOk (e : Entry) (u : EntryUse) : Bool :=
  entryShaped e u && decide (e.spad.toNat ≤ 8192) && decide (e.bars.toNat ≤ 64)

/-- Register budget of an entry (R29). -/
def entryBudget (e : Entry) : Nat := 16 * (e.bud.toNat + 1)

/-- Scratchpad bytes of an entry (R29). -/
def entrySpad (e : Entry) : Nat := 256 * e.spad.toNat

/-- What an entry declares is within what a thread's group holds (R124). -/
def State.entryFits (s : State) (t : Nat) (th : Thread) (e : Entry) : Bool :=
  let (spad, bars) := match s.groupOf t with
    | some g => (g.spSize, g.bars.length)
    | none => (0, 0)
  decide (entryBudget e ≤ th.budget) && decide (entrySpad e ≤ spad) && decide (e.bars.toNat ≤ bars)

/-! ### The transfers -/

/-- What a branch keeps of a thread for the checks of its target: `d` is the link's register. -/
def Thread.callingFrom (th : Thread) (d : Dest) : Calling :=
  ⟨th.pc, th.depth, match d with
    | .gpr n => some (n.toNat, [th.reg n.toNat, th.reg (n.toNat + 1)])
    | .pred _ | .sreg _ | .none | .latch => none⟩

/-- The thread as it was before the branch whose target it has still to check. -/
def Thread.uncalled (th : Thread) : Thread :=
  match th.calling with
  | none => th
  | some c =>
    { (match c.link with
       | some (r, ws) => th.setRegs r ws
       | none => th) with pc := c.pc, depth := c.depth, calling := none }

/-- The checks of a target that a branch could not fetch, made when the thread has fetched it (R30, R124): whether one has
failed. ILLEGAL_TARGET is taken at the target; PRIVILEGE and BUDGET_EXCEEDED at the branch, with nothing written. -/
def State.checkTarget (s : State) (t : Nat) (th : Thread) (w : BitVec 96) : Bool × State :=
  let e := Entry.ofNat w.toNat
  if th.calling.isNone then (false, s)
  else if !entryOk e .call then (true, s.takeTrap t .illegalTarget 0#64)
  else if e.sup && !th.sup then (true, (s.setThread t th.uncalled).takeTrap t .privilege 0#64)
  else if !s.entryFits t th e then (true, (s.setThread t th.uncalled).takeTrap t .budgetExceeded 0#64)
  else (false, s.modThread t (fun th => { th with calling := none }))

/-- An indirect transfer whose target must be an entry word (R124). `go pc` is the thread as the completed transfer
leaves it, `d` the link's register. A target that cannot be fetched is left to the thread's next fetch, the transfer completed
(R122), and the checks of R30 and R124 to when it has come. A target that is no such entry word traps at the target, the
transfer completed. -/
def enterTarget (s : State) (t : Nat) (th : Thread) (a : DWord) (d : Dest) (go : DWord → Thread) : State :=
  s.probeWord t a th.sup (fun f s =>
    match f with
    | .word w =>
      let e := Entry.ofNat w.toNat
      if !entryOk e .call then (s.setThread t { go a with calling := some (th.callingFrom d) }).takeTrap t .illegalTarget 0#64
      else if e.sup && !th.sup then s.takeTrap t .privilege 0#64
      else if !s.entryFits t th e then s.takeTrap t .budgetExceeded 0#64
      else s.setThread t (go (a + 12#64))
    | .fails _ .wait => { s with retry := true }
    | .fails _ .mig | .fails _ (.fault _ _ _) | .fails _ (.ok _ _ _) | .miss _ =>
      s.setThread t { go a with calling := some (th.callingFrom d) })

/-- A link written to a pair (R123). -/
def Thread.link (th : Thread) (d : Dest) (v : DWord) : Thread :=
  match d with
  | .gpr n => th.setRegs n.toNat (wordsOf v.toNat 2)
  | .pred _ | .sreg _ | .none | .latch => th

/-! ### The instructions -/

/-- BRA (R122, R129). -/
def execBra (o : Opnds) (s : State) : Out :=
  onThread s (fun t th => let a := wordTarget th.pc o; s.setThread t (th.branch a a))

/-- BRX (R122, R129). -/
def execBrx (o : Opnds) (s : State) : Out :=
  onThread s (fun t _ =>
    let (a, s1) := s.read64 t o.a
    match targetFault a with
    | some c => s.takeTrap t c 0#64
    | none => s1.modThread t (fun th => th.branch a a))

/-- BRX.entry (R122, R124, R129). -/
def execBrxEntry (o : Opnds) (s : State) : Out :=
  onThread s (fun t _ =>
    let (a, s1) := s.read64 t o.a
    match targetFault a, s1.thread? t with
    | some c, _ => s.takeTrap t c 0#64
    | none, some th => enterTarget s1 t th a .none (fun pc => th.branch a pc)
    | none, none => s1)

/-- CALL (R122, R123). -/
def execCall (o : Opnds) (s : State) : Out :=
  onThread s (fun t th => s.setThread t { th.link o.d (th.pc + 12#64) with pc := wordTarget th.pc o })

/-- CALLX (R122-R124). -/
def execCallx (o : Opnds) (s : State) : Out :=
  onThread s (fun t _ =>
    let (a, s1) := s.read64 t o.a
    match targetFault a, s1.thread? t with
    | some c, _ => s.takeTrap t c 0#64
    | none, some th =>
      enterTarget s1 t th a o.d (fun pc => { th.link o.d (th.pc + BitVec.ofNat 64 o.len) with pc := pc })
    | none, none => s1)

/-- RET (R122, R123). -/
def execRet (o : Opnds) (s : State) : Out :=
  onThread s (fun t _ =>
    let (a, s1) := s.read64 t o.a
    match targetFault a with
    | some c => s.takeTrap t c 0#64
    | none => s1.modThread t (fun th => { th with pc := a }))

/-- EXIT (R126). In the perch context it ends the section as LCRET without results does (R320); a supervisor context
that exits runs no more. -/
def execExit (_ : Opnds) (s : State) : Out :=
  onThread s (fun t _ =>
    if isPerchCtx t then s.endSection ((t - lcThreadBase) / 4) .ok .ok [0#32, 0#32, 0#32, 0#32]
    else if threadOnLC t then s.idleContext t
    else s.exitThread t)

/-- An entry pushed on the loop stack. -/
def Thread.pushLoop (th : Thread) (e : LoopEntry) : Thread :=
  { th with loop := (List.range 4).map (fun i => if i = th.depth then e else loopAt th.loop i), depth := th.depth + 1 }

/-- LOOP with a count of 0 reads the word at END as a fetch; every fault of that read is the LOOP's (R127). -/
def skipLoop (s0 s : State) (t : Nat) (th : Thread) (last : DWord) : State :=
  if last.extractLsb' 55 9 ≠ 0#9 then s0.takeTrap t .protection last
  else s.probeWord t last th.sup (fun f s =>
    match f with
    | .word w => s.setThread t { th with pc := last + if wordReadsLiteral w then 24#64 else 12#64 }
    | .fails _ (.fault c l e) => s.parkThread t last th.pc c .fetch l e
    | .fails _ .mig => s.parkMig t
    | .fails _ .wait | .fails _ (.ok _ _ _) | .miss _ => { s with retry := true })

/-- LOOP (R127). -/
def execLoop (o : Opnds) (s : State) : Out :=
  onThread s (fun t _ =>
    let (n, s1) := s.read32 t o.a
    match s1.thread? t with
    | none => s1
    | some th =>
      let start := th.pc + BitVec.ofNat 64 o.len
      let last := wordTarget th.pc o
      if n = 0#32 then skipLoop s s1 t th last
      else if th.depth = 4 then s.takeTrap t .loopOverflow 0#64
      else s1.setThread t { th.pushLoop ⟨start, last, n⟩ with pc := start })

/-- LBRK (R130). -/
def execLbrk (o : Opnds) (s : State) : Out :=
  onThread s (fun t th => s.setThread t { th with depth := th.depth - 1, pc := wordTarget th.pc o })

/-- TRAP (R131): the resume pc is the next word. -/
def execTrap (o : Opnds) (s : State) : Out :=
  onThread s (fun t th => s.takeTrapAt t .softwareTrap (o.imm.setWidth 16) 0#64 (th.pc + 12#64))

/-- A thread that may go on is suspended for one quarter cycle (R14, R23). -/
def Thread.yield (th : Thread) : Thread :=
  match th.status with
  | .ready => { th with status := .yielded }
  | _ => th

/-- YIELD (R132). -/
def execYield (o : Opnds) (s : State) : Out :=
  onThread s (fun t _ => (s.advance t o.len).modThread t (·.yield))

/-- The other unexited threads of a thread's group in its quarter. -/
def State.quarterMates (s : State) (t : Nat) (th : Thread) : List Nat :=
  match th.group with
  | none => []
  | some g => (s.threads.filter (fun p => p.1 != t && p.2.group == some g && quarterOf p.2.tid == quarterOf th.tid &&
      p.2.status != .exited)).map (·.1)

/-- A thread is held at a CONV at a pc. -/
def State.heldAt (s : State) (t : Nat) (pc : DWord) : Bool :=
  match s.thread? t with
  | some th => th.conv && th.pc == pc
  | none => false

/-- CONV (R133): the first execution holds the thread, unless every mate is held at the same word, whose holds then end;
a held thread that issues again completes. -/
def execConv (n : BitVec 6) (o : Opnds) (s : State) : Out :=
  onThread s (fun t th =>
    let mates := s.quarterMates t th
    if th.conv then (s.setThread t { th with conv := false }).advance t o.len
    else if mates.all (fun m => s.heldAt m th.pc) then
      (mates.foldl (fun s m => s.modThread m (fun x => { x with hold := 0 })) s).advance t o.len
    else { s.setThread t { th with conv := true, hold := 16 * (n.toNat + 1) } with retry := true })

/-- NOP (R134). -/
def execNop (o : Opnds) (s : State) : Out := onThread s (fun t _ => s.advance t o.len)

/-- An entry word reached as an instruction does nothing (R30). -/
def execEntryWordNop (_ : BitVec 84) (s : State) : Out := onThread s (fun t _ => s.advance t 12)

/-- A literal word reached as an instruction (R28). -/
def execLiteralWordReached (_ : BitVec 84) (s : State) : Out := onThread s (fun t _ => s.takeTrap t .illegalLiteral 0#64)

end Sys2Proof.Machine
end

