-- ==== Sys2Proof/Machine/Groups.lean ====
section
/-! DEFINITION. Room on a core and the start of a group's threads (R45, R48, R52, R70, R158-R160, R169, R181), shared
by SPAWN, the dispatcher and CTXLOAD. -/
namespace Sys2Proof.Machine

/-- The lane position of a thread on its core, 32 * quarter + lane (R158). -/
def lanePos (tid : Nat) : Nat := tid % 128

/-- The groups resident on a core. -/
def State.groupsOnCore (s : State) (core : Nat) : List (Nat × Group) := s.groups.filter (fun g => g.2.core == core)

/-- Threads of a group of `n` that fall on a lane position. -/
def onLane (n pos : Nat) : Nat := (n + 127 - pos) / 128

/-- Every lane position can take the threads of a group of `n` with a budget: 16 threads and 1,024 registers (R159),
and none on a position fused off (R45). -/
def State.lanesFit (s : State) (core n budget : Nat) : Bool :=
  let ths := s.threadsOnCore core
  let off := AMap.getD s.laneOff core 0#128
  (List.range (min n 128)).all (fun pos =>
    let mine := ths.filter (fun p => lanePos p.2.tid == pos)
    decide (mine.length + onLane n pos ≤ 16) && !off.getLsbD pos &&
      decide ((mine.map (fun p => p.2.budget)).sum + onLane n pos * budget ≤ 1024))

/-- The largest group shape a core takes (R159). -/
def groupFits (n budget : Nat) : Bool := decide ((n + 127) / 128 ≤ min 16 (1024 / budget))

/-- A free group slot of a core. -/
def State.freeSlot (s : State) (core : Nat) : Option Nat :=
  (List.range 64).find? (fun i => (s.group? (groupKey core i)).isNone)

/-- A core has a launch position for a launch (R159, R160). -/
def State.launchRoom (s : State) (core launch : Nat) : Bool :=
  let rs := (s.core core).residents
  rs.any (fun r => r.launch == launch) || decide (rs.length < 2)

/-- A throughput core that can hold groups: neither it nor its cluster is fused off, and its die is in service (R45). -/
def State.coreLive (s : State) (core : Nat) : Bool :=
  !isLC core && !s.coreOff.getLsbD core && !s.clusterOff.getLsbD (core / 4) && s.dieUp (core / 256)

/-- A core has thread slots, registers, barrier registers, a group slot and a launch position (R159, R160). -/
def State.coreRoom (s : State) (core launch n budget bars : Nat) : Bool :=
  s.coreLive core && s.lanesFit core n budget && (s.freeSlot core).isSome && s.launchRoom core launch &&
    decide (((s.groupsOnCore core).map (fun g => g.2.bars.length)).sum + bars ≤ 64)

/-- The free thread slots of a lane position: position `pos` owns slots 16 * pos to 16 * pos + 15. DESIGN CHOICE. -/
def State.freeThreadSlots (s : State) (core pos : Nat) : List Nat :=
  let used := ((s.threadsOnCore core).filter (fun p => lanePos p.2.tid == pos)).map (fun p => p.2.slot)
  ((List.range 16).map (16 * pos + ·)).filter (fun i => !used.contains i)

/-- The default frame of a thread slot (R169, R396). -/
def State.defaultFrame (s : State) (core slot : Nat) : DWord :=
  AMap.getD s.pcb.tabbase (core / 256) 0#64 + BitVec.ofNat 64 (262144 * (core % 256) + 128 * slot)

/-- The SEED of a starting thread (R70). -/
def startSeed (group tid : Nat) : Word :=
  let v : Word := BitVec.ofNat 32 (1024 * group + tid + 1)
  if v = 0#32 then 1#32 else v

/-- A thread at its start (R48). -/
def Thread.start (group : Option Nat) (tid slot budget : Nat) (pc : DWord) (seed : Word) (sup : Bool) (frame : DWord) :
    Thread where
  group := group
  tid := tid
  slot := slot
  budget := budget
  pc := pc
  regs := []
  preds := 0#7
  l0 := ⟨false, 0#64⟩
  l1 := ⟨false, 0#64⟩
  l2 := ⟨false, 0#64⟩
  l3 := ⟨false, 0#64⟩
  loop := []
  depth := 0
  cbank := 0#4
  seed := seed
  shadow := 0#32
  sup := sup
  ctxbase := frame
  trapCode := 0#32
  trapPc := 0#64
  trapVa := 0#64
  pending := []
  status := .ready
  stall := 0
  hold := 0
  conv := false
  reconvDone := false
  waitCount := 0
  latchRun := 0
  fwaiting := false
  got := none
  calling := none
  fenced := false
  lcPrio := 0
  lcLaunch := 0

/-- The part writes a thread's frame before its first instruction: HANDLER := TRAPVEC, every other field 0 (R169). -/
def State.initFrame (s : State) (core : Nat) (frame : DWord) : State :=
  if AMap.get? s.pcb.tabbase (dieOfCore core) = none then s
  else
    (s.wcSendLine core (lineNo frame.toNat)).partWrite frame.toNat
      (leBytes s.pcb.trapvec.toNat 8 ++ List.replicate 120 0#8)

/-- Barrier register at its start (R181). -/
def Barrier.start (gsize : Nat) : Barrier := ⟨BitVec.ofNat 11 gsize, 0#11, false, 0#32, 0, [], 0, none⟩

/-- Thread `tid` of a group starts. -/
def State.startThread (s : State) (core gk tid index budget : Nat) (pc : DWord) : State :=
  let slot := (s.freeThreadSlots core (lanePos tid)).headD 0
  let frame := s.defaultFrame core slot
  (s.initFrame core frame).setThread (threadKey gk tid)
    (Thread.start (some gk) tid slot budget pc (startSeed index tid) false frame)

/-- A core holds a launch: a launch position with the bank images given, if the launch has none there yet (R31). -/
def State.addResident (s : State) (core launch : Nat) (banks : AMap Word) : State :=
  if (s.core core).residents.any (fun r => r.launch == launch) then s
  else s.modCore core (fun c => { c with residents := c.residents ++ [⟨launch, banks⟩] })

/-- A group with its threads, at its start: `g` gives everything but age. -/
def State.startGroup (s : State) (gk : Nat) (g : Group) (pc : DWord) : State :=
  let s := { s with nextAge := s.nextAge + 1 }.setGroup gk { g with age := s.nextAge }
  (List.range g.gsize).foldl (fun s tid => s.startThread g.core gk tid g.index g.budget pc) s

/-- The fill window of a core's die keeps groups off it while OPENING or OPEN (R298). -/
def State.fillWindowHolds (s : State) (core : Nat) : Bool := (s.die (dieOfCore core)).window != .closed

end Sys2Proof.Machine
end

