-- ==== Sys2Proof/Machine/Float.lean ====
section
/-! DEFINITION. Class 0x1: the floating-point instructions (R93-R102). -/
namespace Sys2Proof

/-- The format of a type's elements. -/
def FType.fmt : FType → Machine.FFmt
  | .f32 => Machine.fF32
  | .f64 => Machine.fF64
  | .f16x2 => Machine.fF16
  | .bf16x2 => Machine.fBf16

/-- The elements of an operand, element 0 first (R57, R76). -/
def FType.lanes (ty : FType) (v : DWord) : List Nat :=
  match ty with
  | .f32 => [v.toNat % 2 ^ 32]
  | .f64 => [v.toNat]
  | .f16x2 | .bf16x2 => [v.toNat % 2 ^ 16, v.toNat / 2 ^ 16 % 2 ^ 16]

/-- The result that holds elements (R77). -/
def FType.join (ty : FType) (xs : List Nat) : QWord :=
  match ty with
  | .f32 | .f64 => BitVec.ofNat 128 (xs.headD 0)
  | .f16x2 | .bf16x2 => BitVec.ofNat 128 (xs.headD 0 + (xs[1]?).getD 0 * 2 ^ 16)

/-- Results of 0 or 1, one for each element (R77). -/
def joinBits (bs : List Bool) : QWord :=
  BitVec.ofNat 128 ((if bs.headD false then 1 else 0) + (if (bs[1]?).getD false then 2 ^ 16 else 0))

end Sys2Proof

namespace Sys2Proof.Machine

/-- FIMM as binary32 bits (R26). -/
def fimmBits (o : Opnds) : Nat := o.imm.toNat % 2 ^ 20 * 2 ^ 12

/-- A 16-bit pattern in both halves of a register. -/
def bothHalves (x : Nat) : DWord := BitVec.ofNat 64 (x % 2 ^ 16 + x % 2 ^ 16 * 2 ^ 16)

/-- What operand 0x300 reads as an element of a floating-point format (R26, R103): packed formats take the value in
both halves. -/
def fimmAs (f : FFmt) (o : Opnds) : DWord :=
  let x := f.round .rn 0 (fF32.decode (fimmBits o))
  if f.width = 16 then bothHalves x else if f.width = 32 then BitVec.ofNat 64 (fimmBits o) else BitVec.ofNat 64 x

/-- An element operand of class 0x1. -/
def State.readF (s : State) (t : Nat) (ty : FType) (o : Opnds) (x : Operand) : DWord × State :=
  s.read t ty.is64 false (fimmAs ty.fmt o) x

/-- The integer operand of FSCALE and FCLASS: 0x300 reads M[19:0], extended as `imm` gives (R93). -/
def State.readF20 (s : State) (t : Nat) (imm : DWord) (x : Operand) : Word × State :=
  let (v, s) := s.read t false false imm x
  (v.setWidth 32, s)

/-- The elements of an operand as exact values, after `.ftz` (R59). -/
def elemsOf (ty : FType) (ftz : Bool) (v : DWord) : List Ex :=
  (ty.lanes v).map (fun x => ty.fmt.decode (ty.fmt.flush ftz x))

/-- Values rounded to a format in element order, each with its own draw under `.rs` (R70); then `.ftz`. -/
def roundEach (f : FFmt) (r : Rnd) (ftz : Bool) (seed : Word) : List Ex → List Nat × Word
  | [] => ([], seed)
  | x :: xs =>
    let (d, seed) := drawIf r seed
    let (ys, seed) := roundEach f r ftz seed xs
    (f.flush ftz (f.round r d x) :: ys, seed)

/-- `roundEach` with the thread's own LFSR. -/
def State.roundAll (s : State) (t : Nat) (f : FFmt) (r : Rnd) (ftz : Bool) (xs : List Ex) : List Nat × State :=
  match s.thread? t with
  | none => ([], s)
  | some th =>
    let (ys, seed) := roundEach f r ftz th.seed xs
    (ys, s.setThread t { th with seed := seed })

/-- A rounded operation of A (R94). -/
def floatA (s : State) (ty : FType) (r : Rnd) (ftz : Bool) (o : Opnds) (f : Ex → Ex) : Out :=
  onThread s (fun t _ =>
    let (a, s1) := s.readF t ty o o.a
    let (ys, s2) := s1.roundAll t ty.fmt r ftz ((elemsOf ty ftz a).map f)
    s.retire s2 t o (rn ty.is64) (ty.join ys))

/-- A rounded operation of A and B (R94). -/
def floatAB (s : State) (ty : FType) (r : Rnd) (ftz : Bool) (o : Opnds) (f : Ex → Ex → Ex) : Out :=
  onThread s (fun t _ =>
    let (a, s1) := s.readF t ty o o.a
    let (b, s2) := s1.readF t ty o o.b
    let (ys, s3) := s2.roundAll t ty.fmt r ftz (List.zipWith f (elemsOf ty ftz a) (elemsOf ty ftz b))
    s.retire s3 t o (rn ty.is64) (ty.join ys))

/-- An operation on the bits of A's and B's elements that rounds nothing. -/
def bitsAB (s : State) (ty : FType) (o : Opnds) (n : Nat) (f : List Nat → List Nat → QWord) : Out :=
  onThread s (fun t _ =>
    let (a, s1) := s.readF t ty o o.a
    let (b, s2) := s1.readF t ty o o.b
    s.retire s2 t o n (f (ty.lanes a) (ty.lanes b)))

/-- An operation on the bits of A's elements that rounds nothing. -/
def bitsA (s : State) (ty : FType) (o : Opnds) (f : Nat → Nat) : Out :=
  onThread s (fun t _ =>
    let (a, s1) := s.readF t ty o o.a
    s.retire s1 t o (rn ty.is64) (ty.join ((ty.lanes a).map f)))

/-! ### What each operation computes -/

/-- A bit pattern with its sign made `neg` of the old one; NaN is canonical (R97). -/
def signOp (f : FFmt) (ftz : Bool) (neg : Bool → Bool) (x0 : Nat) : Nat :=
  let x := f.flush ftz x0
  if (f.decode x).isNan then f.nan else x % 2 ^ (f.width - 1) + f.signBit (neg (decide (2 ^ (f.width - 1) ≤ x)))

/-- FCMP's condition (R98). -/
def fcondHolds (cc : FCond) (a b : Ex) : Bool :=
  if a.isNan || b.isNan then cc == .ne || cc == .un
  else
    match cc with
    | .eq => a.cmp b == .eq
    | .ne => a.cmp b != .eq
    | .lt => a.cmp b == .lt
    | .le => a.cmp b != .gt
    | .gt => a.cmp b == .gt
    | .ge => a.cmp b != .lt
    | .un => false
    | .or => true

/-- The class of an element (R99). -/
def classOf (f : FFmt) (x : Nat) : Nat :=
  match f.decode x with
  | .nan => 8
  | .inf neg => if neg then 0 else 7
  | .fin neg m _ _ =>
    if m = 0 then (if neg then 3 else 4)
    else if f.isSub x then (if neg then 2 else 5)
    else if neg then 1 else 6

/-- FRND of one element (R100), after `.ftz`. -/
def roundIntegral (f : FFmt) (r : Rnd) (ftz : Bool) (x0 : Nat) : Nat :=
  let x := f.flush ftz x0
  match f.decode x with
  | .nan => f.nan
  | .inf _ => x
  | .fin neg m e st => if 0 ≤ e then x else f.round .rn 0 (.fin neg (roundIntMag r neg m e st) 0 false)

/-- A sum of several terms held exact: NaN if one is NaN or two infinities clash (R102). The sign of an exact zero is
that of IEEE 754 addition, term by term. -/
def sumEx (r : Rnd) (x : Ex) (xs : List Ex) : Ex := xs.foldl (Ex.add r) x

/-- The sign of an exact zero sum of several terms (R60, R102): the terms' own where they agree, else the mode's. -/
def sumTerms (r : Rnd) (xs : List Ex) : Ex :=
  match xs with
  | [] => .fin false 0 0 false
  | x :: rest =>
    match sumEx r x rest with
    | .fin n m e st =>
      if m = 0 then .fin (if xs.all (fun y => y.isNeg == x.isNeg) then x.isNeg else r == .rd) 0 e st else .fin n m e st
    | y => y

/-! ### The instructions -/

/-- FADD (R94). -/
def execFadd (ty : FType) (r : Rnd) (ftz : Bool) (o : Opnds) (s : State) : Out := floatAB s ty r ftz o (Ex.add r)

/-- FSUB (R94). -/
def execFsub (ty : FType) (r : Rnd) (ftz : Bool) (o : Opnds) (s : State) : Out :=
  floatAB s ty r ftz o (fun a b => a.add r b.neg)

/-- FMUL (R94). -/
def execFmul (ty : FType) (r : Rnd) (ftz : Bool) (o : Opnds) (s : State) : Out := floatAB s ty r ftz o Ex.mul

/-- FFMA (R94): one rounding. -/
def execFfma (ty : FType) (r : Rnd) (ftz : Bool) (o : Opnds) (s : State) : Out :=
  onThread s (fun t _ =>
    let (a, s1) := s.readF t ty o o.a
    let (b, s2) := s1.readF t ty o o.b
    let (c, s3) := s2.readF t ty o o.c
    let ps := List.zipWith Ex.mul (elemsOf ty ftz a) (elemsOf ty ftz b)
    let (ys, s4) := s3.roundAll t ty.fmt r ftz (List.zipWith (Ex.add r) ps (elemsOf ty ftz c))
    s.retire s4 t o (rn ty.is64) (ty.join ys))

/-- FMIN (R96). -/
def execFmin (ty : FType) (nan ftz : Bool) (o : Opnds) (s : State) : Out :=
  bitsAB s ty o (rn ty.is64) (fun a b => ty.join (List.zipWith (minMax ty.fmt false nan ftz) a b))

/-- FMAX (R96). -/
def execFmax (ty : FType) (nan ftz : Bool) (o : Opnds) (s : State) : Out :=
  bitsAB s ty o (rn ty.is64) (fun a b => ty.join (List.zipWith (minMax ty.fmt true nan ftz) a b))

/-- FABS (R97). -/
def execFabs (ty : FType) (ftz : Bool) (o : Opnds) (s : State) : Out := bitsA s ty o (signOp ty.fmt ftz (fun _ => false))

/-- FNEG (R97). -/
def execFneg (ty : FType) (ftz : Bool) (o : Opnds) (s : State) : Out := bitsA s ty o (signOp ty.fmt ftz (fun n => !n))

/-- FCMP (R98). -/
def execFcmp (ty : FType) (cc : FCond) (ftz : Bool) (o : Opnds) (s : State) : Out :=
  bitsAB s ty o 1 (fun a b =>
    let x (v : Nat) : Ex := ty.fmt.decode (ty.fmt.flush ftz v)
    joinBits (List.zipWith (fun a b => fcondHolds cc (x a) (x b)) a b))

/-- FCLASS (R99). -/
def execFclass (ty : FType) (o : Opnds) (s : State) : Out :=
  onThread s (fun t _ =>
    let (a, s1) := s.readF t ty o o.a
    let (b, s2) := s1.readF20 t (BitVec.ofNat 64 (o.imm.toNat % 2 ^ 20)) o.b
    s.retire s2 t o 1 (joinBits ((ty.lanes a).map (fun x => b.getLsbD (classOf ty.fmt x)))))

/-- FRND (R100). -/
def execFrnd (ty : FType) (r : Rnd) (ftz : Bool) (o : Opnds) (s : State) : Out :=
  bitsA s ty o (roundIntegral ty.fmt r ftz)

/-- The exponents of FSCALE, one for each element (R101). -/
def scaleAmounts (ty : FType) (b : Word) : List Int :=
  match ty with
  | .f32 | .f64 => [b.toInt]
  | .f16x2 | .bf16x2 => [(b.extractLsb' 0 16).toInt, (b.extractLsb' 16 16).toInt]

/-- FSCALE (R101). -/
def execFscale (ty : FType) (r : Rnd) (ftz : Bool) (o : Opnds) (s : State) : Out :=
  onThread s (fun t _ =>
    let (a, s1) := s.readF t ty o o.a
    let (b, s2) := s1.readF20 t ((o.imm.setWidth 20).signExtend 64) o.b
    let (ys, s3) := s2.roundAll t ty.fmt r ftz (List.zipWith Ex.scale (elemsOf ty ftz a) (scaleAmounts ty b))
    s.retire s3 t o (rn ty.is64) (ty.join ys))

/-- FDIV (R94). -/
def execFdiv (ty : FType) (r : Rnd) (ftz : Bool) (o : Opnds) (s : State) : Out := floatAB s ty r ftz o Ex.div

/-- FSQRT (R94). -/
def execFsqrt (ty : FType) (r : Rnd) (ftz : Bool) (o : Opnds) (s : State) : Out := floatA s ty r ftz o Ex.sqrt

/-- FDOT2 (R102): C is one binary32 element, read as such also where it is the immediate. -/
def execFdot2 (ty : FType) (r : Rnd) (ftz : Bool) (o : Opnds) (s : State) : Out :=
  onThread s (fun t _ =>
    let (a, s1) := s.readF t ty o o.a
    let (b, s2) := s1.readF t ty o o.b
    let (c, s3) := s2.readF t .f32 o o.c
    let ps := List.zipWith Ex.mul (elemsOf ty ftz a) (elemsOf ty ftz b)
    let (ys, s4) := s3.roundAll t fF32 r ftz [sumTerms r (elemsOf .f32 ftz c ++ ps)]
    s.retire s4 t o 1 (FType.f32.join ys))

end Sys2Proof.Machine
end

