-- ==== Sys2Proof/Machine/Ed448.lean ====
section
/-! DEFINITION. Ed448 with SHAKE256 (R391, R393), as the public standard that the spec names defines it: points of
x^2 + y^2 = 1 - 39081 x^2 y^2 over the integers modulo 2^448 - 2^224 - 1, signatures without a context. PRESUMED: RFC 8032. -/
namespace Sys2Proof.Machine

/-- The prime of the field. -/
def edP : Nat := 2 ^ 448 - 2 ^ 224 - 1

/-- The order of the base point. -/
def edL : Nat := 2 ^ 446 - 13818066809895115352007386748515426880336692474882178609894547503885

/-- The curve's d, which is -39081. -/
def edD : Nat := edP - 39081

/-- A power modulo the prime; `n` bounds the bits of the exponent. -/
def edPow : Nat → Nat → Nat → Nat
  | 0, _, _ => 1
  | n + 1, a, e => (if e % 2 = 1 then a else 1) * edPow n (a * a % edP) (e / 2) % edP

/-- A point in projective coordinates. -/
structure EdPoint where
  x : Nat
  y : Nat
  z : Nat
  deriving DecidableEq, Repr

/-- The neutral point. -/
def EdPoint.zero : EdPoint := ⟨0, 1, 1⟩

/-- The base point. -/
def edBase : EdPoint :=
  ⟨224580040295924300187604334099896036246789641632564134246125461686950415467406032909029192869357953282578032075146446173674602635247710,
   298819210078481492676017930443930673437544040154080242095928241372331506189835876003536878655418784733982303233503462500531545062832660, 1⟩

/-- The sum of two points. -/
def EdPoint.add (p q : EdPoint) : EdPoint :=
  let a := p.z * q.z % edP
  let b := a * a % edP
  let c := p.x * q.x % edP
  let d := p.y * q.y % edP
  let e := edD * (c * d % edP) % edP
  let f := (b + edP - e) % edP
  let g := (b + e) % edP
  let h := (p.x + p.y) * (q.x + q.y) % edP
  ⟨a * f % edP * ((h + 2 * edP - c - d) % edP) % edP, a * g % edP * ((d + edP - c) % edP) % edP, f * g % edP⟩

/-- A multiple of a point; `n` bounds the bits of the factor. -/
def EdPoint.times : Nat → Nat → EdPoint → EdPoint
  | 0, _, _ => .zero
  | n + 1, k, p =>
    let q := EdPoint.times n (k / 2) (p.add p)
    if k % 2 = 1 then p.add q else q

/-- Two points are equal. -/
def EdPoint.same (p q : EdPoint) : Bool :=
  p.x * q.z % edP == q.x * p.z % edP && p.y * q.z % edP == q.y * p.z % edP

/-- The 57 bytes of a point: y, and the least bit of x at the top. -/
def EdPoint.bytes (p : EdPoint) : List Byte :=
  let zi := edPow 448 p.z (edP - 2)
  leBytes (p.y * zi % edP + 2 ^ 455 * (p.x * zi % edP % 2)) 57

/-- The point that 57 bytes name, if they name one. -/
def edDecode (bs : List Byte) : Option EdPoint :=
  let v := leNat bs
  let y := v % 2 ^ 455
  let sign := v / 2 ^ 455 % 2
  if bs.length ≠ 57 ∨ edP ≤ y then none
  else
    let u := (y * y + edP - 1) % edP
    let w := (edD * (y * y % edP) % edP + edP - 1) % edP
    let x := edPow 448 u 3 * w % edP * edPow 448 (edPow 448 u 5 * edPow 448 w 3 % edP) ((edP - 3) / 4) % edP
    if w * (x * x % edP) % edP ≠ u then none
    else if x = 0 ∧ sign = 1 then none
    else some ⟨if x % 2 = sign then x else edP - x, y, 1⟩

/-- SHAKE256 of some bytes after the standard's prefix, as a number modulo the order. -/
def edHash (bs : List Byte) : Nat :=
  leNat (shake256 ([0x53#8, 0x69#8, 0x67#8, 0x45#8, 0x64#8, 0x34#8, 0x34#8, 0x38#8, 0#8, 0#8] ++ bs) 114) % edL

/-- A signature over a message by a public key verifies: 4 S B = 4 R + 4 k A. -/
def ed448Verify (key msg sig : List Byte) : Bool :=
  let s := leNat (sig.drop 57)
  match edDecode key, edDecode (sig.take 57) with
  | some a, some r =>
    let k := edHash (sig.take 57 ++ key ++ msg)
    sig.length == 114 && decide (s < edL) &&
      ((edBase.times 448 s).times 3 4).same ((r.add (a.times 448 k)).times 3 4)
  | _, _ => false

/-- The scalar and the prefix of a secret of 57 bytes. -/
def edSecret (secret : List Byte) : Nat × List Byte :=
  let h := shake256 secret 114
  let s := leNat (h.take 57) % 2 ^ 447
  (s - s % 4 + 2 ^ 447, h.drop 57)

/-- The public key of a secret. -/
def ed448Public (secret : List Byte) : List Byte := (edBase.times 448 (edSecret secret).1).bytes

/-- The signature of a secret over a message, 114 bytes. -/
def ed448Sign (secret msg : List Byte) : List Byte :=
  let (s, pre) := edSecret secret
  let key := ed448Public secret
  let r := edHash (pre ++ msg)
  let rb := (edBase.times 448 r).bytes
  rb ++ leBytes ((r + edHash (rb ++ key ++ msg) * s) % edL) 57

end Sys2Proof.Machine
end

