-- ==== Sys2Proof/Machine/Pcb.lean ====
section
/-! DEFINITION. The package control block (R377): its registers as they read, and what a write does to each (R375,
R379, R383-R387, R390, R392-R396, R410). -/
namespace Sys2Proof.Machine

/-- The base of the package control block. -/
def pcbBase : Nat := 0x20000000000

/-- BOOTSTAT (R390). -/
def Pcb.bootstat (p : Pcb) : Nat :=
  p.stage.toNat + (if p.reduced then 8 else 0) + (if p.fullsvc then 16 else 0) + p.reason.toNat * 65536

/-- DIESTAT (R390). -/
def Pcb.diestat (p : Pcb) : Nat := p.dieState.toNat + p.links.toNat * 65536

/-- PWRSTAT (R384). -/
def State.pwrstat (s : State) : Nat :=
  let st := [0, 1, 2, 3].foldl (fun acc d => acc + (s.die d).power.toNat * 4 ^ d) 0
  let slow := !s.pcb.hot && [0, 1, 2, 3].any (fun d => (s.die d).throttled && s.dieStat d == 2)
  st + (if slow then 256 else 0) + (if s.pcb.hot then 512 else 0) + (if s.pcb.crit then 1024 else 0)

/-- GRANT of a die (R384). -/
def State.grant (s : State) (d : Nat) : Nat := (s.die d).watts % 65536 * 65536 + (s.die d).clockMhz % 65536

/-- A FABPORT entry (R410). -/
def Port.entry (p : Port) : Nat :=
  p.corr.toNat * 2 ^ 32 + p.margin.toNat * 2 ^ 24 + p.lanes.toNat * 256 + p.active.toNat * 4 +
    (if p.spare then 2 else 0) + (if p.up then 1 else 0)

/-- A register of the block: offset, bytes, value as read. -/
structure PcbReg where
  off : Nat
  size : Nat
  value : Nat
  deriving DecidableEq, Repr

/-- Bytes of a wide register as 4-byte registers. -/
def wideReg (off n : Nat) (value : Nat) : List PcbReg :=
  (List.range n).map (fun i => ⟨off + 4 * i, 4, value / 2 ^ (32 * i) % 2 ^ 32⟩)

/-- Four 8-byte registers, one for each die. -/
def dieRegs (off : Nat) (m : AMap DWord) : List PcbReg :=
  [0, 1, 2, 3].map (fun d => ⟨off + 8 * d, 8, (AMap.getD m d 0#64).toNat⟩)

/-- A field of WINDOW (R379). -/
def Pcb.windowField (p : Pcb) (off n : Nat) : Nat :=
  leNat ((List.range n).map (fun i => AMap.getD p.windows (off + i) 0#8))

/-- The registers of WINDOW entry `i`. -/
def Pcb.windowRegs (p : Pcb) (i : Nat) : List PcbReg :=
  [⟨0x200 + 32 * i, 8, p.windowField (32 * i) 8⟩, ⟨0x208 + 32 * i, 8, p.windowField (32 * i + 8) 8⟩,
    ⟨0x210 + 32 * i, 4, p.windowField (32 * i + 16) 4⟩, ⟨0x214 + 32 * i, 4, p.windowField (32 * i + 20) 4⟩]

/-- Every register of the block, as it reads now. -/
def State.pcbRegs (s : State) : List PcbReg :=
  let p := s.pcb
  [⟨0x00, 4, p.bootstat⟩, ⟨0x04, 4, p.diestat⟩, ⟨0x08, 4, p.leasecfg.toNat⟩, ⟨0x0C, 4, p.thawgen.toNat⟩,
    ⟨0x10, 4, p.lattol.toNat⟩, ⟨0x14, 4, p.pwrcap.toNat⟩, ⟨0x18, 4, s.pwrstat⟩] ++
  [0, 1, 2, 3].map (fun d => ⟨0x20 + 4 * d, 4, s.grant d⟩) ++
  (List.range 32).map (fun n => ⟨0x40 + 8 * n, 8, (s.aperture n).toNat⟩) ++
  (List.range 64).flatMap p.windowRegs ++ wideReg 0xA00 16 0 ++
  [⟨0xA40, 4, p.keycmd.toNat⟩, ⟨0xA44, 4, p.keystat.toNat⟩] ++ wideReg 0xB00 8 p.nonce.toNat ++
  [⟨0xB20, 4, p.attcmd.toNat⟩, ⟨0xB24, 4, p.attstat.toNat⟩] ++
  (List.range 80).map (fun i => ⟨0xC00 + 4 * i, 4, leNat ((List.range 4).map (fun j => AMap.getD p.report (4 * i + j) 0#8))⟩) ++
  [⟨0xD80, 8, p.ldfile.toNat⟩, ⟨0xD88, 8, p.ldlen.toNat⟩, ⟨0xD90, 8, p.ldres.toNat⟩, ⟨0xD98, 4, p.ldcmd.toNat⟩,
    ⟨0xD9C, 4, p.ldstat.toNat⟩, ⟨0xDA0, 8, p.defsig.toNat⟩, ⟨0xDA8, 8, p.defmap.toNat⟩, ⟨0xE00, 8, p.trapvec.toNat⟩] ++
  dieRegs 0xE20 p.tabbase ++ dieRegs 0xE40 p.fqbase ++ dieRegs 0xE60 p.spillbase ++
  [0, 1, 2, 3].flatMap (fun d => [⟨0xE80 + 16 * d, 8, (AMap.getD p.subringBase d 0#64).toNat⟩,
    ⟨0xE88 + 16 * d, 4, if p.subringEnable.getLsbD d then 1 else 0⟩]) ++
  dieRegs 0xEC0 p.lctabbase ++
  s.ports.zipIdx.map (fun x => ⟨0x1000 + 8 * x.2, 8, x.1.entry⟩) ++
  [⟨0x1090, 8, p.fabresend.toNat⟩, ⟨0x1098, 8, p.fabdup.toNat⟩]

/-- A register overlaps a range of offsets. -/
def PcbReg.overlaps (r : PcbReg) (off n : Nat) : Bool := decide (r.off < off + n) && decide (off < r.off + r.size)

/-- A read of bytes of the block: reserved bytes read zero (R377). -/
def State.pcbRead (s : State) (off n : Nat) : List Byte :=
  let rs := s.pcbRegs.filter (·.overlaps off n)
  (List.range n).map (fun i =>
    match rs.find? (fun r => decide (r.off ≤ off + i) && decide (off + i < r.off + r.size)) with
    | some r => BitVec.ofNat 8 (r.value / 2 ^ (8 * (off + i - r.off)))
    | none => 0#8)

/-! ### Writes -/

/-- Set bytes of WINDOW. -/
def Pcb.setWindow (p : Pcb) (off v n : Nat) : Pcb :=
  { p with windows := (leBytes v n).zipIdx.foldl (fun m x => cellSet m 0#8 (off - 0x200 + x.2) x.1) p.windows }

/-- A value that a field of WINDOW entry `i` accepts (R379). Entry 0 is fixed. -/
def Pcb.windowAccepts (p : Pcb) (i f v : Nat) : Bool :=
  i == 0 ||
    (match f with
     | 0 => v % 65536 == 0 && decide (v + p.windowField (32 * i + 8) 8 ≤ 2 ^ 55)
     | 8 => v != 0 && v % 65536 == 0 && decide (p.windowField (32 * i) 8 + v ≤ 2 ^ 55)
     | 20 => decide (v < 16)
     | _ => true)

/-- The number of a 4-byte piece of a wide value replaced. -/
def setPiece {w : Nat} (x : BitVec w) (i : Nat) (v : Nat) : BitVec w :=
  let m : BitVec w := BitVec.ofNat w ((2 ^ 32 - 1) * 2 ^ (32 * i))
  (x &&& ~~~m) ||| BitVec.ofNat w (v * 2 ^ (32 * i))

/-- A command with a value other than 1 ends at once (R392, R395). -/
def doneIllegal : Word := BitVec.ofNat 32 (2 ^ 31 + codeNum .illegalOperand)

/-- Whether a register accepts a value (R377): no reserved bit, no field out of range. -/
def State.pcbAccepts (s : State) (off v : Nat) : Bool :=
  let p := s.pcb
  if off = 0x08 then decide (1 ≤ v) && decide (v ≤ 255)
  else if off = 0x14 then decide (1200 ≤ v) && decide (v ≤ 3200)
  else if 0x40 ≤ off ∧ off < 0x140 then bits v 29 34 == 0 && bits v 6 10 == 0
  else if 0x200 ≤ off ∧ off < 0xA00 then p.windowAccepts ((off - 0x200) / 32) ((off - 0x200) % 32) v
  else if off = 0xA40 then decide (v < 1024) && (bits v 8 2 == 1 || bits v 8 2 == 2)
  else if off = 0xD80 then v % 8 == 0
  else if off = 0xD90 then v % 64 == 0
  else if off = 0xE00 then v % 4 == 0 && decide (v < 2 ^ 55)
  else if 0xE80 ≤ off ∧ off < 0xEC0 then
    let d := (off - 0xE80) / 16
    if off % 16 = 0 then
      v % 64 == 0 && decide (v < 2 ^ 55) &&
        (!p.subringEnable.getLsbD d || v == (AMap.getD p.subringBase d 0#64).toNat)
    else decide (v < 2)
  else true

/-- The secret of the device identity. -/
def identity : List Byte := leBytes Config.identitySecret.toNat 57

/-- The fields of an attestation report, bytes 0x000-0x0BF (R393). -/
def State.reportFields (s : State) : List Byte :=
  leBytes 0x54414854 4 ++ leBytes 1 4 ++ leBytes s.pcb.nonce.toNat 32 ++ leBytes s.fwDigest.toNat 32 ++
    shake256 Config.supervisorImage 32 ++ leBytes s.rollback.toNat 8 ++ leBytes s.pcb.defsig.toNat 8 ++
    leBytes s.pcb.bootstat 4 ++ leBytes s.keys.length 4 ++
    ed448Public identity ++ List.replicate 7 0#8

/-- The deepest state that LATTOL allows (R386). -/
def deepest (lattol : Word) : Nat :=
  if 200 ≤ lattol.toNat then 3 else if 20 ≤ lattol.toNat then 2 else if 2 ≤ lattol.toNat then 1 else 0

/-- Dies in a deeper state than LATTOL allows leave it (R386). -/
def State.limitPower (s : State) : State :=
  let n := deepest s.pcb.lattol
  [0, 1, 2, 3].foldl (fun s d =>
    if (s.die d).power.toNat ≤ n then s
    else if n = 2 then s.modDie d (fun x => { x with power := 2#2 })
    else (s.wakeDie d).modDie d (fun x => { x with power := BitVec.ofNat 2 n })) s

/-- A register takes a value it accepts; a read-only one, or one that its command holds busy, keeps its own. -/
def State.pcbSet (s : State) (off v : Nat) : State :=
  let p := s.pcb
  let w : Word := BitVec.ofNat 32 v
  let dw : DWord := BitVec.ofNat 64 v
  let set (p : Pcb) : State := { s with pcb := p }
  if off = 0x08 then set { p with leasecfg := BitVec.ofNat 8 v }
  else if off = 0x10 then State.limitPower (set { p with lattol := w })
  else if off = 0x14 then set { p with pwrcap := BitVec.ofNat 12 v }
  else if 0x40 ≤ off ∧ off < 0x140 then set { p with apertures := cellSet p.apertures 0#64 ((off - 0x40) / 8) dw }
  else if 0x220 ≤ off ∧ off < 0xA00 then set (p.setWindow off v (if (off - 0x200) % 32 < 16 then 8 else 4))
  else if 0xA00 ≤ off ∧ off < 0xA40 then set { p with keydata := setPiece p.keydata ((off - 0xA00) / 4) v }
  else if off = 0xA40 then (if p.keycmd &&& 0x300#32 = 0#32 then set { p with keycmd := w } else s)
  else if 0xB00 ≤ off ∧ off < 0xB20 then
    (if p.attcmd = 0#32 then set { p with nonce := setPiece p.nonce ((off - 0xB00) / 4) v } else s)
  else if off = 0xB20 then
    (if p.attcmd ≠ 0#32 then s
     else if v = 1 then set { p with attcmd := 1#32, attstat := 0#32, attFields := s.reportFields } else set { p with attstat := doneIllegal })
  else if off = 0xD80 then (if p.ldcmd = 0#32 then set { p with ldfile := dw } else s)
  else if off = 0xD88 then (if p.ldcmd = 0#32 then set { p with ldlen := dw } else s)
  else if off = 0xD90 then (if p.ldcmd = 0#32 then set { p with ldres := dw } else s)
  else if off = 0xD98 then
    (if p.ldcmd ≠ 0#32 then s
     else if v = 1 then set { p with ldcmd := 1#32, ldstat := 0#32 } else set { p with ldstat := doneIllegal })
  else if off = 0xE00 then set { p with trapvec := dw }
  else if 0xE80 ≤ off ∧ off < 0xEC0 then
    let d := (off - 0xE80) / 16
    if off % 16 = 0 then set { p with subringBase := cellSet p.subringBase 0#64 d dw }
    else
      let bit : BitVec 4 := BitVec.ofNat 4 (2 ^ d)
      set { p with subringEnable := if v = 1 then p.subringEnable ||| bit else p.subringEnable &&& ~~~bit }
  else s

/-- A register's value after some of its bytes are written. -/
def PcbReg.merged (r : PcbReg) (off : Nat) (bs : List Byte) : Nat :=
  leNat ((List.range r.size).map (fun i =>
    let a := r.off + i
    if off ≤ a ∧ a < off + bs.length then (bs[a - off]?).getD 0#8 else BitVec.ofNat 8 (r.value / 2 ^ (8 * i))))

/-- A write of bytes of the block (R377): refused as a whole if it sets a reserved bit or byte, or gives a field a value
it does not accept. -/
def State.pcbWrite (s : State) (off : Nat) (bs : List Byte) : State :=
  let rs := s.pcbRegs.filter (·.overlaps off bs.length)
  let reserved := bs.zipIdx.any (fun x => x.1 != 0#8 && !rs.any (·.overlaps (off + x.2) 1))
  let new := rs.map (fun r => (r.off, r.merged off bs))
  if reserved || new.any (fun x => !s.pcbAccepts x.1 x.2) then s
  else new.foldl (fun s x => s.pcbSet x.1 x.2) s

end Sys2Proof.Machine
end

