-- ==== Sys2Proof/Machine/Memory.lean ====
section
/-! DEFINITION. Classes 0x5 and 0x6: loads, stores, atomics, ordering and maintenance (R135-R153), through pages of
this package, of the package control block (R377) and of other devices (R399, R400). -/
namespace Sys2Proof

/-- An order that releases. -/
def Order.rels (o : Order) : Bool := o == .rel || o == .ar

/-- An order that acquires. -/
def Order.acqs (o : Order) : Bool := o == .acq || o == .ar

end Sys2Proof

namespace Sys2Proof.Machine

/-! ### Addresses and checks (R37, R140) -/

/-- The effective address (R37); B of a CAS is data. -/
def State.effAddr (s : State) (t : Nat) (m : MemMod) (o : Opnds) (index : Bool) : DWord × State :=
  let (a, s) := s.read64 t o.a
  let (b, s) := if index then s.read32 t o.b else (0#32, s)
  (a + (b.signExtend 64 <<< m.scale.toNat) + m.disp.signExtend 64, s)

/-- A data operand, read at the access size (R139). -/
def State.readData (s : State) (t : Nat) (z : Size) (x : Operand) : Nat × State :=
  match z with
  | .b128 =>
    match s.thread? t with
    | some th => (wordsNat (th.quad x), s)
    | none => (0, s)
  | .b64 =>
    let (v, s) := s.read64 t x
    (v.toNat, s)
  | .b8 | .b16 | .b32 | .s8 | .s16 =>
    let (v, s) := s.read32 t x
    (v.toNat % 2 ^ (8 * z.bytes), s)

/-- A translation that did not succeed, for a thread's data access (R140, R283, R302): WS_READONLY traps, the other
faults park; an access to a die not yet in service waits. -/
def State.dataFails (s : State) (t : Nat) (q : Req) (r : Xl) : State :=
  match s.thread? t with
  | none => s
  | some th =>
    match r with
    | .ok _ _ _ => s
    | .fault .wsReadonly _ _ => s.takeTrap t .wsReadonly q.va
    | .fault c l e => s.parkThread t q.va th.pc c q.kind l e
    | .mig => s.parkMig t
    | .wait => { s with retry := true }

/-- A thread's access to global memory: alignment, the 55-bit space, translation by the buffer, or a walk (R140). -/
def State.withGlobal (s : State) (t : Nat) (q : Req) (k : DWord → Nat → State → State) : State :=
  if q.size ≠ 0 ∧ q.va.toNat % q.size ≠ 0 then s.takeTrap t .misaligned q.va
  else if q.va.extractLsb' 55 9 ≠ 0#9 then s.takeTrap t .protection q.va
  else
    match s.xlateHit (.data q.core) q with
    | (some (.ok e _ pa), s) => k e pa s
    | (some r, s) => s.dataFails t q r
    | (none, s) => { s.queueWalk t q with retry := true }

/-- A thread's access to the scratchpad (R136, R140): its launch's allocations alone. DESIGN CHOICE: UNSUPPORTED_ON_LC comes
before the checks of R140, MISALIGNED first of them, and has the offset as its address; R136 gives neither. -/
def State.withSpad (s : State) (t : Nat) (a : DWord) (n : Nat) (k : Nat → Nat → State → State) : State :=
  let off := a.toNat % 2 ^ 21
  let va : DWord := BitVec.ofNat 64 off
  let cl := clusterOfCore (coreOfThread t)
  if threadOnLC t then s.takeTrap t .unsupportedOnLc va
  else if off % n ≠ 0 then s.takeTrap t .misaligned va
  else
    match s.groupOf t with
    | none => s
    | some g =>
      if (s.spadOutside g.launch cl off n).isSome then s.takeTrap t .protection va
      else k cl off s

/-- A thread's request of memory. -/
def threadReq (s : State) (t : Nat) (va : DWord) (kind : Access) (size : Nat) (atomic clean : Bool) : Req :=
  let sup := match s.thread? t with
    | some th => th.sup
    | none => false
  ⟨va, kind, clean, sup, size, atomic, coreOfThread t, false, true⟩

/-- A later access of a thread stands behind an acquire whose value is still under way. -/
def orderedMem (s : State) (f : Nat → Thread → State) : Out :=
  onThread s (fun t th => if s.acquirePending t then { s with retry := true } else f t th)

/-! ### Ordering (R148, R153, R179, R210, R292, R374, R407) -/

/-- The scope an access acts at: for a scratchpad access `.die`, `.pkg` and `.sys` act as `.clus` (R147). -/
def actScope (sp : Bool) (sc : Scope) : Scope :=
  if sp then
    match sc with
    | .core => .core
    | .clus | .die | .pkg | .sys => .clus
  else sc

/-- A release of a thread's earlier accesses at a scope. -/
def State.releaseAt (s : State) (t : Nat) (sc : Scope) : State :=
  let core := coreOfThread t
  match sc with
  | .core => s
  | .clus | .die => s.releaseClus core
  | .pkg | .sys => s.releasePkg core

/-- A release has to wait: at `.sys`, for the answers of other devices (R407). -/
def State.releaseWaits (s : State) (t : Nat) (sc : Scope) : Bool := sc == .sys && s.remotePending t

/-- An acquire at a scope: at `.sys` the FABTIMEs are read (R407). -/
def State.acquireAt (s : State) (t : Nat) (sc : Scope) : State :=
  match sc with
  | .sys => s.acquireSys (coreOfThread t)
  | .core | .clus | .die | .pkg => s

/-- An acquire through the scratchpad, where a scope wider than the core acts as `.clus` (R147, R148). -/
def State.acquireSpad (s : State) (t : Nat) (acq : Bool) (sc : Scope) : State :=
  if acq && sc != .core then s.clockClus (coreOfThread t) else s

/-- A core stands in the scope instance of another's threads (R147). -/
def inInstance (core : Nat) (sc : Scope) (c : Nat) : Bool :=
  match sc with
  | .core => c == core
  | .clus => if isLC core then c == core else !isLC c && c / 4 == core / 4
  | .die => dieOfCore c == dieOfCore core
  | .pkg | .sys => true

/-- What stands before a release of a thread is performed: its own stores, and what it has read of others of its core. At `.pkg`
and `.sys` what its die has forwarded before is acknowledged too, and the acquirer's clock passes those of its die's cores
(R153, R374). -/
def State.forceThread (s : State) (core : Nat) (sc : Scope) (r : Nat × Nat) : State :=
  let c := coreOfThread r.1
  match sc with
  | .core => s
  | .clus | .die => s.wcSendIf c (·.before r.2)
  | .pkg | .sys =>
    let s := (s.wcSendIf c (·.before r.2)).ackAll (fun f => f.die == dieOfCore c && decide (f.seq ≤ r.2))
    s.passClocks core (fun x => dieOfCore x == dieOfCore c)

/-- What an ACQR of `n` bytes forces (R153): the stores that the threads of its scope instance made before the releases
that it reads. -/
def State.forceReleases (s : State) (core : Nat) (sc : Scope) (pa n : Nat) : State :=
  (s.releasesAt pa n (inInstance core sc)).foldl (fun s r => s.forceThread core sc r) s

/-- An ACQR at `.sys` waits for what the dies of those threads have sent to other devices before their releases (R153,
R407). -/
def State.forceWaits (s : State) (core : Nat) (sc : Scope) (pa n : Nat) : Bool :=
  sc == .sys && (s.releasesAt pa n (inInstance core sc)).any (fun r => s.remoteBefore (dieOfThread r.1) r.2)

/-- A full fence is ordered after the fences before it of its scope instance (R148): its core's lease clock passes
theirs. -/
def State.fenceClocks (s : State) (core : Nat) (sc : Scope) : State :=
  match sc with
  | .core => s
  | .clus => s.clockClus core
  | .die => s.clockDie core
  | .pkg | .sys => s.clockPkg core

/-- A thread's writes from here on are releases: of itself, or by a fence before it (R148). -/
def State.releasing (s : State) (t : Nat) (rel : Bool) : Bool := rel || (s.thread? t).any (·.fenced)

/-! ### Results (R141) -/

/-- A load's value goes to D, and the thread issues on. -/
def State.finishLoad (s : State) (t : Nat) (z : Size) (o : Opnds) (v : Nat) : State :=
  (s.sendResult t (destReg o.d) (loadWords z v)).advance t o.len

/-- A thread's earlier loads have the values that they read: those that a condition names. -/
def State.fixLoads (s : State) (p : Landing → Bool) : State :=
  { s with landings := s.landings.map (fun l => if p l then { l with again := none } else l) }

/-- A load of the `n` bytes at an address stands before what its thread does with them later (R150). -/
def Landing.overlaps (l : Landing) (t pa n : Nat) : Bool :=
  l.thread == t && l.again.any (fun a => decide (a.pa < pa + n) && decide (pa < a.pa + a.size.bytes))

/-- A load that orders nothing issues on with the value at hand, and may take a later one as it lands (R141, R150). -/
def State.finishLate (s : State) (t : Nat) (z : Size) (o : Opnds) (v : Nat) (a : LateLoad) : State :=
  let s := s.fixLoads (·.overlaps t a.pa a.size.bytes)
  match destReg o.d with
  | some r =>
    let l : Landing := ⟨t, some r, loadWords z v, none, none, some a⟩
    { s.modThread t (·.pend r z.regs) with landings := s.landings ++ [l] }.advance t o.len
  | none => s.advance t o.len

/-- A request to another device's memory: D is pending until the answer lands (R399, R400). `n` registers of D wait. -/
def State.remoteAccess (s : State) (t : Nat) (va : DWord) (pa n : Nat) (o : Opnds) (kind : RemoteKind)
    (op : Nat → FabOp) : State :=
  match placeOf pa with
  | .aperture k =>
    let a := s.aperture k
    let dev := apertureDevice a
    if s.linkRoom dev 0 then
      let s := match destReg o.d with
        | some r => s.modThread t (·.pend r n)
        | none => s
      (s.sendRequest t dev 0 va kind (op (apertureTarget a pa))).advance t o.len
    else { s with retry := true }
  | .hbm _ | .ws _ | .pcb | .unbacked => s

/-! ### Class 0x5 -/

/-- What the acquire of a load does (R153, R374, R407). -/
def State.acquireEdge (s : State) (core : Nat) (e : Acquire) : State :=
  match e with
  | .plain => s
  | .sys => s.acquireSys core
  | .force sc pa n =>
    let s := s.forceReleases core sc pa n
    if sc = .sys then s.acquireSys core else s

/-- A load from global memory, of a load instruction or an ACQR; `edge` is what its acquire then does, given the address
that it read. A load of a refresh group that is being refreshed waits for its value (R138). -/
def State.loadGlobal (s : State) (t : Nat) (z : Size) (na isAcq : Bool) (edge : Nat → Acquire) (o : Opnds) (va : DWord) :
    State :=
  let core := coreOfThread t
  s.withGlobal t (threadReq s t va .read z.bytes false false) (fun e pa s =>
    match placeOf pa with
    | .aperture _ =>
      s.remoteAccess t va pa z.regs o (.load (destReg o.d) z isAcq (edge pa)) (fun pa => .load pa z.bytes)
    | .pcb => (s.acquireEdge core (edge pa)).finishLoad t z o (leNat (s.pcbRead (pa - pcbBase) z.bytes))
    | .hbm _ | .ws _ | .unbacked =>
      let s := s.refreshStall core pa (s.whoOf t)
      let (bs, s) := s.coreLoad core pa z.bytes e na (s.whoOf t)
      if isAcq then (s.acquireEdge core (edge pa)).finishLoad t z o (leNat bs)
      else s.finishLate t z o (leNat bs) ⟨core, pa, z, e, na⟩)

/-- LD (R141, R143, R148). -/
def execLd (m : MemMod) (o : Opnds) (s : State) : Out :=
  orderedMem s (fun t _ =>
    let (a, s) := s.effAddr t m o true
    if m.sp then
      s.withSpad t a m.size.bytes (fun _ off s =>
        (((s.acquireSpad t m.order.acqs m.scope).pendD t o.d m.size.regs).spadAccess t m.order.acqs
          (.load [⟨t, destReg o.d, off, m.size⟩])).advance t o.len)
    else
      s.loadGlobal t m.size (m.opx.getLsbD 0) m.order.acqs (fun _ => if m.order.acqs && m.scope == .sys then .sys else .plain) o a)

/-- A core's access that its counters do not see: they have counted it before. -/
def State.uncounted (s : State) (core : Nat) (f : State → List Byte × State) : List Byte × State :=
  let c := s.core core
  let (bs, s) := f (s.modCore core (fun c => { c with pmsel0 := 0#32, pmsel1 := 0#32, pmsel2 := 0#32, pmsel3 := 0#32 }))
  (bs, s.modCore core (fun x => { x with pmsel0 := c.pmsel0, pmsel1 := c.pmsel1, pmsel2 := c.pmsel2, pmsel3 := c.pmsel3 }))

/-- The value with which a result lands. A load that nothing was ordered after yet may read what stands there now: the part
chooses, where that is another value (R150). -/
def State.landingWords (s : State) (l : Landing) : List Word × State :=
  match l.again with
  | none => (l.words, s)
  | some a =>
    if !s.backed a.pa then (l.words, s)
    else
      let (bs, u) := s.uncounted a.core (fun s => s.coreLoad a.core a.pa a.size.bytes a.entry a.na none)
      let ws := loadWords a.size (leNat bs)
      if ws = l.words then (l.words, s)
      else
        let (k, s1) := s.choose 2
        if k = 0 then (l.words, s1) else (ws, { u with choices := s1.choices, free := s1.free })

/-- LOAD_LANDS: a result that is on its way lands, `k` of them before it in the list (R141). -/
def execLoadLands (k : Nat) (s : State) : Out :=
  .next (match s.landings[k]? with
    | none => s
    | some l =>
      let (ws, s) := { s with landings := s.landings.eraseIdx k }.landingWords l
      let s := s.deliverOpt l.thread l.reg ws
      let s := if l.gid.isSome && l.words.head? == some 0#32 then
        (s.clockPkg (coreOfThread l.thread)).acquireSys (coreOfThread l.thread) else s
      match l.tok with
      | some (r, w) => s.deliver l.thread r [w]
      | none => s)

/-- A thread's write sent to another device, if the stream takes it, is noted as `State.noteWrite` notes one (R148); `s'` is
the state with the request sent. -/
def State.noteSent (s s' : State) (t k pa n : Nat) (rel : Bool) : State :=
  if s.linkRoom (apertureDevice (s.aperture k)) 0 then s'.noteWrite t pa n rel else s'

/-- A store by a thread to global memory, after its release. -/
def State.storeGlobal (s : State) (t : Nat) (m : MemMod) (o : Opnds) (va : DWord) (v : Nat) : State :=
  let core := coreOfThread t
  let n := m.size.bytes
  let rel := m.order.rels
  s.withGlobal t (threadReq s t va .write n false false) (fun e pa s =>
    if rel && s.releaseWaits t m.scope then { s with retry := true }
    else
      let s := if rel then s.releaseAt t m.scope else s
      match placeOf pa with
      | .aperture k =>
        s.noteSent (s.remoteAccess t va pa 0 o .store (fun pa => .store pa n (BitVec.ofNat 128 v))) t k pa n
          (s.releasing t rel)
      | .pcb => (s.pcbWrite (pa - pcbBase) (leBytes v n)).advance t o.len
      | .hbm _ | .ws _ | .unbacked =>
        let nt := m.opx.getLsbD 1
        if s.storeRoom core pa e nt then
          ((s.coreStore core t pa (leBytes v n) e (m.opx.getLsbD 0) nt (s.whoOf t)).noteWrite t pa n (s.releasing t rel)).advance
            t o.len
        else { s with retry := true })

/-- ST (R139, R143, R148, R183). -/
def execSt (m : MemMod) (o : Opnds) (s : State) : Out :=
  orderedMem s (fun t _ =>
    let (a, s) := s.effAddr t m o true
    let (v, s) := s.readData t m.size o.c
    if m.sp then
      s.withSpad t a m.size.bytes (fun cl off s =>
        if ((s.cluster cl).objectIn off m.size.bytes).isSome then
          s.takeTrap t .barrierClobber (BitVec.ofNat 64 off)
        else
          let s := if m.order.rels then s.releaseAt t (actScope true m.scope) else s
          (s.spadAccess t m.order.rels (.store off (leBytes v m.size.bytes))).advance t o.len)
    else s.storeGlobal t m o a v)

/-- LDK (R142): the banks are read at once. -/
def execLdk (m : MemMod) (o : Opnds) (s : State) : Out :=
  onThread s (fun t _ =>
    let (a, s1) := s.read32 t o.a
    let e : Int := (a.toNat : Int) + m.disp.toInt
    if e < 0 ∨ 4095 < e ∨ (m.size = .b64 ∧ e % 2 ≠ 0) then s.takeTrap t .illegalOperand 0#64
    else
      let n := e.toNat
      let ws := (List.range m.size.regs).map (fun i => s1.constWord t ((n + i) / 256) ((n + i) % 256))
      (match destReg o.d with
       | some r => s1.modThread t (fun th => th.setRegs r ws)
       | none => s1).advance t o.len)

/-- PREF (R143): dropped where its translation would fault, on a page of another device or of the control block, and on
a group under refresh. -/
def execPref (m : MemMod) (o : Opnds) (s : State) : Out :=
  onThread s (fun t _ =>
    let core := coreOfThread t
    let (a, s) := s.effAddr t m o true
    if a.extractLsb' 55 9 ≠ 0#9 then s.advance t o.len
    else
      s.probe t (.data core) (threadReq s t a .read 0 false false) (fun r s =>
        (match r with
         | .ok e _ pa =>
           if (homeDie pa).isNone || s.refreshing pa then s
           else if m.opx.getLsbD 0 then (s.engineRead core pa 0 e false).2
           else (s.coreLoad core pa 0 e false (s.whoOf t)).2
         | .fault _ _ _ | .mig | .wait => s).advance t o.len))

/-- DRAIN (R151). -/
def execDrain (_ : MemMod) (o : Opnds) (s : State) : Out :=
  onThread s (fun t _ => (s.drainNt (coreOfThread t) t).advance t o.len)

/-- A maintenance operation (R146): the thread's own stores to the lines come first; the line form acts on one line,
the `.t` form on every copy of a line on the executing die with the tag. -/
def maintain (s : State) (m : MemMod) (o : Opnds) (clean : Bool)
    (act : Option (BitVec 6) → State → Nat → Nat → State) : Out :=
  orderedMem s (fun t _ =>
    let core := coreOfThread t
    let d := dieOfCore core
    if m.tensorForm then
      let (a, s1) := s.read32 t o.a
      if 64 ≤ a.toNat ∨ a = 0#32 then s.takeTrap t .illegalOperand 0#64
      else
        let tag := a.setWidth 6
        let s2 := s1.wcSendIf core (fun e => e.tensor == tag)
        ((s2.taggedLines d tag).foldl (fun s ln => act (some tag) s d ln) s2).advance t o.len
    else
      let (a, s1) := s.effAddr t m o true
      s1.withGlobal t (threadReq s1 t a .write 0 false clean) (fun _ pa s =>
        match placeOf pa with
        | .hbm _ => (act none (s.wcSendLine core (lineNo pa)) d (lineNo pa)).advance t o.len
        | .ws _ => (if clean then s else s.dropL1 none d (lineNo pa)).advance t o.len
        | .pcb | .aperture _ | .unbacked => s.advance t o.len))

/-- DISCARD (R146). -/
def execDiscard (m : MemMod) (o : Opnds) (s : State) : Out := maintain s m o false State.discardLine

/-- CLEAN (R146). -/
def execClean (m : MemMod) (o : Opnds) (s : State) : Out := maintain s m o true State.cleanLine

/-- INVAL (R146). -/
def execInval (m : MemMod) (o : Opnds) (s : State) : Out := maintain s m o false State.invalLine

/-! ### Class 0x6 -/

/-- An atomic or CAS (R145): `rd` reads the operands and gives the new value, or none to write nothing; the request to another
device; and the one at a bank. -/
def atomic (s : State) (m : MemMod) (o : Opnds) (index : Bool)
    (rd : Nat → State → (Nat → Option Nat) × (Nat → FabOp) × (BankLane → BankAct) × State) : Out :=
  orderedMem s (fun t _ =>
    let core := coreOfThread t
    let n := m.size.bytes
    let rel := m.order.rels
    let acq := m.order.acqs
    let (a, s) := s.effAddr t m o index
    let (f, op, act, s) := rd t s
    if m.sp then
      s.withSpad t a n (fun cl off s =>
        if ((s.cluster cl).objectIn off n).isSome then s.takeTrap t .barrierClobber (BitVec.ofNat 64 off)
        else
          let s := if rel then s.releaseAt t (actScope true m.scope) else s
          ((((s.pendD t o.d m.size.regs).spadAccess t (rel || acq) (act ⟨t, destReg o.d, off, m.size⟩))).acquireSpad t acq
            m.scope).advance t o.len)
    else
      s.withGlobal t (threadReq s t a .write n true false) (fun e pa s =>
        if rel && s.releaseWaits t m.scope then { s with retry := true }
        else
          let s := if rel then s.releaseAt t m.scope else s
          match placeOf pa with
          | .aperture k =>
            s.noteSent (s.remoteAccess t a pa m.size.regs o (.atom (destReg o.d) (m.size == .b64) acq (acq && m.scope == .sys))
              op) t k pa n (s.releasing t rel)
          | .hbm _ | .ws _ | .pcb | .unbacked =>
            let (old, s) := s.coreAtomic core t pa n e f (s.whoOf t)
            let s := if (f old).isSome then s.noteWrite t pa n (s.releasing t rel) else s
            (if acq then s.acquireAt t m.scope else s).finishLoad t m.size o old))

/-- ATOM (R144, R145). -/
def execAtom (op : AtomOp) (m : MemMod) (o : Opnds) (s : State) : Out :=
  atomic s m o true (fun t s =>
    let (v, s) := s.readData t m.size o.c
    (fun old => some (atomNat op m.size.bytes old v), fun pa => .atom op (m.size == .b64) pa (BitVec.ofNat 64 v),
      fun l => .atom l op v, s))

/-- CAS (R145). -/
def execCas (m : MemMod) (o : Opnds) (s : State) : Out :=
  atomic s m o false (fun t s =>
    let (cmp, s) := s.readData t m.size o.b
    let (v, s) := s.readData t m.size o.c
    (casNat cmp v, fun pa => .cas (m.size == .b64) pa (BitVec.ofNat 64 cmp) (BitVec.ofNat 64 v), fun l => .cas l cmp v, s))

/-- FENCE (R148, R152, R408): an acquire fence at `.sys` waits for the values of the thread's earlier loads from other
devices. -/
def execFence (m : MemMod) (o : Opnds) (s : State) : Out :=
  orderedMem s (fun t _ =>
    let core := coreOfThread t
    if m.order.rels && s.releaseWaits t m.scope || m.order.acqs && m.scope == .sys && s.loadPending t then
      { s with retry := true }
    else
      let s := if m.order.rels then (s.releaseAt t m.scope).modThread t (fun th => { th with fenced := true }) else s
      let s := if m.order.acqs then s.acquireAt t m.scope else s
      (if m.order = .ar then s.fenceClocks core m.scope else s.acquireSpad t m.order.acqs m.scope).advance t o.len)

/-- ACQR (R153): an acquire that forces the releasing thread's earlier stores, whatever its release's scope. -/
def execAcqr (m : MemMod) (o : Opnds) (s : State) : Out :=
  orderedMem s (fun t _ =>
    let core := coreOfThread t
    let (a, s) := s.effAddr t m o true
    let n := m.size.bytes
    match s.xlateHit (.data core) (threadReq s t a .read n false false) with
    | (some (.ok _ _ pa), u) =>
      if u.forceWaits core m.scope pa n then { u with retry := true }
      else s.loadGlobal t m.size false true (fun pa => .force m.scope pa n) o a
    | (_, _) => s.loadGlobal t m.size false true (fun pa => .force m.scope pa n) o a)

end Sys2Proof.Machine
end

