-- ==== Sys2Proof/Machine/Barrier.lean ====
section
/-! DEFINITION. Class 0x7: barriers (R180-R193, R200) and convergence sets (R194-R199). -/
namespace Sys2Proof.Machine

/-! ### Barriers by reference -/

/-- A barrier: a register of a group, or an object of a cluster's scratchpad. -/
inductive BarRef where
  | reg (group bar : Nat)
  | obj (cluster off : Nat)
  deriving DecidableEq, Repr

/-- The state that an object's bytes hold (R182). -/
def Cluster.objBarrier (c : Cluster) (off : Nat) : Barrier :=
  let w := c.spadNat off 4
  ⟨BitVec.ofNat 11 w, BitVec.ofNat 11 (w / 2 ^ 11), bits w 22 1 == 1, BitVec.ofNat 32 (c.spadNat (off + 4) 4),
    c.spadNat (off + 8) 2, [], 0, none⟩

/-- Word 0x00 of R182. -/
def Barrier.word0 (b : Barrier) (armed : Bool) : Word :=
  BitVec.ofNat 32 (b.expected.toNat + b.arrivals.toNat * 2 ^ 11 + (if b.phase then 2 ^ 22 else 0) +
    (if armed then 2 ^ 31 else 0))

/-- A barrier's state; a disarmed object counts as EXPECTED 0 (R183). -/
def State.barrier (s : State) (r : BarRef) : Barrier :=
  match r with
  | .reg g b => ((s.group? g).bind (fun x => x.bars[b]?)).getD (Barrier.start 0)
  | .obj cl off =>
    let b := (s.cluster cl).objBarrier off
    if (s.cluster cl).objArmed off then b else { b with expected := 0#11 }

/-- A barrier's state written back; an object keeps its ARMED bit. -/
def State.setBarrier (s : State) (r : BarRef) (b : Barrier) : State :=
  match r with
  | .reg g i => s.modGroup g (fun x => { x with bars := x.bars.set i b })
  | .obj cl off =>
    let armed := (s.cluster cl).objArmed off
    s.modCluster cl (fun c =>
      (c.spadPut off (leBytes (b.word0 armed).toNat 4 ++ leBytes b.status.toNat 4)).spadPut (off + 8)
        (leBytes (min b.engpend 0xFFFF) 2))

/-- The threads that wait on a barrier, with the awaited token (signers are no such waiters). -/
def State.barWaiters (s : State) (r : BarRef) : List (Nat × Bool) :=
  s.threads.filterMap (fun p =>
    match r, p.2.status with
    | .reg g i, .barReg b tok _ _ => if p.2.group = some g ∧ b = i then some (p.1, tok) else none
    | .obj cl off, .barObj o tok _ _ =>
      if !threadOnLC p.1 && clusterOfCore (coreOfThread p.1) == cl && o == off then some (p.1, tok) else none
    | _, _ => none)

/-- The part keeps an object's WAITERS. -/
def State.refreshRef (s : State) (r : BarRef) : State :=
  match r with
  | .reg _ _ => s
  | .obj cl off => s.refreshWaiters cl off

/-- A result written to D at once. -/
def Thread.putResult (th : Thread) (d : Dest) (ws : List Word) : Thread :=
  match d with
  | .gpr n => th.setRegs n.toNat ws
  | .pred p => th.setPred p.toNat ((ws.headD 0#32).getLsbD 0)
  | .sreg _ | .none | .latch => th

/-- A suspended thread gets its result and completes the instruction it waited in. -/
def State.completeWait (s : State) (t : Nat) (d : Dest) (len : Nat) (ws : List Word) : State :=
  (s.modThread t (fun th => th.resume.putResult d ws)).advance t len

/-- A waiter of a barrier is released with STATUS, an acquire at `.clus` (R189, R193). -/
def State.releaseWaiter (s : State) (t : Nat) (status : Word) : State :=
  match s.thread? t with
  | none => s
  | some th =>
    match th.status with
    | .barReg _ _ d len | .barObj _ _ d len => (s.clockClus (coreOfThread t)).completeWait t d len [status]
    | _ => s

/-! ### Arrivals and the phase (R185, R186) -/

/-- A code merged into STATUS (R180, R185). -/
def Barrier.note (b : Barrier) (c : Code) : Barrier :=
  if c = .ok then b
  else
    let n := b.status.toNat
    let first := if n % 65536 = 0 then codeNum c else n % 65536
    { b with status := BitVec.ofNat 32 (first + 65536 * min (n / 65536 + 1) 0xFFFF) }

/-- `n` more arrivals would overrun the phase. -/
def Barrier.overruns (b : Barrier) (n : Nat) : Bool :=
  b.expected == 0#11 || decide (b.expected.toNat < b.arrivals.toNat + n)

/-- The phase flips: waiters with its token are released (R185). -/
def State.flip (s : State) (r : BarRef) : State :=
  let b := s.barrier r
  let ws := (s.barWaiters r).filter (fun w => w.2 == b.phase)
  let s := s.setBarrier r { b with phase := !b.phase, arrivals := 0#11, signatures := [], sigInstr := none }
  (ws.foldl (fun s w => s.releaseWaiter w.1 b.status) s).refreshRef r

/-- `arrive` of R185, for an arrival that does not overrun. The token is the phase that stood before. -/
def State.arrive (s : State) (r : BarRef) (n : Nat) (c : Code) : State :=
  let b := (s.barrier r).note c
  let b := { b with arrivals := b.arrivals + BitVec.ofNat 11 n }
  let s := s.setBarrier r b
  if b.arrivals = b.expected then s.flip r else s

/-- An engine operation lands on its barrier: ENGPEND falls, and it arrives, or an overrun is noted (R186). -/
def State.engineArrive (s : State) (r : BarRef) (n : Nat) (c : Code) : State :=
  let b := s.barrier r
  let s := s.setBarrier r { b with engpend := b.engpend - 1 }
  if b.overruns n then s.setBarrier r ((s.barrier r).note .barrierOverrun) else s.arrive r n c

/-- Why an engine instruction may not name a barrier register of its group (R181, R186). -/
def engineBarFault (g : Group) (bar : Nat) : Option Code :=
  match g.bars[bar]? with
  | none => some .illegalOperand
  | some b =>
    if b.expected = 0#11 then some .barrierOverrun else if b.signatures ≠ [] then some .convergenceSpan else none

/-- An engine operation is issued on a barrier register: ENGPEND rises (R186). -/
def State.engineBegin (s : State) (gk bar : Nat) : State :=
  let r : BarRef := .reg gk bar
  let b := s.barrier r
  s.setBarrier r { b with engpend := b.engpend + 1 }

/-! ### Naming a barrier (R181, R182, R184) -/

/-- The offset of an object (R184). -/
def objOffset (a : Word) (b : BarMod) : Nat := (a + b.imm20.signExtend 32).toNat % 2 ^ 21

/-- The barrier that an instruction names, with the checks of R181 and R182. An object's MISALIGNED and PROTECTION come before
an n out of range of R187 and R188: their order is not stated. DESIGN CHOICE (log 162). -/
def withBarrier (s : State) (b : BarMod) (o : Opnds) (k : Nat → Thread → Group → BarRef → State → State) : Out :=
  onThread s (fun t th =>
    match th.group, s.groupOf t with
    | some gk, some g =>
      if b.obj then
        let (a, s1) := s.read32 t o.a
        let off := objOffset a b
        let cl := clusterOfCore g.core
        if off % 16 ≠ 0 then s.takeTrap t .misaligned (BitVec.ofNat 64 off)
        else if (s.spadOutside g.launch cl off 16).isSome then s.takeTrap t .protection (BitVec.ofNat 64 off)
        else k t th g (.obj cl off) s1
      else if g.bars.length ≤ b.bar.toNat then s.takeTrap t .illegalOperand 0#64
      else k t th g (.reg gk b.bar.toNat) s
    | _, _ => s.takeTrap t .unsupportedOnLc 0#64)

/-- A slice of an incomplete phase of an object (R225). -/
def State.slicesOn (s : State) (r : BarRef) : Bool :=
  match r with
  | .reg _ _ => false
  | .obj cl off => (s.cluster cl).slices.any (fun x => x.obj == off && !x.started)

/-- A barrier that BARINIT and BARINV may change (R187). A disarmed object is ordinary scratchpad and always is. -/
def State.barIdle (s : State) (r : BarRef) : Bool :=
  let b := s.barrier r
  let live := match r with
    | .reg _ _ => true
    | .obj cl off => (s.cluster cl).objArmed off
  !live || (b.arrivals == 0#11 && b.engpend == 0 && (s.barWaiters r).isEmpty)

/-- A thread's arrival: the checks of R194, R225 and R185, the release of R193, then the arrival. -/
def threadArrive (s0 s : State) (t : Nat) (r : BarRef) (n : Nat) (k : Bool → State → State) : State :=
  let b := s.barrier r
  if b.signatures ≠ [] then s0.takeTrap t .convergenceSpan 0#64
  else if s.slicesOn r || b.overruns n then s0.takeTrap t .barrierOverrun 0#64
  else k b.phase ((s.releaseClus (coreOfThread t)).arrive r n .ok)

/-- Waiting on a token (R189): at once where the phase has moved on. -/
def barWait (s : State) (t : Nat) (r : BarRef) (tok : Bool) (o : Opnds) : State :=
  let b := s.barrier r
  if b.phase ≠ tok then ((s.clockClus (coreOfThread t)).sendResult t (destReg o.d) [b.status]).advance t o.len
  else
    (match r with
     | .reg _ i => s.modThread t (fun th => { th with status := .barReg i tok o.d o.len })
     | .obj _ off => s.modThread t (fun th => { th with status := .barObj off tok o.d o.len })).refreshRef r

/-! ### The barrier instructions -/

/-- A barrier that BARINIT has initialised (R187). -/
def State.initBarrier (s : State) (r : BarRef) (n : Nat) : State :=
  let b := Barrier.start n
  match r with
  | .reg _ _ => s.setBarrier r b
  | .obj cl off =>
    s.modCluster cl (fun c =>
      { c.spadPut off (leBytes (b.word0 true).toNat 4 ++ List.replicate 12 0#8) with
        armed := if c.armed.contains off then c.armed else c.armed ++ [off] })

/-- BARINIT (R187). -/
def execBarinit (b : BarMod) (o : Opnds) (s : State) : Out :=
  withBarrier s b o (fun t _ _ r s1 =>
    let (n, s1) := s1.read32 t o.b
    if n = 0#32 ∨ 2047 < n.toNat then s.takeTrap t .illegalOperand 0#64
    else if !s1.barIdle r then s.takeTrap t .barrierOverrun 0#64
    else (s1.initBarrier r n.toNat).advance t o.len)

/-- BARARV (R188). -/
def execBararv (n : Bool) (b : BarMod) (o : Opnds) (s : State) : Out :=
  withBarrier s b o (fun t _ _ r s1 =>
    let (k, s1) := if n then s1.read32 t o.b else (1#32, s1)
    if k = 0#32 ∨ 2047 < k.toNat then s.takeTrap t .illegalOperand 0#64
    else threadArrive s s1 t r k.toNat (fun tok s2 =>
      (s2.sendResult t (destReg o.d) [if tok then 1#32 else 0#32]).advance t o.len))

/-- BARWAIT (R189). -/
def execBarwait (b : BarMod) (o : Opnds) (s : State) : Out :=
  withBarrier s b o (fun t _ _ r s1 =>
    let (k, s1) := s1.read32 t o.b
    if (s1.barrier r).expected = 0#11 then s.takeTrap t .barrierOverrun 0#64
    else barWait s1 t r (k.getLsbD 0) o)

/-- BARSYNC (R189). -/
def execBarsync (b : BarMod) (o : Opnds) (s : State) : Out :=
  withBarrier s b o (fun t _ _ r s1 => threadArrive s s1 t r 1 (fun tok s2 => barWait s2 t r tok o))

/-- The two words of BARSTAT (R191): of a disarmed object, the bytes as they stand. -/
def State.barWords (s : State) (r : BarRef) : List Word :=
  match r with
  | .reg _ _ => let b := s.barrier r; [b.word0 false, b.status]
  | .obj cl off =>
    let c := s.cluster cl
    [BitVec.ofNat 32 (c.spadNat off 4), BitVec.ofNat 32 (c.spadNat (off + 4) 4)]

/-- BARSTAT (R191). -/
def execBarstat (b : BarMod) (o : Opnds) (s : State) : Out :=
  withBarrier s b o (fun t _ _ r s1 => (s1.sendResult t (destReg o.d) (s1.barWords r)).advance t o.len)

/-- BARSTAT.clr (R191). -/
def execBarstatClr (b : BarMod) (o : Opnds) (s : State) : Out :=
  withBarrier s b o (fun t _ _ r s1 =>
    let ws := s1.barWords r
    let s2 := match r with
      | .reg _ _ => s1.setBarrier r { s1.barrier r with status := 0#32 }
      | .obj cl off => if (s1.cluster cl).objArmed off then s1.spadWrite cl (off + 4) [0#8, 0#8, 0#8, 0#8] else s1
    (s2.sendResult t (destReg o.d) ws).advance t o.len)

/-- BARSTAT.x (R191): a barrier register of another group of the die. -/
def execBarstatX (o : Opnds) (s : State) : Out :=
  onThread s (fun t th =>
    if !th.sup then s.takeTrap t .privilege 0#64
    else
      let (sel, s1) := s.read32 t o.b
      let x := sel.toNat
      let gk := groupKey (256 * dieOfThread t + bits x 0 8) (bits x 8 6)
      match s1.group? gk with
      | none => s.takeTrap t .illegalOperand 0#64
      | some g =>
        if bits x 20 12 ≠ 0 ∨ g.bars.length ≤ bits x 14 6 then s.takeTrap t .illegalOperand 0#64
        else (s1.sendResult t (destReg o.d) (s1.barWords (.reg gk (bits x 14 6)))).advance t o.len)

/-- BARINV (R187). A disarmed object has EXPECTED 0 (R183). -/
def execBarinv (b : BarMod) (o : Opnds) (s : State) : Out :=
  withBarrier s b o (fun t _ _ r s1 =>
    match r with
    | .reg _ _ =>
      if !s1.barIdle r then s.takeTrap t .barrierOverrun 0#64
      else (s1.setBarrier r { s1.barrier r with expected := 0#11 }).advance t o.len
    | .obj cl off =>
      if !(s1.cluster cl).objArmed off || !s1.barIdle r then s.takeTrap t .barrierOverrun 0#64
      else
        ((s1.setBarrier r { s1.barrier r with expected := 0#11 }).modCluster cl (fun c =>
          { c.spadPut (off + 3) [(c.spadByte (off + 3)) &&& 0x7F#8] with armed := c.armed.filter (· != off) })).advance
            t o.len)

/-! ### Signing (R194-R196) -/

/-- Operand fields that no signature compares. -/
def blankOpnds : Opnds := ⟨0#24, .none, .unread, .unread, .unread⟩

/-- Results of the ranks for an operation on a set, in rank order: lane, value and second operand of each (R197-R199). -/
abbrev Fire := List Signature → List (List Word)

/-- The signature is refused (R194). -/
def Barrier.refusesSign (b : Barrier) (i : Instr) (tid : Nat) : Bool :=
  decide (32 < b.expected.toNat) || b.arrivals.toNat != b.signatures.length || b.engpend != 0 ||
    (b.signatures != [] && (b.sigQuarter != quarterOf tid || b.sigInstr != some i ||
      b.signatures.any (fun x => x.lane == tid % 32)))

/-- Signatures in ascending lane order. -/
def rankInsert (x : Signature) : List Signature → List Signature
  | [] => [x]
  | y :: ys => if x.lane < y.lane then x :: y :: ys else y :: rankInsert x ys

/-- The set fires (R195): signers that wait complete, the last one goes on. -/
def State.fireSet (s : State) (r : BarRef) (sigs : List Signature) (last : Nat) (o : Opnds) (f : Fire) : State :=
  let s := s.flip r
  (sigs.zip (f sigs)).foldl (fun s p =>
    if p.1.thread = last then
      match o.d with
      | .pred _ => (s.modThread last (·.putResult o.d p.2)).advance last o.len
      | .gpr _ | .sreg _ | .none | .latch => (s.sendResult last (destReg o.d) p.2).advance last o.len
    else
      match s.thread? p.1.thread with
      | none => s
      | some th =>
        match th.status with
        | .signed _ len => s.completeWait p.1.thread p.1.d len p.2
        | _ => s) s

/-- A thread signs (R194). -/
def sign (s : State) (bar : BitVec 6) (i : Instr) (o : Opnds) (w64 b : Bool) (f : Fire) : Out :=
  withBarrier s ⟨bar, false, 0#20⟩ o (fun t th _ r s1 =>
    let (va, s1) := s1.read t w64 false 0#64 o.a
    let (vb, s1) := if b then s1.read32 t o.b else (0#32, s1)
    let x := s1.barrier r
    if x.expected = 0#11 then s.takeTrap t .barrierOverrun 0#64
    else if x.refusesSign i th.tid then s.takeTrap t .convergenceSpan 0#64
    else
      let sigs := rankInsert ⟨t, th.tid % 32, va, vb, o.d⟩ x.signatures
      if sigs.length = x.expected.toNat then s1.fireSet r sigs t o f
      else
        (s1.setBarrier r { x with
          arrivals := x.arrivals + 1#11, signatures := sigs, sigQuarter := quarterOf th.tid, sigInstr := some i }).modThread
            t (fun th => { th with status := .signed bar.toNat o.len }))

/-- The words of a value of the operation's size. -/
def sizeWords (w64 : Bool) (v : DWord) : List Word := wordsOf v.toNat (rn w64)

/-! ### SHFL, LRED, VOTE -/

/-- The rank whose value a rank receives (R197); none keeps its own. -/
def shflSource (mode : ShflMode) (rel : ShflRel) (n r : Nat) (b : Word) : Option Nat :=
  let off : Nat := match rel with
    | .operand => b.toNat
    | .half => n / 2
    | .quarter => n / 4
    | .eighth => n / 8
  let k : Int := match mode with
    | .idx => off
    | .up => (r : Int) - off
    | .down => Int.ofNat (r + off)
    | .xor => Int.ofNat (Nat.xor r off)
  if 0 ≤ k ∧ k < n then some k.toNat else none

/-- SHFL's results. -/
def shflFire (mode : ShflMode) (rel : ShflRel) (w64 : Bool) : Fire := fun sigs =>
  (List.range sigs.length).map (fun r =>
    match sigs[r]? with
    | some x =>
      match (shflSource mode rel sigs.length r x.b).bind (sigs[·]?) with
      | some y => sizeWords w64 y.a
      | none => sizeWords w64 x.a
    | none => [])

/-- SHFL (R197). -/
def execShfl (mode : ShflMode) (rel : ShflRel) (w64 : Bool) (bar : BitVec 6) (o : Opnds) (s : State) : Out :=
  sign s bar (.shfl mode rel w64 bar blankOpnds) o w64 (rel == .operand) (shflFire mode rel w64)

/-- The ATOM operation of the same name (R198). -/
def lredAtom (op : LredOp) : AtomOp :=
  match op with
  | .add => .add
  | .smin => .smin
  | .smax => .smax
  | .umin => .umin
  | .umax => .umax
  | .and => .and
  | .or => .or
  | .xor => .xor
  | .fadd => .fadd
  | .fmin => .fmin
  | .fmax => .fmax

/-- What rank 0 receives under `.excl` (R198). -/
def lredIdentity (op : LredOp) (w64 : Bool) : Nat :=
  let w := if w64 then 64 else 32
  let f : FFmt := if w64 then fF64 else fF32
  match op with
  | .add | .or | .xor | .umax => 0
  | .and | .umin => 2 ^ w - 1
  | .smin => 2 ^ (w - 1) - 1
  | .smax => 2 ^ (w - 1)
  | .fadd => f.signBit true
  | .fmin => f.inf false
  | .fmax => f.inf true

/-- The prefixes of a left fold. -/
def prefixes (f : Nat → Nat → Nat) : List Nat → List Nat
  | [] => []
  | v :: vs => (vs.foldl (fun acc x => acc ++ [f (acc.getLastD v) x]) [v])

/-- LRED's results (R198). -/
def lredFire (op : LredOp) (form : LredForm) (w64 : Bool) : Fire := fun sigs =>
  let n := if w64 then 8 else 4
  let p := prefixes (atomNat (lredAtom op) n) (sigs.map (fun x => x.a.toNat % 2 ^ (8 * n)))
  (match form with
   | .all => List.replicate sigs.length (p.getLastD 0)
   | .incl => p
   | .excl => lredIdentity op w64 :: p.dropLast).map (fun v => wordsOf v (rn w64))

/-- LRED (R198). -/
def execLred (op : LredOp) (form : LredForm) (w64 : Bool) (bar : BitVec 6) (o : Opnds) (s : State) : Out :=
  sign s bar (.lred op form w64 bar blankOpnds) o w64 false (lredFire op form w64)

/-- VOTE's results (R199). -/
def voteFire (kind : VoteKind) : Fire := fun sigs =>
  let n := sigs.length
  let set := sigs.map (fun x => x.a.setWidth 32 != 0#32)
  let count (l : List Bool) : Nat := l.count true
  let one (b : Bool) : Nat := if b then 1 else 0
  (List.range n).map (fun r =>
    [BitVec.ofNat 32 (match kind with
      | .every => one (set.all id)
      | .some => one (set.any id)
      | .agree => one (sigs.all (fun x => some (x.a.setWidth 32) == sigs.head?.map (fun y => y.a.setWidth 32)))
      | .mask => (sigs.foldl (fun acc x => if x.a.setWidth 32 != 0#32 then acc + 2 ^ x.lane else acc) 0)
      | .count => count set
      | .before => count (set.take r)
      | .lead => (set.idxOf? true).getD n)])

/-- VOTE (R199). -/
def execVote (kind : VoteKind) (bar : BitVec 6) (o : Opnds) (s : State) : Out :=
  sign s bar (.vote kind bar blankOpnds) o false false (voteFire kind)

/-! ### Withdrawal (R200) -/

/-- A stop removes the signatures of sets that have not fired. -/
def Barrier.withdraw (b : Barrier) : Barrier :=
  if b.signatures = [] then b else { b with arrivals := 0#11, signatures := [], sigInstr := none }

end Sys2Proof.Machine
end

