-- ==== Sys2Proof/Machine/Engine.lean ====
section
/-! DEFINITION. What the copy and matrix engines share: translation on behalf of a core (R217, R236, R302, R399),
accesses of global memory and scratchpad (R183, R216), and parking on a fault record (R303-R305). -/
namespace Sys2Proof.Machine

/-- How a step of an engine ends: with a value, at a fault of an access, or waiting for what will come about. -/
inductive Eng (α : Type) where
  | ok (v : α)
  | fault (va : DWord) (kind : Access) (c : Code) (level : Nat) (e : DWord)
  | wait
  deriving DecidableEq, Repr

/-- For whom an engine works: the core and thread that issued the operation, their privilege, the buffer. -/
structure Agent where
  core : Nat
  thread : Nat
  sup : Bool
  buf : Buf
  na : Bool
  /-- the operation -/
  who : Party
  deriving DecidableEq, Repr

/-- An engine's access as the walker takes it. -/
def engReq (core : Nat) (va : DWord) (kind : Access) (sup : Bool) : Req := ⟨va, kind, false, sup, 0, false, core, true, true⟩

/-- A party stands in its walker's queue for an address (R300). -/
def State.walkPending (s : State) (p : Party) (core : Nat) (va : DWord) (kind : Access) : Bool :=
  (s.cluster (walkerOfCore core)).walkq.any (fun k =>
    k.va.toNat / 65536 == va.toNat / 65536 && k.kind == kind && k.parties.any (fun w => w.who == p))

/-- An engine's translation: memory of this package alone (R377, R399). A miss enters the walker's queue, and the operation
waits at its unit (R300). -/
def State.engXlate (s : State) (g : Agent) (va : DWord) (kind : Access) : Eng (DWord × Nat) × State :=
  if va.extractLsb' 55 9 ≠ 0#9 then (.fault va kind .protection 1 0#64, s)
  else
    match s.xlateHit g.buf (engReq g.core va kind g.sup) with
    | (some (.ok e l pa), s) =>
      (if (homeDie pa).isSome then .ok (e, pa) else .fault va kind .protection l e, s)
    | (some (.fault c l e), s) => (.fault va kind c l e, s)
    | (some .mig, s) | (some .wait, s) => (.wait, s)
    | (none, s) =>
      match s.takeWalked g.who va kind with
      | (some w, s) => (.fault va kind w.code w.level w.entry, s)
      | (none, s) =>
        if s.walkPending g.who g.core va kind then (.wait, s)
        else
          let mtlb := match g.buf with
            | .matrix _ => true
            | .fetch _ | .data _ | .copy _ => false
          let q := engReq g.core va kind g.sup
          (.wait, (s.joinWalk q (q.walker g.who true mtlb)).2)

/-- Bytes of one line read by an engine, after the core's own stores to the line (R216). -/
def State.engLine (s : State) (g : Agent) (va : DWord) (n : Nat) : Eng (List Byte) × State :=
  match s.engXlate g va .read with
  | (.ok (e, pa), s) =>
    let s := s.refreshStall g.core pa none
    let (bs, s) := (s.wcSendLine g.core (lineNo pa)).engineRead g.core pa n e g.na
    (.ok bs, s)
  | (.fault va k c l e, s) => (.fault va k c l e, s)
  | (.wait, s) => (.wait, s)

/-- Bytes read by an engine, line by line; the fuel counts lines. -/
def State.engRead (s : State) (g : Agent) (va : DWord) (n : Nat) : Nat → Eng (List Byte) × State
  | 0 => (.ok [], s)
  | k + 1 =>
    if n = 0 then (.ok [], s)
    else
      let m := min n (128 - va.toNat % 128)
      match s.engLine g va m with
      | (.ok a, s) =>
        match s.engRead g (va + BitVec.ofNat 64 m) (n - m) k with
        | (.ok b, s) => (.ok (a ++ b), s)
        | (r, s) => (r, s)
      | (r, s) => (r, s)

/-- Runs of bytes written by an engine at physical addresses of one page. -/
def State.engPut (s : State) (g : Agent) (pa : Nat) (bs : List Byte) (e : DWord) : State :=
  (s.wcSendLine g.core (lineNo pa)).engineWrite g.core g.thread pa bs e g.na

/-- Bytes of a scratchpad written by an engine: those of armed objects are skipped, which the flag says (R183). -/
def State.spadPutSkip (s : State) (cl off : Nat) : List Byte → Bool × State
  | [] => (false, s)
  | b :: bs =>
    let hit := ((s.cluster cl).objectIn off 1).isSome
    let (h, s) := (if hit then s else s.spadWrite cl off [b]).spadPutSkip cl (off + 1) bs
    (hit || h, s)

/-- The fault of an engine operation as a record gives it (R304). -/
def State.engineFault (s : State) (p : Party) (cl agent : Nat) (thread : Nat) (pc va : DWord) (kind : Access) (c : Code)
    (level : Nat) (e : DWord) : Attachment :=
  let (l, sl, f) := s.partyOf thread
  ⟨p, none, false, va, pc, c, kind, agent, level, whereOfCluster cl, l, sl, f, e⟩

/-- A fault on which an engine operation parks (R302). -/
def parks (c : Code) : Bool := c == .pageNotPresent || c == .tableNotPresent

/-- The launch of an engine operation is going down: nothing of it parks any more (R168, R305, R354). -/
def State.launchGone (s : State) (l : Nat) : Bool :=
  s.launchReclaimed l || (match s.launch? l with
    | some x => match x.state with
      | .failed _ | .ended => true
      | .waiting | .queued | .placing | .running => false
    | none => true)

/-- An operation's token lands (R214). -/
def State.landToken (s : State) (t : Nat) (tok : Option Nat) (c : Code) : State := s.deliverCode t tok c

/-- How many of `left` pieces of work an engine does before others act: as the part chooses, 0 meaning all. -/
def State.chooseShare (s : State) (left : Nat) : Nat × State :=
  let (k, s) := s.choose (left + 1)
  (if k = 0 then left else k, s)

end Sys2Proof.Machine
end

