-- ==== Sys2Proof/Machine/Copy.lean ====
section
/-! DEFINITION. Class 0x8: the copy engine of a cluster (R211-R226) and shape records (R220-R224). -/
namespace Sys2Proof.Machine

/-! ### Units of a copy (R216) -/

/-- Where a destination byte comes from: a byte of the source side, or a constant. -/
inductive Src where
  | at_ (a : Nat)
  | byte (b : Byte)
  deriving DecidableEq, Repr

/-- A run of destination bytes: consecutive bytes of the source side, or constants. -/
inductive Run where
  | copy (dst src n : Nat)
  | bytes (dst : Nat) (bs : List Byte)
  deriving DecidableEq, Repr

/-- Destination address of a run. -/
def Run.dst (r : Run) : Nat :=
  match r with
  | .copy d _ _ => d
  | .bytes d _ => d

/-- The runs of a unit, from its bytes in ascending destination order. -/
def runsOf : List (Nat × Src) → List Run
  | [] => []
  | (d, x) :: rest =>
    match x, runsOf rest with
    | .at_ a, .copy d' a' n :: rs =>
      if d' = d + 1 ∧ a' = a + 1 then .copy d a (n + 1) :: rs else .copy d a 1 :: .copy d' a' n :: rs
    | .at_ a, rs => .copy d a 1 :: rs
    | .byte b, .bytes d' bs :: rs =>
      if d' = d + 1 then .bytes d (b :: bs) :: rs else .bytes d [b] :: .bytes d' bs :: rs
    | .byte b, rs => .bytes d [b] :: rs

/-- Bytes in ascending destination order cut into 128-byte units. -/
def unitsOf (l : List (Nat × Src)) : List (List (Nat × Src)) := l.splitBy (fun x y => x.1 / 128 == y.1 / 128)

/-- The sides of an operation. -/
structure Sides where
  ssp : Bool
  dsp : Bool
  cluster : Nat
  agent : Agent
  deriving DecidableEq, Repr

/-- Bytes of a side read; an access of the scratchpad waits while the engine's queue at the bank is full (R208). -/
def State.sideRead (s : State) (x : Sides) (a n : Nat) : Eng (List Byte) × State :=
  if x.ssp then
    if s.engineRoom x.cluster (bankOf a) then
      (.ok ((s.cluster x.cluster).spadRead a n), s.engineEnters x.cluster (bankOf a))
    else (.wait, s)
  else s.engRead x.agent (BitVec.ofNat 64 a) n (n / 128 + 2)

/-- The single accesses that a run is made of (R216): an aligned 8-byte part whose source is aligned is one, any other byte
is one of its own. The fuel counts bytes. -/
def copyParts (d a n : Nat) : Nat → List Run
  | 0 => []
  | k + 1 =>
    if n = 0 then []
    else if d % 8 = 0 ∧ a % 8 = 0 ∧ 8 ≤ n then .copy d a 8 :: copyParts (d + 8) (a + 8) (n - 8) k
    else .copy d a 1 :: copyParts (d + 1) (a + 1) (n - 1) k

/-- The accesses of a run. -/
def Run.parts (r : Run) : List Run :=
  match r with
  | .copy d a n => copyParts d a n n
  | .bytes d bs => bs.zipIdx.map (fun p => .bytes (d + p.2) [p.1])

/-- The bytes of one access. -/
def State.partOf (s : State) (x : Sides) (r : Run) : Eng (List Byte) × State :=
  match r with
  | .bytes _ bs => (.ok bs, s)
  | .copy _ a n => s.sideRead x a n

/-- One access of a destination; the flag says that bytes of an armed object were skipped. -/
def State.sideWrite (s : State) (x : Sides) (d : Nat) (bs : List Byte) : Eng Bool × State :=
  if x.dsp then
    if s.engineRoom x.cluster (bankOf d) then
      let (h, s) := (s.engineEnters x.cluster (bankOf d)).spadPutSkip x.cluster d bs
      (.ok h, s)
    else (.wait, s)
  else
    match s.engXlate x.agent (BitVec.ofNat 64 d) .write with
    | (.ok (e, pa), s) => (.ok false, s.engPut x.agent pa bs e)
    | (.fault va k c l e, s) => (.fault va k c l e, s)
    | (.wait, s) => (.wait, s)

/-- An operation stands at the start of a unit. -/
def CopyOp.atUnit (op : CopyOp) (i : Nat) : CopyOp := { op with pos := i, phase := 0, held := [] }

/-- The next access of an operation in the unit it stands at: all that the unit reads, then all that it writes, each in
ascending order. DESIGN CHOICE. A fault leaves it at the start of the unit. -/
def State.copyAccess (s : State) (x : Sides) (ps : List Run) (op : CopyOp) : Eng Unit × CopyOp × State :=
  match ps[op.phase]? with
  | some r =>
    match s.partOf x r with
    | (.ok bs, s) => (.ok (), { op with phase := op.phase + 1, held := op.held ++ [bs] }, s)
    | (.fault va k c l e, s) => (.fault va k c l e, op.atUnit op.pos, s)
    | (.wait, s) => (.wait, op, s)
  | none =>
    let j := op.phase - ps.length
    match ps[j]?, op.held[j]? with
    | some r, some bs =>
      match s.sideWrite x r.dst bs with
      | (.ok h, s) =>
        let op := { op with phase := op.phase + 1, clobber := op.clobber || h }
        (.ok (), if j + 1 < ps.length then op else op.atUnit (op.pos + 1), s)
      | (.fault va k c l e, s) => (.fault va k c l e, op.atUnit op.pos, s)
      | (.wait, s) => (.wait, op, s)
    | _, _ => (.ok (), op.atUnit (op.pos + 1), s)

/-- The accesses of an operation of `n` units in order, from where it stands; the fuel counts accesses. -/
def State.copyUnits (s : State) (x : Sides) (unit : Nat → List Run) (n : Nat) (op : CopyOp) :
    Nat → Eng Unit × CopyOp × State
  | 0 => (.ok (), op, s)
  | k + 1 =>
    if n ≤ op.pos then (.ok (), op, s)
    else
      match s.copyAccess x ((unit op.pos).flatMap Run.parts) op with
      | (.ok (), op, s) => s.copyUnits x unit n op k
      | (r, op, s) => (r, op, s)

/-- The most accesses that `n` units are made of. -/
def unitAccesses (n : Nat) : Nat := 256 * n

/-- Units of `n` contiguous destination bytes. -/
def unitCount (dst n : Nat) : Nat := if n = 0 then 0 else (dst + n - 1) / 128 - dst / 128 + 1

/-- Destination range of the i-th unit. -/
def unitRange (dst n i : Nat) : Nat × Nat :=
  let lo := max dst (128 * (dst / 128 + i))
  let hi := min (dst + n) (128 * (dst / 128 + i + 1))
  (lo, hi - lo)

/-- The i-th unit of a CP. -/
def cpUnit (dst src n i : Nat) : List Run := let (a, m) := unitRange dst n i; [.copy a (src + (a - dst)) m]

/-- The i-th unit of a CPFILL with a pattern of `size` bytes. -/
def fillUnit (dst n size : Nat) (pattern : Word) (i : Nat) : List Run :=
  let (a, m) := unitRange dst n i
  [.bytes a ((List.range m).map (fun j => BitVec.ofNat 8 (pattern.toNat / 2 ^ (8 * ((a + j - dst) % size)))))]

/-! ### Shape records (R220-R222) -/

/-- A shape record's fields. -/
structure Shape where
  base : Nat
  fmt : Nat
  space : Nat
  ndim : Nat
  ilv : Nat
  pad : Nat
  ext : List Nat
  stride : List Nat
  tile : List Nat
  deriving DecidableEq, Repr

/-- The record in 64 bytes. STRIDE0 stands in front of the strides and is filled in by `stride4`. -/
def shapeOf (b : List Byte) : Shape where
  base := fieldAt b 0 8
  fmt := fieldAt b 8 1
  space := fieldAt b 9 1
  ndim := fieldAt b 10 1
  ilv := fieldAt b 11 1
  pad := fieldAt b 12 4
  ext := (List.range 4).map (fun i => fieldAt b (0x10 + 4 * i) 4)
  stride := 0 :: (List.range 3).map (fun i => fieldAt b (0x20 + 8 * i) 8)
  tile := (List.range 4).map (fun i => fieldAt b (0x38 + 2 * i) 2)

/-- The i-th of a list of numbers. -/
def natAt (l : List Nat) (i : Nat) : Nat := (l[i]?).getD 0

/-- The element format. -/
def Shape.format (x : Shape) : Option Fmt := if 14 < x.fmt then none else Fmt.ofCode (BitVec.ofNat 4 x.fmt)

/-- Element size in quarters of a byte: 3 for .t6 (R220). -/
def Shape.e4 (x : Shape) : Nat :=
  match x.format with
  | some .t6 => 3
  | some f => f.bits / 2
  | none => 4

/-- The elements are .t6. -/
def Shape.t6 (x : Shape) : Bool := x.format == some .t6

/-- Bytes that move as one: an element, or a group of four .t6. -/
def Shape.unit (x : Shape) : Nat := if x.t6 then 3 else x.e4 / 4

/-- Tile and interleave as the mapping uses them: dimensions at or above NDIM count as 1 (R222). -/
def Shape.tileAt (x : Shape) (d : Nat) : Nat := if d < x.ndim then natAt x.tile d else 1
/-- Interleave factor as the mapping uses it. -/
def Shape.v (x : Shape) : Nat := if x.ndim = 1 then 1 else x.ilv
/-- Interleave groups. -/
def Shape.g (x : Shape) : Nat := (x.tileAt 1 + x.v - 1) / x.v

/-- Elements of the linear side of one tile (R222). -/
def Shape.linElems (x : Shape) : Nat := x.tileAt 0 * (x.g * x.v) * x.tileAt 2 * x.tileAt 3

/-- Bytes of the linear side of one tile, rounded up (R224). -/
def Shape.linBytes (x : Shape) : Nat := (x.linElems * x.e4 + 3) / 4

/-- One past the last byte of the tensor, from BASE. -/
def Shape.extent (x : Shape) : Nat :=
  (natAt x.ext 0 * x.e4 + 3) / 4 + ((List.range 3).map (fun i =>
    if i + 1 < x.ndim then (natAt x.ext (i + 1) - 1) * natAt x.stride (i + 1) else 0)).sum

/-- A contradictory record (R221). -/
def Shape.contradictory (x : Shape) : Bool :=
  let used := List.range x.ndim
  let unused := (List.range 4).filter (fun d => decide (x.ndim ≤ d))
  let sp := x.space % 2 == 1
  let padBits := if x.t6 then 6 else min 32 (2 * x.e4)
  decide (1 < x.space) || x.format.isNone || decide (x.ndim = 0) || decide (4 < x.ndim) || decide (x.ilv = 0) ||
    decide (64 < x.ilv) || decide (2 ^ padBits ≤ x.pad) || (sp && decide (2 ^ 21 ≤ x.base)) ||
    unused.any (fun d => natAt x.ext d != 0 || natAt x.tile d != 0 || natAt x.stride d != 0) ||
    used.any (fun d => natAt x.ext d == 0 || natAt x.tile d == 0 || decide (natAt x.ext d < natAt x.tile d)) ||
    decide (4 * x.base % x.e4 ≠ 0) || (List.range 4).any (fun d => 4 * natAt x.stride d % x.e4 != 0) ||
    (x.t6 && (natAt x.ext 0 % 4 != 0 || natAt x.tile 0 % 4 != 0 || decide (1 < x.ilv))) ||
    (decide (2 ≤ x.ndim) && decide (4 * natAt x.stride 1 < x.e4 * natAt x.ext 0)) ||
    (List.range x.ndim).any (fun d => decide (2 ≤ d) &&
      decide (natAt x.stride d < natAt x.stride (d - 1) * natAt x.ext (d - 1))) ||
    (decide (1 < x.ilv) && decide (x.ndim < 2)) ||
    decide ((if sp then 2 ^ 21 else 2 ^ 55) < x.base + x.extent) || decide (2 ^ 24 < x.linBytes)

/-- A coordinate of the tensor, if it lies inside (R222). -/
def Shape.coord (x : Shape) (o : List Int) (d t : Nat) : Option Nat :=
  if d < x.ndim then
    let i := (o[d]?).getD 0 + t
    if 0 ≤ i ∧ i < natAt x.ext d then some i.toNat else none
  else some 0

/-- The address of the moved unit at tile position t0 (in elements), t1, t2, t3, if it is inside. -/
def Shape.address (x : Shape) (o : List Int) (t0 t1 t2 t3 : Nat) : Option Nat :=
  if x.tileAt 1 ≤ t1 then none
  else
    match x.coord o 0 t0, x.coord o 1 t1, x.coord o 2 t2, x.coord o 3 t3 with
    | some i0, some i1, some i2, some i3 =>
      some (x.base + i0 * x.e4 / 4 + i1 * natAt x.stride 1 + i2 * natAt x.stride 2 + i3 * natAt x.stride 3)
    | _, _, _, _ => none

/-- Elements that one moved unit holds along dimension 0. -/
def Shape.step (x : Shape) : Nat := if x.t6 then 4 else 1

/-- The bytes of a pad unit. PAD has 32 bits: of a 64-bit format it gives the low half, and the high half is zero. DESIGN
CHOICE. -/
def Shape.padBytes (x : Shape) : List Byte :=
  let v := if x.t6 then x.pad * (1 + 2 ^ 6 + 2 ^ 12 + 2 ^ 18) else x.pad
  leBytes v x.unit

/-- Moved units along dimension 0 of the tile. -/
def Shape.t0Units (x : Shape) : Nat := x.tileAt 0 / x.step

/-- The linear byte offset of a tile position, t0 counted in moved units (R222). -/
def Shape.linAt (x : Shape) (t0 t1 t2 t3 : Nat) : Nat :=
  ((((t3 * x.tileAt 2 + t2) * x.g + t1 / x.v) * x.t0Units + t0) * x.v + t1 % x.v) * x.unit

/-- The bytes that CPT.ld writes, in ascending linear order, from a linear address. -/
def Shape.loadBytes (x : Shape) (o : List Int) (linear : Nat) : List (Nat × Src) :=
  (List.range (x.linElems / x.step)).flatMap (fun k =>
    let ln := k % x.v
    let t0 := k / x.v % x.t0Units
    let g := k / (x.v * x.t0Units) % x.g
    let t2 := k / (x.v * x.t0Units * x.g) % x.tileAt 2
    let t3 := k / (x.v * x.t0Units * x.g * x.tileAt 2)
    let d := linear + k * x.unit
    match x.address o (t0 * x.step) (g * x.v + ln) t2 t3 with
    | some a => (List.range x.unit).map (fun j => (d + j, Src.at_ (a + j)))
    | none => (List.range x.unit).map (fun j => (d + j, Src.byte ((x.padBytes[j]?).getD 0#8))))

/-- The bytes that CPT.st writes, in ascending tensor order. -/
def Shape.storeBytes (x : Shape) (o : List Int) (linear : Nat) : List (Nat × Src) :=
  (List.range (x.tileAt 3)).flatMap (fun t3 => (List.range (x.tileAt 2)).flatMap (fun t2 =>
    (List.range (x.tileAt 1)).flatMap (fun t1 => (List.range x.t0Units).flatMap (fun t0 =>
      match x.address o (t0 * x.step) t1 t2 t3 with
      | some a => (List.range x.unit).map (fun j => (a + j, Src.at_ (linear + x.linAt t0 t1 t2 t3 + j)))
      | none => []))))

/-! ### Checks at issue (R213) -/

/-- The offset or address of a side. -/
def sideAddr (sp : Bool) (a : DWord) : Nat := if sp then a.toNat % 2 ^ 21 else a.toNat

/-- The first byte of a scratchpad side outside the launch's allocations. -/
def State.sideOutside (s : State) (g : Group) (sp : Bool) (a n : Nat) : Option Nat :=
  if sp then s.spadOutside g.launch (clusterOfCore g.core) a n else none

/-- Two ranges of one space overlap. -/
def rangesMeet (a b n : Nat) : Bool := decide (n ≠ 0) && decide (a < b + n) && decide (b < a + n)

/-- Operations of a core in its cluster's queue (R211). -/
def Cluster.copiesOf (c : Cluster) (core : Nat) : List CopyOp := c.copyq.filter (fun o => o.core == core)

/-- The core's 16 entries are taken: a class 0x8 instruction is not issued (R211). -/
def State.copyShareFull (s : State) (core : Nat) : Bool :=
  decide (16 ≤ ((s.cluster (clusterOfCore core)).copiesOf core).length)

/-- The operation that the engine takes up next: the oldest waiting one of the first core, from `copyNext` on, that has
one (R211). -/
def Cluster.nextCopy (c : Cluster) : Option CopyOp :=
  [0, 1, 2, 3].findSome? (fun i => c.copyq.find? (fun o => !o.started && o.core % 4 == (c.copyNext + i) % 4))

/-- The engine takes up operations until 8 have been (R211). One that is parked counts. DESIGN CHOICE. The fuel counts
operations. -/
def Cluster.startCopies (c : Cluster) : Nat → Cluster
  | 0 => c
  | k + 1 =>
    if 8 ≤ (c.copyq.filter (·.started)).length then c
    else
      match c.nextCopy with
      | none => c
      | some p => ({ c with
          copyq := c.copyq.map (fun o => if o.id = p.id then { o with started := true } else o)
          copyNext := (p.core + 1) % 4 } : Cluster).startCopies k

/-- An operation enters the queue. -/
def Cluster.addCopy (c : Cluster) (op : CopyOp) : Cluster := ({ c with copyq := c.copyq ++ [op] } : Cluster).startCopies 8

/-- An operation leaves the queue. -/
def Cluster.dropCopy (c : Cluster) (id : Nat) : Cluster :=
  ({ c with copyq := c.copyq.filter (fun o => o.id != id) } : Cluster).startCopies 8

/-- A copy is queued: D becomes pending, ENGPEND rises (R211, R214, R215). -/
def State.queueCopy (s : State) (t gk : Nat) (g : Group) (th : Thread) (kind : CopyKind) (na : Bool) (arv : Option Nat)
    (o : Opnds) : State :=
  let s := match destReg o.d with
    | some r => s.modThread t (·.pend r 1)
    | none => s
  let s := match arv with
    | some b => s.engineBegin gk b
    | none => s
  let op : CopyOp := ⟨s.nextOp, g.core, t, gk, g.launch, th.pc, th.sup, kind, na, destReg o.d, arv, false, 0, 0, [], false, false,
    none⟩
  ({ s with nextOp := s.nextOp + 1 }.modCluster (clusterOfCore g.core) (·.addCopy op)).advance t o.len

/-- Issue of CP, CPT and CPFILL: `pre` are the checks of steps 2 to 4 of R213, with the address of the trap. -/
def issueCopy (s : State) (v : ArvMod) (o : Opnds) (na : Bool)
    (pre : State → Nat → Group → Option (Code × DWord) × CopyKind × State) : Out :=
  onThread s (fun t th =>
    match th.group, s.groupOf t with
    | some gk, some g =>
      if s.copyShareFull g.core then { s with retry := true }
      else if v.arv && decide (g.bars.length ≤ v.bar.toNat) then s.takeTrap t .illegalOperand 0#64
      else
        match pre s t g with
        | (some (c, va), _, _) => s.takeTrap t c va
        | (none, kind, s1) =>
          match (if v.arv then engineBarFault g v.bar.toNat else none) with
          | some c => s.takeTrap t c 0#64
          | none => s1.queueCopy t gk g th kind na (if v.arv then some v.bar.toNat else none) o
    | _, _ => s.takeTrap t .unsupportedOnLc 0#64)

/-- The first of a list of checks that fails. -/
def firstFault (l : List (Option (Code × DWord))) : Option (Code × DWord) := l.findSome? id

/-- A check that fails with a code at an address. -/
def failIf (b : Bool) (c : Code) (va : Nat) : Option (Code × DWord) := if b then some (c, BitVec.ofNat 64 va) else none

/-- A scratchpad range outside the allocations. -/
def outsideFault (x : Option Nat) : Option (Code × DWord) := x.map (fun a => (Code.protection, BitVec.ofNat 64 a))

/-- CP (R218). -/
def execCp (dir : DirMod) (v : ArvMod) (o : Opnds) (s : State) : Out :=
  issueCopy s v o dir.na (fun s t g =>
    let (a, s) := s.read64 t o.a
    let (b, s) := s.read64 t o.b
    let (n, s) := s.read32 t o.c
    let n := n.toNat
    let d := sideAddr dir.dsp a
    let c := sideAddr dir.ssp b
    (firstFault [failIf (decide (2 ^ 30 < n)) .illegalOperand 0,
        outsideFault (s.sideOutside g dir.dsp d n), outsideFault (s.sideOutside g dir.ssp c n),
        failIf (dir.ssp == dir.dsp && rangesMeet d c n) .illegalOperand 0],
      .cp dir.ssp dir.dsp (BitVec.ofNat 64 d) (BitVec.ofNat 64 c) n, s))

/-- Bytes of a pattern. -/
def FillSize.count (z : FillSize) : Nat :=
  match z with
  | .b8 => 1
  | .b16 => 2
  | .b32 => 4

/-- CPFILL (R219). -/
def execCpfill (dsp na : Bool) (size : FillSize) (v : ArvMod) (o : Opnds) (s : State) : Out :=
  issueCopy s v o na (fun s t g =>
    let (a, s) := s.read64 t o.a
    let (n, s) := s.read32 t o.b
    let (p, s) := s.read32 t o.c
    let n := n.toNat
    let z := FillSize.count size
    let d := sideAddr dsp a
    (firstFault [failIf (decide (2 ^ 30 < n)) .illegalOperand 0,
        failIf (decide (d % z ≠ 0) || decide (n % z ≠ 0)) .misaligned d,
        outsideFault (s.sideOutside g dsp d n)],
      .fill dsp (BitVec.ofNat 64 d) n z p, s))

/-- CPT (R223). -/
def issueTile (store lsp na rsp : Bool) (v : ArvMod) (o : Opnds) (s : State) : Out :=
  issueCopy s v o na (fun s t g =>
    let (a, s) := s.read64 t o.a
    let (b, s) := s.read64 t o.b
    let q := match s.thread? t with
      | some th => th.quad o.c
      | none => []
    let w (i : Nat) : Word := (q[i]?).getD 0#32
    let r := sideAddr rsp a
    let l := sideAddr lsp b
    (firstFault [failIf (decide (r % 64 ≠ 0)) .misaligned r,
        outsideFault (s.sideOutside g rsp r 64), outsideFault (s.sideOutside g lsp l 1)],
      .tile store lsp rsp (BitVec.ofNat 64 r) (BitVec.ofNat 64 l) (w 0) (w 1) (w 2) (w 3) [], s))

/-- CPT.ld (R223). -/
def execCptLd (lsp na rsp : Bool) (v : ArvMod) (o : Opnds) (s : State) : Out := issueTile false lsp na rsp v o s

/-- CPT.st (R223). -/
def execCptSt (lsp na rsp : Bool) (v : ArvMod) (o : Opnds) (s : State) : Out := issueTile true lsp na rsp v o s

/-- SHCHK's result from the record. -/
def shapeWords (b : List Byte) : List Word :=
  let x := shapeOf b
  if x.contradictory then [codeWord .shapeInvalid, 0#32] else [0#32, BitVec.ofNat 32 x.linBytes]

/-- SHCHK (R224). -/
def execShchk (rsp : Bool) (o : Opnds) (s : State) : Out :=
  orderedMem s (fun t th =>
    let core := coreOfThread t
    let (a, s) := s.read64 t o.a
    if !threadOnLC t && s.copyShareFull core then { s with retry := true } else
    let done (s : State) (b : List Byte) : State := (s.sendResult t (destReg o.d) (shapeWords b)).advance t o.len
    if rsp then s.withSpad t a 64 (fun cl off s => done s ((s.cluster cl).spadRead off 64))
    else
      s.withGlobal t (threadReq s t a .read 64 false false) (fun e pa s =>
        if (homeDie pa).isNone then s.parkThread t a th.pc .protection .read (s.dataLevel t a) e
        else
          let (bs, s) := s.coreLoad core pa 64 e false (s.whoOf t)
          done s bs))

/-! ### CPG (R225) -/

/-- The slices of an object's incomplete phase. -/
def Cluster.openSlices (c : Cluster) (obj : Nat) : List CpgSlice := c.slices.filter (fun x => x.obj == obj && !x.started)

/-- The slice is recorded and arrives; the phase's last one starts the operation, whose reads come after every slice's
arrival: an acquire at `.clus` by the core of each slice (R225). -/
def State.addSlice (s : State) (x : CpgSlice) (gk : Nat) (g : Group) : Bool × State :=
  let cl := clusterOfCore g.core
  let r : BarRef := .obj cl x.obj
  let tok := (s.barrier r).phase
  let s := s.modCluster cl (fun c => { c with slices := c.slices ++ [x] })
  let s := (s.releaseClus g.core).arrive r 1 .ok
  if (s.barrier r).phase = tok then (tok, s)
  else
    let b := s.barrier r
    let s := s.setBarrier r { b with engpend := b.engpend + 1 }
    let s := ((s.cluster cl).openSlices x.obj).foldl (fun s y => s.clockClus y.core) s
    let op : CopyOp :=
      ⟨s.nextOp, g.core, x.thread, gk, g.launch, x.pc, x.sup, .collective x.obj, x.na, none, none, false, 0, 0, [], false,
        false, none⟩
    (tok, { s with nextOp := s.nextOp + 1 }.modCluster cl (fun c => ({ c with
      slices := c.slices.map (fun (y : CpgSlice) => if y.obj = x.obj ∧ y.started = false then { y with started := true } else y)
      } : Cluster).addCopy op))

/-- CPG (R225). -/
def execCpg (dir : DirMod) (len16 : BitVec 21) (o : Opnds) (s : State) : Out :=
  onThread s (fun t th =>
    match th.group, s.groupOf t with
    | some gk, some g =>
      let cl := clusterOfCore g.core
      if s.copyShareFull g.core || decide (256 ≤ (s.cluster cl).slices.length) then { s with retry := true }
      else
        let (a, s1) := s.read64 t o.a
        let (b, s1) := s1.read64 t o.b
        let (c, s1) := s1.read32 t o.c
        let n := 16 * len16.toNat
        let d := sideAddr dir.dsp a
        let x := sideAddr dir.ssp b
        let off := c.toNat % 2 ^ 21
        let r : BarRef := .obj cl off
        match firstFault [failIf (n == 0) .illegalOperand 0, failIf (d % 16 != 0) .misaligned d,
            failIf (x % 16 != 0) .misaligned x, failIf (off % 16 != 0) .misaligned off,
            outsideFault (s1.sideOutside g dir.dsp d n), outsideFault (s1.sideOutside g dir.ssp x n),
            outsideFault ((s1.spadOutside g.launch cl off 16).map (fun _ => off)),
            failIf (dir.ssp == dir.dsp && rangesMeet d x n) .illegalOperand 0] with
        | some (code, va) => s.takeTrap t code va
        | none =>
          let bar := s1.barrier r
          if bar.arrivals.toNat != ((s1.cluster cl).openSlices off).length || bar.engpend != 0 || bar.overruns 1 then
            s.takeTrap t .barrierOverrun 0#64
          else
            let slice : CpgSlice := ⟨off, dir.ssp, dir.dsp, dir.na, BitVec.ofNat 64 d, BitVec.ofNat 64 x, n, t, g.core,
              g.launch, th.pc, th.sup, false, none⟩
            let (tok, s2) := s1.addSlice slice gk g
            (s2.sendResult t (destReg o.d) [if tok then 0#32 else 1#32]).advance t o.len
    | _, _ => s.takeTrap t .unsupportedOnLc 0#64)

/-! ### Landing (R214-R217, R223, R225) -/

/-- For whom an operation works. -/
def copyAgent (cl id : Nat) (core thread : Nat) (sup na : Bool) : Agent := ⟨core, thread, sup, .copy cl, na, .copy cl id⟩

/-- An operation leaves the queue: its token, then its arrival (R214, R215). -/
def State.landCopy (s : State) (cl : Nat) (op : CopyOp) (c : Code) : State :=
  let s := s.modCluster cl (·.dropCopy op.id)
  let s := s.landToken op.thread op.tok c
  match op.arv with
  | some b => s.engineArrive (.reg op.group b) 1 c
  | none => s

/-- An operation that goes on standing in the queue. -/
def State.keepCopy (s : State) (cl : Nat) (op : CopyOp) : State :=
  s.modCluster cl (fun x => { x with copyq := x.copyq.map (fun o => if o.id = op.id then op else o) })

/-- An operation meets a fault: it parks with a record, or ends with the code (R217). -/
def State.copyFault (s : State) (cl : Nat) (op : CopyOp) (va : DWord) (kind : Access) (c : Code) (level : Nat)
    (e : DWord) (land : State → State) : State :=
  if parks c && !s.launchGone op.launch then
    (s.keepCopy cl { op with parked := true }).fileFault (cl / 64)
      (s.engineFault (.copy cl op.id) cl 3 op.thread op.pc va kind c level e)
  else land s

/-- The units of an operation run, from where it stands, as many accesses as the part chooses. -/
def State.runCopy (s : State) (cl : Nat) (op : CopyOp) (x : Sides) (n : Nat) (unit : Nat → List Run) : State :=
  let (m, s) := s.chooseShare (unitAccesses (n - op.pos))
  match s.copyUnits x unit n op m with
  | (.ok (), op, s) => if op.pos < n then s.keepCopy cl op else s.landCopy cl op (if op.clobber then .barrierClobber else .ok)
  | (.wait, op, s) => s.keepCopy cl op
  | (.fault va k c l e, op, s) => s.copyFault cl op va k c l e (fun s => s.landCopy cl op c)

/-- Why a tile may not move (R223). An overlap of its two sides in one space is not checked here: R223 names none. DEDUCED. -/
def State.tileFault (s : State) (cl launch : Nat) (x : Shape) (lsp : Bool) (linear : Nat) (o0 : Int) : Option Code :=
  if x.contradictory || (x.t6 && o0 % 4 != 0) then some .shapeInvalid
  else if 4 * linear % x.e4 ≠ 0 then some .misaligned
  else if (lsp && (s.spadOutside launch cl linear x.linBytes).isSome) ||
      (x.space % 2 == 1 && (s.spadOutside launch cl x.base x.extent).isSome) then some .protection
  else none

/-- A tile once its record is read. -/
def State.runTile (s : State) (cl : Nat) (op : CopyOp) (store lsp : Bool) (linear : Nat) (o : List Int) (b : List Byte) :
    State :=
  let x := shapeOf b
  match s.tileFault cl op.launch x lsp linear ((o[0]?).getD 0) with
  | some c => s.landCopy cl op c
  | none =>
    let tsp := x.space % 2 == 1
    let us := unitsOf (if store then x.storeBytes o linear else x.loadBytes o linear)
    let sides : Sides := ⟨if store then lsp else tsp, if store then tsp else lsp, cl,
      copyAgent cl op.id op.core op.thread op.sup op.na⟩
    s.runCopy cl op sides us.length (fun i => runsOf ((us[i]?).getD []))

/-- The record of a tile, read as the first source access (R223). -/
def State.tileRecord (s : State) (cl : Nat) (op : CopyOp) (rsp : Bool) (rec : DWord) : Eng (List Byte) × State :=
  if rsp then
    let banks := [0, 16, 32, 48].map (fun i => bankOf (rec.toNat + i))
    if banks.all (s.engineRoom cl) then
      (.ok ((s.cluster cl).spadRead rec.toNat 64), banks.foldl (fun s b => s.engineEnters cl b) s)
    else (.wait, s)
  else s.engRead (copyAgent cl op.id op.core op.thread op.sup op.na) rec 64 2

/-- The code that a collective carries: the first nonzero one in arrival order (R225). -/
def sliceCode (l : List CpgSlice) : Code :=
  (l.findSome? (fun x => match x.code with
    | some .ok => none
    | r => r)).getD .ok

/-- The slices of a started operation, in arrival order. -/
def Cluster.startedSlices (c : Cluster) (obj : Nat) : List CpgSlice := c.slices.filter (fun x => x.obj == obj && x.started)

/-- The first unfinished slice of an operation ends with a code. -/
def endSlice (obj : Nat) (c : Code) : List CpgSlice → List CpgSlice
  | [] => []
  | x :: xs => if x.obj = obj ∧ x.started = true ∧ x.code = none then { x with code := some c } :: xs else x :: endSlice obj c xs

/-- A collective runs: its slices in arrival order (R225). The fuel counts the slices. -/
def State.runSlices (s : State) (cl : Nat) (op : CopyOp) (obj : Nat) : Nat → State
  | 0 =>
    let c := sliceCode ((s.cluster cl).startedSlices obj)
    let s := s.modCluster cl (fun x => ({ x with
      slices := x.slices.filter (fun (y : CpgSlice) => !(y.obj == obj && y.started)) } : Cluster).dropCopy op.id)
    let r : BarRef := .obj cl obj
    s.engineArrive r (s.barrier r).expected.toNat c
  | k + 1 =>
    match ((s.cluster cl).startedSlices obj).find? (fun x => x.code == none) with
    | none => s.runSlices cl op obj k
    | some x =>
      let sides : Sides := ⟨x.ssp, x.dsp, cl, copyAgent cl op.id x.core x.thread x.sup x.na⟩
      let next (s : State) (c : Code) : State :=
        (s.modCluster cl (fun y => { y with slices := endSlice obj c y.slices })).runSlices cl
          { op.atUnit 0 with clobber := false } obj k
      let d := x.dst.toNat
      let n := unitCount d x.len
      let (m, s) := s.chooseShare (unitAccesses (n - op.pos))
      match s.copyUnits sides (cpUnit d x.src.toNat x.len) n op m with
      | (.ok (), op, s) => if op.pos < n then s.keepCopy cl op else next s (if op.clobber then .barrierClobber else .ok)
      | (.wait, op, s) => s.keepCopy cl op
      | (.fault va kd c l e, op, s) =>
        s.copyFault cl { op with thread := x.thread, pc := x.pc } va kd c l e (fun s => next s c)

/-- A copy operation runs (R211, R216). A cancelled one ends with its code; of a collective, the slice it stood at. -/
def State.stepCopy (s : State) (cl : Nat) (op : CopyOp) : State :=
  let agent := copyAgent cl op.id op.core op.thread op.sup op.na
  match op.kind with
  | .collective obj =>
    let s := match op.result with
      | some c => s.modCluster cl (fun y => { y with slices := endSlice obj c y.slices })
      | none => s
    let op := if op.result.isSome then { op.atUnit 0 with result := none, clobber := false } else op
    s.runSlices cl op obj (((s.cluster cl).startedSlices obj).filter (fun x => x.code == none)).length
  | .cp ssp dsp dst src n =>
    match op.result with
    | some c => s.landCopy cl op c
    | none =>
      s.runCopy cl op ⟨ssp, dsp, cl, agent⟩ (unitCount dst.toNat n) (cpUnit dst.toNat src.toNat n)
  | .fill dsp dst n size p =>
    match op.result with
    | some c => s.landCopy cl op c
    | none => s.runCopy cl op ⟨false, dsp, cl, agent⟩ (unitCount dst.toNat n) (fillUnit dst.toNat n size p)
  | .tile store lsp rsp rec linear o0 o1 o2 o3 shape =>
    match op.result with
    | some c => s.landCopy cl op c
    | none =>
      let o := [o0.toInt, o1.toInt, o2.toInt, o3.toInt]
      if shape ≠ [] then s.runTile cl op store lsp linear.toNat o shape
      else
        match s.tileRecord cl op rsp rec with
        | (.ok b, s) =>
          s.runTile cl { op with kind := .tile store lsp rsp rec linear o0 o1 o2 o3 b } store lsp linear.toNat o b
        | (.wait, s) => s
        | (.fault va k c l e, s) => s.copyFault cl op va k c l e (fun s => s.landCopy cl op c)

/-- COPY_LANDS: an operation runs to its landing, to where it has to park or wait, or as many accesses as the part
chooses: what others do then falls between two of them (R211-R217). -/
def execCopyLands (cl id : Nat) (s : State) : Out :=
  .next (match (s.cluster cl).copyq.find? (fun o => o.id == id) with
    | none => s
    | some op => if op.parked || !op.started then s else s.stepCopy cl op)

end Sys2Proof.Machine
end

