-- ==== Sys2Proof/Machine/Ship.lean ====
section
/-! DEFINITION. Shipped critical sections (R310-R327, R418): perches, SHIP, the start and end of a section, LCRET and the
watchdog. -/
namespace Sys2Proof.Machine

/-! ### Perches (R313) -/

/-- The latency core of a die that is the perch of a lock's physical address. -/
def perchOf (pa : Nat) : Nat :=
  ((List.range 9).foldl (fun v k => v ^^^ bits pa (7 + 4 * k) 4) 0) ^^^ bits pa 43 3

/-- The latency core, 0-63, that is the perch of an address homed in this package. -/
def perchKey (pa : Nat) : Option Nat := (homeDie pa).map (fun d => 16 * d + perchOf pa)

/-- A perch queue takes another request: those on their way count. -/
def State.perchRoom (s : State) (lc : Nat) : Bool :=
  decide ((s.perch lc).queue.length + (s.shipFlights.filter (fun p => p.1 == lc)).length < 256)

/-- A request sent to a perch wakes its die (R385), and parks its sender on a full queue (R316, R317). -/
def State.sendShip (s : State) (lc : Nat) (r : ShipReq) : State :=
  let s := s.needDie (lc / 16)
  if s.perchRoom lc && (s.perch lc).parkedSenders == [] then
    { s with shipFlights := s.shipFlights ++ [(lc, r)] }
  else
    let s := s.modPerch lc (fun p => { p with parkedSenders := p.parkedSenders ++ [r] })
    match r.sender with
    | some t => s.modThread t (fun th => { th with status := .shipParked r.id })
    | none => s

/-- A parked request that has entered: its sender waits for the results, or issues on (R316). -/
def State.unparkShip (s : State) (r : ShipReq) : State :=
  match r.sender with
  | none => s
  | some t =>
    s.modThread t (fun th =>
      if th.status = .shipParked r.id then (if r.wait then { th with status := .shipWait r.id } else th.resume) else th)

/-- The first parked request of a perch enters as room frees, after what its core sent before it (R317). -/
def State.enterParked (s : State) (lc : Nat) : State :=
  match (s.perch lc).parkedSenders with
  | [] => s
  | r :: rs =>
    if s.perchRoom lc && !s.shipFlights.any (fun p => p.1 == lc && p.2.core == r.core) then
      (s.modPerch lc (fun p => { p with queue := p.queue ++ [r], parkedSenders := rs })).unparkShip r
    else s

/-- PERCH_REQUEST_ENQUEUE: a request enters its perch's queue (R317). Requests of one core to one perch arrive in the
order they were sent. -/
def execPerchRequestEnqueue (id : Nat) (s : State) : Out :=
  .next (match s.shipFlights.find? (fun p => p.2.id == id) with
    | some (lc, r) =>
      match s.shipFlights.find? (fun p => p.1 == lc && p.2.core == r.core) with
      | some (_, r') =>
        if r'.id = id then
          { s with shipFlights := s.shipFlights.filter (fun p => p.2.id != id) }.modPerch lc (fun p =>
            { p with queue := p.queue ++ [r] })
        else s
      | none => s
    | none =>
      match s.perches.find? (fun p => (p.2.parkedSenders.head?).any (fun r => r.id == id)) with
      | some (lc, _) => s.enterParked lc
      | none => s)

/-! ### SHIP (R315, R316) -/

/-- PRIO and LAUNCH of a sender. -/
def State.shipIdent (s : State) (t : Nat) (th : Thread) : Nat × Nat :=
  match s.launchOf t with
  | some l => (l.prio, l.ident.toNat)
  | none => (th.lcPrio, th.lcLaunch)

/-- A SHIP whose lock translates. -/
def shipTo (s : State) (t : Nat) (th : Thread) (wait : Bool) (tok : Nat) (o : Opnds) (entry lock : DWord)
    (args : List Word) (e : DWord) (pa : Nat) : State :=
  let core := coreOfThread t
  let (prio, launch) := s.shipIdent t th
  let req (sys : Bool) : ShipReq :=
    ⟨s.nextOp, entry, lock, pa, args, th.sup, prio, launch, some t, destReg o.d, tok, wait, none, core, th.group, sys⟩
  let pend (s : State) : State :=
    let s := ((s.pendD t o.d 4).modThread t (·.pend tok 1)).advance t o.len
    if wait then s.modThread t (fun th => { th with status := .shipWait (req false).id }) else s
  match placeOf pa with
  | .aperture k =>
    let a := s.aperture k
    let dev := apertureDevice a
    if s.releaseWaits t .sys || !s.linkRoom dev 0 then { s with retry := true }
    else
      let target := apertureTarget a pa
      let r := req true
      ((pend (s.releasePkg core)).fixLoads (·.thread == t)).sendRequest t dev 0 lock (.ship r) (.ship entry target lock args th.sup prio launch)
  | .hbm _ | .ws _ | .pcb | .unbacked =>
    match perchKey pa with
    | none => s.parkThread t lock th.pc .protection .read (s.dataLevel t lock) e
    | some lc =>
      if isPerchCtx t && core == 1024 + lc then s.takeTrap t .illegalOperand 0#64
      else
        let s := { (pend (s.releasePkg core)) with nextOp := s.nextOp + 1 }
        s.sendShip lc (req false)

/-- SHIP (R315): the checks in order, then the translation of the lock as a read without classification. A release, it
comes after an acquiring load of another device whose value is on its way (R326). -/
def ship (s : State) (wait : Bool) (tok : BitVec 8) (o : Opnds) : Out :=
  orderedMem s (fun t th =>
    let (a, s1) := s.read64 t o.a
    let (b, s1) := s1.read64 t o.b
    if a.extractLsb' 0 2 ≠ 0#2 ∨ b.extractLsb' 0 3 ≠ 0#3 then s.takeTrap t .misaligned 0#64
    else if a.extractLsb' 55 9 ≠ 0#9 ∨ b.extractLsb' 55 9 ≠ 0#9 then s.takeTrap t .protection 0#64
    else
      let q : Req := { threadReq s t b .read 0 false false with classify := false }
      s1.withGlobal t q (fun e pa s =>
        if pteWs e then s.parkThread t b th.pc .protection .read (s.dataLevel t b) e
        else shipTo s t th wait tok.toNat o a b (th.quad o.c) e pa))

/-- SHIP.w (R316). -/
def execShipW (tok : BitVec 8) (o : Opnds) (s : State) : Out := ship s true tok o

/-- SHIP.t (R316). -/
def execShipT (tok : BitVec 8) (o : Opnds) (s : State) : Out := ship s false tok o

/-! ### Sections (R318-R320) -/

/-- The frame of a latency-core context (R310, R396). -/
def State.lcFrame (s : State) (lc ctx : Nat) : DWord :=
  AMap.getD s.pcb.lctabbase (lc / 16) 0#64 + BitVec.ofNat 64 (512 * (lc % 16) + 128 * ctx)

/-- The part writes the frame of a context afresh (R169, R310). -/
def State.initLcFrame (s : State) (lc ctx : Nat) : State :=
  if AMap.get? s.pcb.lctabbase (lc / 16) = none then s
  else
    let f := (s.lcFrame lc ctx).toNat
    (s.wcSendLine (1024 + lc) (lineNo f)).partWrite f (leBytes s.pcb.trapvec.toNat 8 ++ List.replicate 120 0#8)

/-- The perch context, before a section's first instruction: it holds the request's PRIO and LAUNCH and runs nothing. -/
def State.perchContext (s : State) (lc : Nat) (r : ShipReq) : Thread :=
  { Thread.start none 0 0 16 r.entry 1#32 true (s.lcFrame lc 0) with
    status := .idle, lcPrio := r.prio, lcLaunch := r.launch }

/-- A section starts: its sender's earlier loads stand before it (R319, R326). -/
def State.enterSection (s : State) (lc : Nat) (r : ShipReq) (e : Entry) : State :=
  let th := Thread.start none 0 0 (entryBudget e) (r.entry + 12#64) 1#32 e.sup (s.lcFrame lc 0)
  let th := { th.setRegs 0 (r.args ++ wordsOf r.lockVa.toNat 2) with lcPrio := r.prio, lcLaunch := r.launch }
  let s := (s.initLcFrame lc 0).setThread (lcThreadKey lc 0) th
  let s := (s.modPerch lc (fun p => { p with entered := true, cycles := 0 })).fixLoads (fun l => r.sender == some l.thread)
  let s := s.clockPkg (1024 + lc)
  if r.sysScope then s.acquireSys (1024 + lc) else s

/-- No results. -/
def noWords : List Word := [0#32, 0#32, 0#32, 0#32]

/-- The entry word of a request that has been taken is read and checked (R318); a miss holds the context while it is
walked for (R300). -/
def State.checkSection (s : State) (lc : Nat) (r : ShipReq) : State :=
  let t := lcThreadKey lc 0
  let checked (f : Fetched) (s : State) : State :=
    match f with
    | .word w =>
      let e := Entry.ofNat w.toNat
      if !entryOk e .shipped || e.spad != 0 || e.bars != 0 then s.endSection lc .illegalTarget .ok noWords
      else if e.sup && !r.sup then s.endSection lc .privilege .ok noWords
      else s.enterSection lc r e
    | .fails va (.fault c l e) => s.parkThread t va r.entry c .fetch l e
    | .fails _ .mig => s.parkMig t
    | .fails _ .wait | .fails _ (.ok _ _ _) | .miss _ => s
  match s.fetchWord false (1024 + lc) r.entry true with
  | (.miss va, s) =>
    match s.takeWalked (.thread t) va .fetch with
    | (some w, s) => checked (.fails va (.fault w.code w.level w.entry)) s
    | (none, s) => s.queueWalkAs t (fetchReq (1024 + lc) va true) true
  | (f, s) => checked f s

/-- SECTION_START: the perch context takes the next request, or goes on with the one whose entry word it could not read
(R318, R321), or sends the results of a section whose release is now complete (R320). -/
def execSectionStart (lc : Nat) (s : State) : Out :=
  .next (
    let p := s.perch lc
    let t := lcThreadKey lc 0
    match p.running, p.ending with
    | some r, some (code, under, words) => if s.remotePending t then s else s.finishSection lc r code under words
    | some r, none =>
      if p.entered || ((s.thread? t).map (·.status)) != some .idle then s else s.checkSection lc r
    | none, _ =>
      match p.queue with
      | [] => s
      | r :: rs =>
        let s := s.modPerch lc (fun p => { p with queue := rs, running := some r, entered := false, cycles := 0 })
        (s.setThread t (s.perchContext lc r)).checkSection lc r)

/-- LCRET (R320). -/
def execLcret (o : Opnds) (s : State) : Out :=
  onThread s (fun t th =>
    if !isPerchCtx t then s.takeTrap t .illegalOperand 0#64
    else s.endSection ((t - lcThreadBase) / 4) .ok .ok (th.quad o.a))

/-- SECTION_WATCHDOG: a section whose count has passed 4,194,304 is stopped (R323). -/
def execSectionWatchdog (lc : Nat) (s : State) : Out :=
  .next (if (s.perch lc).entered && decide (4194304 < (s.perch lc).cycles) then
    s.endSection lc .sectionAborted .ok noWords else s)

/-! ### Landing (R316, R325, R326) -/

/-- The completion value of a section (R316). -/
def completion (code under : Code) : Word := BitVec.ofNat 32 (codeNum code + 65536 * codeNum under)

/-- Results and token land at a local sender: an acquire, after which a waiting SHIP.w goes on. -/
def State.landShip (s : State) (r : ShipReq) (code under : Code) (words : List Word) : State :=
  match r.sender with
  | none => s
  | some t =>
    let s := s.clockPkg (coreOfThread t)
    let s := if r.sysScope then s.acquireSys (coreOfThread t) else s
    let s := (s.deliverOpt t r.d (if code = .ok then words else noWords)).deliver t r.tok [completion code under]
    s.modThread t (fun th => if th.status = .shipWait r.id then th.resume else th)

/-- SHIP_LANDS: the k-th result reaches its sender, or is sent to the device it came from (R316, R418). -/
def execShipLands (k : Nat) (s : State) : Out :=
  .next (match s.shipResults[k]? with
    | none => s
    | some x =>
      let s' := { s with shipResults := s.shipResults.eraseIdx k }
      match x.req.remote with
      | some (peer, tag) =>
        if !s.linkRoom peer 1 then s
        else s'.sendPacket peer 1 tag (.shipResult tag x.code x.under x.words)
      | none => s'.landShip x.req x.code x.under x.words)

end Sys2Proof.Machine
end

