-- ==== Sys2Proof/Machine/Words.lean ====
section
/-! DEFINITION. What an issuing word names (R23, R25), and a thread about to issue: guard and hints (R13, R14), the
boundaries at which it may be stopped (R25, R154). -/
namespace Sys2Proof

/-- Registers that an operand field names, at the width it is read (R23). -/
def Operand.regsRead (r : ROp) (o : Operand) : List Nat :=
  match o with
  | .gpr n =>
    let k := match r with
      | .unread => 0
      | .r32 => 1
      | .r64 => 2
      | .quad | .quadOpt => 4
    if n.toNat < 240 then (List.range k).map (n.toNat + ·) else []
  | .const _ | .latch _ | .pred _ | .sreg _ | .small _ | .imm | .litLo _ | .litHi _ | .lit _ => []

/-- Registers that D names. -/
def Dest.regsNamed (r : DRole) (d : Dest) : List Nat :=
  match d with
  | .gpr n => if n.toNat < 240 then (List.range r.regs).map (n.toNat + ·) else []
  | .pred _ | .sreg _ | .none | .latch => []

/-- Every register that an instruction names: the scoreboard looks at these (R23). -/
def Instr.regsNamed (i : Instr) : List Nat :=
  match i.roles, i.opnds with
  | some r, some o =>
    o.a.regsRead r.a ++ o.b.regsRead r.b ++ o.c.regsRead r.c ++ o.d.regsNamed r.d ++
      (match r.tok with
       | some t => if t.toNat < 240 then [t.toNat] else []
       | none => [])
  | _, _ => []

/-- A word of memory executes it: an instruction, or one of the two other words. Every other constructor is an event. -/
def Instr.isWord (i : Instr) : Bool :=
  match i with
  | .entryWordNop _ | .literalWordReached _ => true
  | i => i.opnds.isSome

/-- Bytes an instruction or one of the two other words takes. -/
def Instr.len (i : Instr) : Nat :=
  match i.opnds with
  | some o => o.len
  | none => 12

end Sys2Proof

namespace Sys2Proof.Machine

/-- The guard holds (R13). -/
def Thread.guardHolds (th : Thread) (g : BitVec 4) : Bool := th.pred (g.setWidth 3).toNat != g.getLsbD 3

/-- Hints after an issue (R14): STALL counts quarter cycles; YIELD suspends a thread that could go on. -/
def Thread.hint (th : Thread) (h : BitVec 6) : Thread :=
  let th := { th with stall := (h.extractLsb' 3 3).toNat }
  if h.getLsbD 2 && th.status == .ready then { th with status := .yielded } else th

/-- A thread has issued: its wait count restarts, the run of latch readers is counted (R25, R154). -/
def Thread.issued (th : Thread) (latch : Bool) : Thread :=
  { th with waitCount := 0, latchRun := if latch then th.latchRun + 1 else 0, reconvDone := false }

/-- The RECONV bit of a word that executes from memory (R14). -/
def reconvBit (w : BitVec 96) : Bool := w.getLsbD 75 && w.extractLsb' 84 12 != 0xFFF#12 && w.extractLsb' 84 12 != 0xFFE#12

/-- The watchdog's count of a section has passed its limit: its context stops at this boundary (R323). -/
def State.watchdogDue (s : State) (t : Nat) : Bool :=
  isPerchCtx t && (s.perch ((t - lcThreadBase) / 4)).entered && decide (4194304 < (s.perch ((t - lcThreadBase) / 4)).cycles)

/-- A thread may issue now (R154): a stop or a halt acts at the boundaries that R25 allows. -/
def State.mayIssue (s : State) (t : Nat) (th : Thread) : Bool :=
  th.status == .ready && th.stall == 0 && th.hold == 0 && !s.watchdogDue t &&
    (!(s.stopping t || s.issueStopped t) || s.midRun t th)

end Sys2Proof.Machine
end

