-- ==== Sys2Proof/Machine/Futures.lean ====
section
/-! DEFINITION. The future instructions (R343-R350): FSPAWN, FREFA, FREFD, FWAIT, FPOLL, FSET and RPOINT, and what is
asked of futures of other devices. -/
namespace Sys2Proof.Machine

/-! ### Records (R161) -/

/-- The launch that a record describes, WAITING. -/
def launchOfRecord (b : List Byte) (ident : Word) (future : DWord) : Launch :=
  let spbb := fieldAt b 0x30 4
  let chseg := fieldAt b 0x38 4
  let ctrl := fieldAt b 0x3C 4
  { Launch.blank with
    ident := ident, state := .waiting, future := future
    entry := BitVec.ofNat 64 (fieldAt b 0 8), signature := BitVec.ofNat 64 (fieldAt b 8 8)
    cbaddr := BitVec.ofNat 64 (fieldAt b 0x18 8), clmask := BitVec.ofNat 64 (fieldAt b 0x20 8)
    ngroup := fieldAt b 0x28 4, spad := fieldAt b 0x2C 4, spbase := 256 * bits spbb 8 13, bars := bits spbb 0 7
    gsize := fieldAt b 0x34 2, spslots := fieldAt b 0x36 2
    chlen := bits chseg 16 11, chstart := bits chseg 0 10, chReserved := bits chseg 27 5 + bits chseg 10 6 != 0
    diemask := BitVec.ofNat 4 (bits ctrl 23 4), chain := bits ctrl 22 1 == 1, sysRel := bits ctrl 21 1 == 1
    prio := bits ctrl 16 5, cbmask := BitVec.ofNat 16 ctrl
    reserved := bits spbb 21 11 + bits spbb 7 1 + bits ctrl 27 5 != 0 }

/-- A new launch under a key of its own; its dispatching die is where its failure is recorded. -/
def State.addLaunch (s : State) (b : List Byte) (future : DWord) : Nat × State :=
  let l := s.nextLaunch
  let x := launchOfRecord b (BitVec.ofNat 32 l) future
  (l, { s with nextLaunch := l + 1 }.setLaunch l { x with homeDie := x.dispDie })

/-! ### Creating a future with its task (R344) -/

/-- A future with its task in an entry of a die's table: its after references are already counted. What resolves on another
device is waited for there. -/
def State.createTask (s : State) (die idx : Nat) (rec : List Byte) (after : List DWord) (host : Bool) (t : Nat) :
    DWord × State :=
  let gen := ((AMap.get? (s.die die).futures idx).map (·.gen)).getD 1#16
  let h := s.mkHandle die idx gen
  let (l, s) := s.addLaunch rec h
  let f : Fut := { Fut.init with
    live := true, gen := gen, state := .waiting, count := 1, loose := if host then 1 else 0, after := after
    launch := some l, taskEnded := false }
  let s := s.modDie die (fun d => { d with futures := AMap.set d.futures idx f })
  let s := (after.filter s.remoteHandle).foldl (fun s a =>
    s.sendRequest t (handleDevice a) 0 0#64 (.after h a) (.future (.wait a))) s
  (h, s.futDo [.settle h])

/-- After references are taken on the handles of this device. -/
def State.takeAfters (s : State) (after : List DWord) : State :=
  after.foldl (fun s a => s.modFut a (fun f => { f with count := f.count + 1 })) s

/-- Why an after-list may not be taken (R339, R341). -/
def State.afterFault (s : State) (after : List DWord) : Option Code :=
  if after.any (fun a => !s.remoteHandle a && (s.future a).isNone) then some .handleStale
  else if after.any (fun a => match s.future a with
    | some f => decide (maxCount < f.count + after.count a)
    | none => false) then some .illegalOperand
  else none

/-- Two words of a handle. -/
def handleWords (h : DWord) : List Word := wordsOf h.toNat 2

/-- The streams to every device that some handles name take another packet. -/
def State.linkSpace (s : State) (hs : List DWord) : Bool := hs.all (fun h => s.linkRoom (handleDevice h) 0)

/-- FSPAWN whose after references and place in the holdings are taken: it takes an entry, or waits for one (R344). -/
def State.spawnHeld (s : State) (t : Nat) (rec : List Byte) (after : List DWord) (d : Dest) (len : Nat) : State :=
  let key := s.taskKey t
  let die := dieOfThread t
  let (k, s') := s.choose 65536
  match (if (s.die die).spawns = [] then (s.die die).freeFrom k else none) with
  | some idx =>
    let (h, s) := s'.createTask die idx rec after false t
    let hs := (s.holdings key).eraseP (fun p => p.1 == 0#64)
    ((s.setHoldings key (holdMore hs h 1)).sendResult t (destReg d) (handleWords h)).advance t len
  | none =>
    let w : WaitingSpawn := ⟨t, destReg d, rec, after, key⟩
    ((s.modDie die (fun d => { d with spawns := d.spawns ++ [w] })).pendD t d 2).advance t len

/-- FSPAWN once its record and after-list are read. After handles of other devices are asked for there, their references
taken unless a fault is due already; their thread is held until the last answer. `s0` is the state that a fault leaves. -/
def State.spawnFuture (s0 s : State) (t : Nat) (rec : List Byte) (after : List DWord) (o : Opnds) : State :=
  let key := s.taskKey t
  let hs := s.holdings key
  let far := after.filter s.remoteHandle
  let other := s.afterFault after
  if other = some .handleStale then s0.takeTrap t .handleStale 0#64
  else
    let due : Option Code := if 16 ≤ hs.length then some .budgetExceeded else other
    match far, due with
    | [], some c => s0.takeTrap t c 0#64
    | [], none =>
      (((s.releasePkg (coreOfThread t)).takeAfters after).setHoldings key (hs ++ [(0#64, 1)])).spawnHeld t rec after o.d o.len
    | _ :: _, _ =>
      if !s.linkSpace far then { s with retry := true }
      else
        let s := s.releasePkg (coreOfThread t)
        let s := if due.isSome then s else (s.takeAfters after).setHoldings key (hs ++ [(0#64, 1)])
        let q : AskedSpawn := ⟨rec, after, o.d, o.len, due, [], .ok⟩
        let s := far.foldl (fun s h => s.sendRequest t (handleDevice h) 0 0#64 (.spawn q h)
          (.future (match due with
            | some c => .check h false c
            | none => .add h))) s
        s.modThread t (fun th => { th with status := .asking })

/-- A word of bytes. -/
def bytesWord (bs : List Byte) : DWord := BitVec.ofNat 64 (leNat bs)

/-- The handles in the bytes of an after-list. -/
def handlesOf (bs : List Byte) (n : Nat) : List DWord := (List.range n).map (fun i => bytesWord ((bs.drop (8 * i)).take 8))

/-- A thread's loads of an instruction, piece by piece (R140, R399); a piece on another device is asked for there, and its
thread is held until the answer. Then `k` goes on with every byte. -/
def State.gather (s : State) (t : Nat) (use : GatherUse) (got : List Byte) (k : List Byte → State → State) :
    List (DWord × Nat) → State
  | [] => k got s
  | p :: ps =>
    match s.thread? t with
    | none => s
    | some th =>
      s.withGlobal t (threadReq s t p.1 .read p.2 false false) (fun e pa s =>
        match placeOf pa with
        | .aperture a =>
          let dev := apertureDevice (s.aperture a)
          if s.linkRoom dev 0 then
            (s.sendRequest t dev 0 p.1 (.gather use got ps p.2) (.load (apertureTarget (s.aperture a) pa) p.2)).modThread t
              (fun th => { th with status := .asking })
          else { s with retry := true }
        | .unbacked => s.parkThread t p.1 th.pc .protection .read (s.dataLevel t p.1) e
        | .pcb => s.gather t use (got ++ s.pcbRead (pa - pcbBase) p.2) k ps
        | .hbm _ | .ws _ =>
          let (bs, s) := s.coreLoad (coreOfThread t) pa p.2 e false (s.whoOf t)
          s.gather t use (got ++ bs) k ps)

/-- Aligned pieces of `m` bytes each. -/
def pieces (va : DWord) (n m : Nat) : List (DWord × Nat) := (List.range n).map (fun i => (va + BitVec.ofNat 64 (m * i), m))

/-- The future instructions run in no perch context (R311, R343). -/
def onFutureThread (s : State) (f : Nat → Thread → State) : Out :=
  onThread s (fun t th => if isPerchCtx t then s.takeTrap t .illegalOperand 0#64 else f t th)

/-- FSPAWN with its bytes: 64 of the record, then the after-list. -/
def State.spawnGathered (s0 s : State) (t : Nat) (o : Opnds) (bs : List Byte) : State :=
  s0.spawnFuture s t (bs.take 64) (handlesOf (bs.drop 64) ((bs.length - 64) / 8)) o

/-- FSPAWN (R344). -/
def execFspawn (nafter : BitVec 3) (o : Opnds) (s : State) : Out :=
  onFutureThread s (fun t _ =>
    if s.taskReclaimed t then s.exitThread t
    else if s.acquirePending t then { s with retry := true }
    else
      let (a, s1) := s.read64 t o.a
      let (b, s1) := if nafter = 0#3 then (0#64, s1) else s1.read64 t o.b
      if a.extractLsb' 0 6 ≠ 0#6 then s.takeTrap t .misaligned a
      else if b.extractLsb' 0 3 ≠ 0#3 then s.takeTrap t .misaligned b
      else s1.gather t (.spawn o) [] (fun bs s2 => s.spawnGathered s2 t o bs) (pieces a 8 8 ++ pieces b nafter.toNat 8))

/-- FSPAWN_ENTRY_GRANTED: the first waiting FSPAWN of a die takes a freed entry (R344). -/
def execFspawnEntryGranted (die : Nat) (s : State) : Out :=
  .next (match (s.die die).spawns with
    | [] => s
    | w :: ws =>
      let (k, s') := s.choose 65536
      match (s.die die).freeFrom k with
      | none => s
      | some idx =>
        let s := s'.modDie die (fun d => { d with spawns := ws })
        let (h, s) := s.createTask die idx w.record w.after false w.thread
        let hs := s.holdings w.launch
        let s := s.setHoldings w.launch (holdMore (hs.eraseP (fun p => p.1 == 0#64)) h 1)
        s.deliverOpt w.thread w.d (handleWords h))

/-! ### Operations at an entry (R345-R348) -/

/-- FPOLL's word of an entry (R347). -/
def pollWord (f : Option Fut) : Word :=
  match f with
  | none => codeWord .handleStale
  | some f => if f.state = .resolved then BitVec.ofNat 32 (2 ^ 31 + codeNum f.status) else 0#32

/-- The four result words. -/
def Fut.words (f : Fut) : List Word := if f.status = .ok then [f.r0, f.r1, f.r2, f.r3] else zeroResults

/-- An operation at an entry of this device: the code and a value, or none while it has to wait. Only other devices set a future
by it (R350), bind one, and finish what they bound; `.reclaim` is for the launch here that is bound to a future of another
device (R336, R348, R351, R353). -/
def State.futServe (s : State) (op : FutOp) : Option (Code × QWord) × State :=
  let done (c : Code) (s : State) : Option (Code × QWord) × State := (some (c, 0#128), s)
  let answer (f : Fut) : Option (Code × QWord) :=
    if f.state = .resolved then some (f.status, BitVec.ofNat 128 (wordsNat f.words)) else none
  let count (h : DWord) (n loose : Nat) : Option (Code × QWord) × State :=
    match s.future h with
    | none => done .handleStale s
    | some f =>
      if maxCount < f.count + n then done .illegalOperand s
      else done .ok (s.modFut h (fun f => { f with count := f.count + n, loose := f.loose + loose }))
  let unloose (h : DWord) (k : State → State) : Option (Code × QWord) × State :=
    match s.future h with
    | none => done .handleStale s
    | some f => if f.loose = 0 then done .illegalOperand s else done .ok (k (s.modFut h (fun f => { f with loose := f.loose - 1 })))
  match op with
  | .add h => count h 1 0
  | .addLoose h n => count h n n
  | .adopt h => unloose h id
  | .drop h n => if s.future h = none then done .handleStale s else done .ok (s.futDo [.drop h n])
  | .dropLoose h => unloose h (fun s => s.futDo [.drop h 1])
  | .poll h => (some (.ok, (pollWord (s.future h)).setWidth 128), s)
  | .wait h =>
    match s.future h with
    | none => done .handleStale s
    | some f => (answer f, s)
  | .check h loose c =>
    match s.future h with
    | none => done .handleStale s
    | some f => done (if loose ∧ f.loose = 0 then .illegalOperand else c) s
  | .set h words =>
    match s.future h with
    | none => done .handleStale s
    | some f =>
      if f.launch.isSome || f.bound.isSome then done .illegalOperand s
      else if f.state = .resolved then done .ok s
      else (some (.ok, 1#128), (s.modFut h (fun f => { f with far := true })).futDo [.resolve h .ok words])
  | .bind h dev =>
    match s.future h with
    | none => done .handleStale s
    | some f =>
      if f.state = .unbound then done .ok (s.modFut h (fun f => { f with state := .queued, bound := some dev, taskEnded := false }))
      else done .illegalOperand s
  | .finish h c words =>
    match s.futEntry h with
    | none => done .handleStale s
    | some f =>
      if f.reclaimed || f.state == .resolved then done .ok s
      else (some (.ok, 1#128), (s.modFut h (fun f => { f with far := true })).futDo [.resolve h c words])
  | .ended h =>
    match s.futEntry h with
    | none => done .handleStale s
    | some f => done .ok (s.endFut h f)
  | .reclaim h =>
    match s.launches.find? (fun p => p.2.future == h && p.2.state != .ended) with
    | none => done .handleStale s
    | some p =>
      let (more, s) := (s.modLaunch p.1 (fun x => { x with reclaimed := true })).reclaimLaunch p.1
      done .ok (s.futDo more)

/-- An operation on a future of another device is sent; its thread is held until the answer (R345). -/
def State.askFuture (s : State) (t : Nat) (h : DWord) (op : FutOp) (d : Option Nat) (len : Nat) : State :=
  let dev := handleDevice h
  if s.linkRoom dev 0 then
    (s.sendRequest t dev 0 0#64 (.future op d len) (.future op)).modThread t (fun th => { th with status := .asking })
  else { s with retry := true }

/-! ### FREFA and FREFD (R345) -/

/-- The holdings after an operation of a task. -/
def heldAfter (op : FutOp) (l : List (DWord × Nat)) : List (DWord × Nat) :=
  match op with
  | .add h | .adopt h => holdMore l h 1
  | .drop h _ => holdLess l h
  | .addLoose _ _ | .dropLoose _ | .poll _ | .wait _ | .check _ _ _ | .set _ _ | .bind _ _ | .finish _ _ _ | .ended _ | .reclaim _ => l

/-- The holdings while an operation on a future of another device is asked for: a reference to be dropped has gone but for
its place, one to come has its place (R342, R345). -/
def heldAsking (op : FutOp) (l : List (DWord × Nat)) : List (DWord × Nat) :=
  match op with
  | .adopt h => holdPlace l h
  | .drop h _ => holdLess l h
  | .add _ | .addLoose _ _ | .dropLoose _ | .poll _ | .wait _ | .check _ _ _ | .set _ _ | .bind _ _ | .finish _ _ _ | .ended _ | .reclaim _ => l

/-- A place without a reference goes, unless a FREFA.in or FREFD of the task under way may still need it (R342). -/
def State.trimPlace (s : State) (key : Nat) (h : DWord) : State :=
  let asked := s.remotes.any (fun r => match r.kind with
    | .future (.adopt x) _ _ | .future (.drop x _) _ _ => x == h && s.taskKey r.thread == key
    | _ => false)
  if asked then s else s.setHoldings key ((s.holdings key).filter (fun p => p.1 != h || p.2 != 0))

/-- The answer to an operation that changed holdings: what an OK adds, or what a refusal gives back (R345). -/
def State.heldAnswer (s : State) (key : Nat) (op : FutOp) (ok : Bool) : State :=
  match op with
  | .add h => if ok then s.setHoldings key (holdMore (s.holdings key) h 1) else s
  | .adopt h => if ok then s.setHoldings key (holdMore (s.holdings key) h 1) else s.trimPlace key h
  | .drop h _ => if ok then s.trimPlace key h else s.setHoldings key (holdMore (s.holdings key) h 1)
  | .addLoose _ _ | .dropLoose _ | .poll _ | .wait _ | .check _ _ _ | .set _ _ | .bind _ _ | .finish _ _ _ | .ended _ | .reclaim _ => s

/-- The holdings of a task after an operation on a future of this device. -/
def State.holdAfter (s : State) (key : Nat) (op : FutOp) : State :=
  let s := s.setHoldings key (heldAfter op (s.holdings key))
  match op with
  | .drop h _ => s.trimPlace key h
  | _ => s

/-- A reference operation, its checks in order: stale; not held or no loose reference; holdings full. On a future of another
device the first is made there, so a later failure is asked for with it. -/
def futRef (s : State) (o : Opnds) (held adopts : Bool) (op : DWord → State → Option FutOp × State) : Out :=
  onFutureThread s (fun t _ =>
    let (h, s1) := s.read64 t o.a
    let (x, s1) := op h s1
    let key := s1.taskKey t
    let hs := s1.holdings key
    let remote := s1.remoteHandle h
    let loose := ((s1.future h).map (·.loose)).getD 0
    let due : Option Code :=
      if (held && heldOf hs h == 0) || x.isNone || (adopts && !remote && loose == 0) then some .illegalOperand
      else if adopts && holdFull hs h then some .budgetExceeded
      else none
    if remote then
      if !s1.linkRoom (handleDevice h) 0 then { s with retry := true }
      else match due, x with
        | none, some op => (s1.setHoldings key (heldAsking op hs)).askFuture t h op none o.len
        | some c, _ => s1.askFuture t h (.check h adopts c) none o.len
        | none, none => s
    else if (s1.future h).isNone then s.takeTrap t .handleStale 0#64
    else
      match due, x with
      | some c, _ => s.takeTrap t c 0#64
      | none, some op =>
        match (s1.holdAfter key op).futServe op with
        | (some (.ok, _), s2) => s2.advance t o.len
        | (some (c, _), _) => s.takeTrap t c 0#64
        | (none, _) => s
      | none, none => s)

/-- FREFA (R345). -/
def execFrefa (o : Opnds) (s : State) : Out := futRef s o true false (fun h s => (some (.add h), s))

/-- FREFA.out (R345): `n` loose references, 1 to 65,535. -/
def execFrefaOut (o : Opnds) (s : State) : Out :=
  futRef s o true false (fun h s =>
    let (n, s) := s.read32 (s.cur) o.b
    (if n = 0#32 ∨ 65535 < n.toNat then none else some (.addLoose h n.toNat), s))

/-- FREFA.in (R345). -/
def execFrefaIn (o : Opnds) (s : State) : Out := futRef s o false true (fun h s => (some (.adopt h), s))

/-- FREFD (R345). -/
def execFrefd (o : Opnds) (s : State) : Out := futRef s o true false (fun h s => (some (.drop h 1), s))

/-- FREFD.out (R345). -/
def execFrefdOut (o : Opnds) (s : State) : Out := futRef s o false false (fun h s => (some (.dropLoose h), s))

/-! ### Waiting and resolving (R346-R349) -/

/-- The thread's own future. -/
def State.ownFuture (s : State) (t : Nat) (h : DWord) : Bool := (s.launchOf t).any (fun l => l.future == h && h != 0#64)

/-- The acquire of an answer about a resolved future of this device (R350): at `.sys` where another device resolved it. -/
def State.acquireFut (s : State) (core : Nat) (far : Bool) : State :=
  if far then (s.clockPkg core).acquireSys core else s.clockPkg core

/-- An FWAIT lands: TOK, then D, and the thread goes on past it (R346, R350). -/
def State.landFwait (s : State) (t : Nat) (d : Dest) (tok len : Nat) (c : Code) (words : List Word) : State :=
  ((s.clockPkg (coreOfThread t)).modThread t (fun th => { (th.resume.setReg tok (codeWord c)).putResult d words with
    fwaiting := false, got := none })).advance t len

/-- What a resolved future of this device answers: its status, its results, and whether another device resolved it. -/
def Fut.answer (f : Fut) : Option (Code × List Word × Bool) :=
  if f.state = .resolved then some (f.status, f.words, f.far) else none

/-- FWAIT (R346). -/
def execFwait (tok : BitVec 8) (o : Opnds) (s : State) : Out :=
  onFutureThread s (fun t th =>
    if s.taskReclaimed t then s.exitThread t
    else
      let (h, s1) := s.read64 t o.a
      let remote := s1.remoteHandle h
      let wait (s : State) : State :=
        s.modThread t (fun th => { th with
          status := .fwait h o.d tok.toNat o.len, fwaiting := false, got := (s1.future h).bind Fut.answer })
      if !remote && (s1.future h).isNone then
        if th.fwaiting then s1.landFwait t o.d tok.toNat o.len .handleStale zeroResults
        else s.takeTrap t .handleStale 0#64
      else if s1.ownFuture t h then s.takeTrap t .illegalOperand 0#64
      else if remote then
        if s1.linkRoom (handleDevice h) 0 then
          ((wait s1).modThread t (fun x => { x with fwaiting := th.fwaiting })).sendRequest t (handleDevice h) 0 0#64
            (.fwait h o.d tok.toNat o.len) (.future (.wait h))
        else { s with retry := true }
      else wait s1)

/-- FWAIT_LANDS: the future has resolved while the thread waited, whatever has become of it since, or its handle has become
stale before that (R346). -/
def execFwaitLands (t : Nat) (s : State) : Out :=
  .next (match s.thread? t with
    | none => s
    | some th =>
      match th.status with
      | .fwait h d tok len =>
        if s.stopping t || s.remoteHandle h then s
        else
          match th.got, s.future h with
          | some (c, words, far), _ => (s.acquireFut (coreOfThread t) far).landFwait t d tok len c words
          | none, none => s.landFwait t d tok len .handleStale zeroResults
          | none, some _ => s
      | _ => s)

/-- FPOLL (R347, R350): a resolved future's answer is an acquire. -/
def execFpoll (o : Opnds) (s : State) : Out :=
  onFutureThread s (fun t _ =>
    let (h, s1) := s.read64 t o.a
    if s1.remoteHandle h then
      if s1.linkRoom (handleDevice h) 0 then
        ((s1.pendD t o.d 1).sendRequest t (handleDevice h) 0 0#64 (.fpoll (destReg o.d)) (.future (.poll h))).advance t o.len
      else { s with retry := true }
    else
      let v := pollWord (s1.future h)
      let s2 := if v.getLsbD 31 then s1.acquireFut (coreOfThread t) ((s1.future h).any (·.far)) else s1
      (s2.sendResult t (destReg o.d) [v]).advance t o.len)

/-- D of an FSET: written with the resolution (R348, R367). -/
def State.setDone (s : State) (t : Nat) (d : Dest) (len : Nat) (v : Word) : State :=
  (s.modThread t (·.putResult d [v])).advance t len

/-- FSET (R348, R350): a release; an open `.sys` release waits for remote stores. -/
def execFset (o : Opnds) (s : State) : Out :=
  onFutureThread s (fun t th =>
    let (h, s1) := s.read64 t o.a
    let words := th.quad o.b
    let held := heldOf (s1.holdings (s1.taskKey t)) h != 0
    let rel := s1.releasePkg (coreOfThread t)
    if s1.remotePending t then { s with retry := true }
    else if s1.remoteHandle h then
      rel.askFuture t h (if s1.ownFuture t h then .finish h .ok words
        else if held then .set h words
        else .check h false .illegalOperand) (destReg o.d) o.len
    else if h = 0#64 ∧ (s1.launchOf t).any (fun l => l.future == 0#64) then s.takeTrap t .illegalOperand 0#64
    else
      match s1.futEntry h with
      | none => s.takeTrap t .handleStale 0#64
      | some f =>
        if s1.ownFuture t h then
          if f.reclaimed || f.state == .resolved then rel.setDone t o.d o.len 0#32
          else (rel.futDo [.resolve h .ok words]).setDone t o.d o.len 1#32
        else if f.count = 0 then s.takeTrap t .handleStale 0#64
        else if f.launch.isSome || f.bound.isSome || !held then s.takeTrap t .illegalOperand 0#64
        else if f.state = .resolved then rel.setDone t o.d o.len 0#32
        else (rel.futDo [.resolve h .ok words]).setDone t o.d o.len 1#32)

/-- RPOINT (R349). -/
def execRpoint (o : Opnds) (s : State) : Out :=
  onFutureThread s (fun t _ => if s.taskReclaimed t then s.exitThread t else s.advance t o.len)

end Sys2Proof.Machine
end

