-- ==== Sys2Proof/Machine/Outside.lean ====
section
/-! DEFINITION. Accesses that other devices make of this package's memory (R379-R382, R400), and the clocks of the fabric
(R373, R407). -/
namespace Sys2Proof.Machine

/-- FABTIME of a die passes the timestamp of a write from outside (R407). -/
def State.fabStamp (s : State) (pa : Nat) : State :=
  match placeOf pa with
  | .hbm h =>
    let t := match s.l2 h (lineNo pa) with
      | some l => l.wts
      | none => s.floor h (lineNo pa)
    s.modDie h (fun d => { d with fabtime := maxTs d.fabtime t })
  | .ws _ | .pcb | .aperture _ | .unbacked => s

/-- Bytes written at their home for another device, line by line; the fuel counts lines. -/
def State.outPut (s : State) (pa : Nat) (bs : List Byte) : Nat → State
  | 0 => s
  | k + 1 =>
    if bs = [] then s
    else
      let m := 128 - pa % 128
      ((s.partWrite1 none pa (bs.take m)).fabStamp pa).outPut (pa + m) (bs.drop m) k

/-- Bytes written at their home for another device. -/
def State.outWrite (s : State) (pa : Nat) (bs : List Byte) : State := s.outPut pa bs (bs.length / 128 + 2)

/-- Why this device refuses an access from another (R400): an address that is unbacked here, a closed weight store. The
control block is no memory, and an aperture leads to no third device. DEDUCED. -/
def State.outRefuses (s : State) (pa : Nat) (write : Bool) : Option Code :=
  match placeOf pa with
  | .hbm _ => if s.backed pa then none else some .protection
  | .ws _ => if !s.backed pa then some .protection else if write && !s.windowOpen pa then some .wsReadonly else none
  | .pcb | .aperture _ | .unbacked => some .protection

/-- A store from another device: its code (R400). -/
def State.outStore (s : State) (pa : Nat) (bs : List Byte) : Code × State :=
  match s.outRefuses pa true with
  | some c => (c, s)
  | none => (.ok, s.outWrite pa bs)

/-- A load from another device. -/
def State.outLoad (s : State) (pa n : Nat) : Code × List Byte × State :=
  match s.outRefuses pa false with
  | some c => (c, [], s)
  | none =>
    let (bs, s) := s.partRead pa n
    (.ok, bs, s)

/-- An atomic or CAS from another device: the old value, and the new one by `f` (R145, R400). -/
def State.outAtomic (s : State) (pa n : Nat) (f : Nat → Option Nat) : Code × Nat × State :=
  match s.outRefuses pa true with
  | some c => (c, 0, s)
  | none =>
    let (bs, s) := s.partRead pa n
    let old := leNat bs
    match f old with
    | some v => (.ok, old, s.outWrite pa (leBytes v n))
    | none => (.ok, old, s)

end Sys2Proof.Machine
end

