-- ==== Sys2Proof/Machine/Collective.lean ====
section
/-! DEFINITION. Class 0xD: switch reductions and multicast (R411-R417). The spines and their groups are
part of the state; requests reach them as class 2 packets, of this device and of others. -/
namespace Sys2Proof.Machine

/-! ### Spines (R397, R417) -/

/-- The spine number that holds a group. -/
def spineOf (gid : Nat) : Nat := gid / 18 % 72

/-- A port is up. -/
def State.portUp (s : State) (p : Nat) : Bool := (s.ports[p]?).any (·.up)

/-- The next plane above one, counted modulo 18, whose spine of a group's number is live. -/
def State.nextPlane (s : State) (p gid : Nat) : Nat :=
  (((List.range 17).map (fun i => (p + 1 + i) % 18)).find?
    (fun q => s.portUp q && !s.lostSpines.contains (q, spineOf gid))).getD p

/-- The plane that a new group is held in: GID mod 18, or the next live one above with the spine of that number. -/
def State.holdPlane (s : State) (gid : Nat) : Nat :=
  let p := gid % 18
  if s.lostSpines.contains (p, spineOf gid) then s.nextPlane p gid else p

/-- The plane of a group. -/
def State.planeOfGroup (s : State) (gid : Nat) : Nat :=
  match AMap.get? s.cgroups gid with
  | some g => g.plane
  | none => s.holdPlane gid

/-- The spine of a plane and a number, as a peer in class 2: beyond the device numbers. -/
def spinePeer (plane spine : Nat) : Nat := 8192 + 72 * plane + spine

/-- The peer to which the requests of a group go. -/
def State.groupPeer (s : State) (gid : Nat) : Nat := spinePeer (s.planeOfGroup gid) (spineOf gid)

/-- A spine is reached. -/
def State.spineLive (s : State) (peer : Nat) : Bool :=
  let p := (peer - 8192) / 72
  decide (8192 ≤ peer) && decide (p < 18) && s.portUp p && !s.lostSpines.contains (p, (peer - 8192) % 72)

/-- The spine of a group cannot be reached (R404). -/
def State.spineDown (s : State) (gid : Nat) : Bool := !s.spineLive (s.groupPeer gid)

/-! ### Shared parts -/

/-- The GID operand (R412), after a release at `.sys` where `rel`; an instruction behind an acquire or a release that is
not complete waits, and so does one that the stream to its spine has no room for. -/
def withGid (s : State) (o : Opnds) (rel : Bool) (f : Nat → Thread → Nat → State → State) : Out :=
  orderedMem s (fun t th =>
    let (a, s1) := s.read32 t o.a
    if a.extractLsb' 12 20 ≠ 0#20 then s.takeTrap t .illegalOperand 0#64
    else if rel && (s.remotePending t || !s.linkRoom (s.groupPeer a.toNat) 2) then { s with retry := true }
    else f t th a.toNat s1)

/-- The answer to an RGRP is on its way (R413). -/
def State.rgrpLands (s : State) (t : Nat) (reg : Option Nat) (plane gid : Nat) (c : Code) : State :=
  { s with landings := s.landings ++ [⟨t, reg, [codeWord c], none, some (plane, gid), none⟩] }

/-- A contribution of this device ends: its thread receives its registers and its token; OK is an acquire of every
contribution of the round (R414, R416). -/
def State.landRed (s : State) (tag : Nat) (v : DWord) (c : Code) : State :=
  match s.remotes.find? (fun r => r.tag == tag) with
  | some r => match r.kind with
    | .red reg tok n =>
      let s := { s with remotes := s.remotes.filter (fun x => x.tag != tag) }
      let s := (s.deliverOpt r.thread reg (wordsOf v.toNat n)).deliver r.thread tok [codeWord c]
      if c = .ok then (s.clockPkg (coreOfThread r.thread)).acquireSys (coreOfThread r.thread) else s
    | _ => s
  | none => s

/-- Contributions end; those of other devices, and of an incarnation of this one that has ended, land elsewhere or nowhere. -/
def State.landRound (s : State) (l : List Contribution) (v : DWord) (c : Code) : State :=
  (l.filter (fun x => x.src == s.device.toNat && x.inc == s.incarnation.toNat)).foldl (fun s x => s.landRed x.tag v c) s

/-- The open round of a group ends without a result. -/
def State.endRound (s : State) (gid : Nat) (g : CGroup) (c : Code) : State :=
  { s with cgroups := AMap.set s.cgroups gid { g with round := [] } }.landRound g.round 0#64 c

/-! ### RED (R414) -/

/-- One combine of integers of a width. -/
def redInt (w : Nat) (signed : Bool) (op : RedOp) (a b : DWord) : DWord :=
  let x := a.setWidth w
  let y := b.setWidth w
  let le : Bool := if signed then decide (x.toInt ≤ y.toInt) else decide (x.toNat ≤ y.toNat)
  (match op with
   | .add => x + y
   | .min => if le then x else y
   | .max => if le then y else x
   | .and => x &&& y
   | .or => x ||| y
   | .xor => x ^^^ y).setWidth 64

/-- One combine of floating-point values: `.rn`, subnormals kept; minimum and maximum as FMIN and FMAX. -/
def redFloat (f : FFmt) (op : RedOp) (a b : Nat) : Nat :=
  match op with
  | .add => f.round .rn 0 ((f.decode a).add .rn (f.decode b))
  | .min => minMax f false false false a b
  | .max | .and | .or | .xor => minMax f true false false a b

/-- One combine of a round. -/
def redCombine (ty : RedType) (op : RedOp) (a b : DWord) : DWord :=
  let pair : Nat := redFloat fBf16 op (bits a.toNat 0 16) (bits b.toNat 0 16) +
    65536 * redFloat fBf16 op (bits a.toNat 16 16) (bits b.toNat 16 16)
  match ty with
  | .i32 => redInt 32 true op a b
  | .n32 => redInt 32 false op a b
  | .i64 => redInt 64 true op a b
  | .n64 => redInt 64 false op a b
  | .f32 => BitVec.ofNat 64 (redFloat fF32 op (bits a.toNat 0 32) (bits b.toNat 0 32))
  | .f64 => BitVec.ofNat 64 (redFloat fF64 op a.toNat b.toNat)
  | .bf16x2 => BitVec.ofNat 64 pair

/-- The combines of a round, in an order that the switch chooses; the fuel counts the values. -/
def State.redFold (s : State) (ty : RedType) (op : RedOp) : List DWord → Nat → DWord × State
  | [], _ => (0#64, s)
  | [v], _ | v :: _, 0 => (v, s)
  | l@(_ :: _ :: _), k + 1 =>
    let (i, s) := s.choose l.length
    let rest := l.eraseIdx i
    let (j, s) := s.choose rest.length
    s.redFold ty op (redCombine ty op (l.getD i 0#64) (rest.getD j 0#64) :: rest.eraseIdx j) k

/-- RED (R414): the contribution goes to the spine that holds the group. -/
def execRed (ty : RedType) (op : RedOp) (tok : BitVec 8) (o : Opnds) (s : State) : Out :=
  withGid s o true (fun t _ gid s =>
    let (v, s) := s.read t ty.is64 false 0#64 o.b
    let n := rn ty.is64
    let s := ((s.releasePkg (coreOfThread t)).pendD t o.d n).modThread t (·.pend tok.toNat 1)
    (s.sendRequest t (s.groupPeer gid) 2 0#64 (.red (destReg o.d) tok.toNat n) (.red gid ty op v)).advance t o.len)

/-- A round of a group closes once it has its count, with the values that come from other devices at that moment; what came
after them opens the next round (R414). -/
def State.closeRound (s : State) (gid : Nat) (others : List DWord) : State :=
  match AMap.get? s.cgroups gid with
  | none => s
  | some g =>
    match g.kind with
    | .multicast _ _ => s
    | .reduction ty op count _ =>
      let k := count - others.length
      if k = 0 ∨ g.round.length < k then s
      else
        let mine := g.round.take k
        let (v, s) := s.redFold ty op (mine.map (·.value) ++ others) count
        { s with cgroups := AMap.set s.cgroups gid { g with round := g.round.drop k } }.landRound mine v .ok

/-- RED_ROUND_CLOSE: contributions of other devices come that make a round complete (R414). -/
def execRedRoundClose (gid : Nat) (others : List DWord) (s : State) : Out := .next (s.closeRound gid others)

/-- RED_ROUND_TIMEOUT: the open round was not complete in time (R414); one that has its count is complete. -/
def execRedRoundTimeout (gid : Nat) (s : State) : Out :=
  .next (match AMap.get? s.cgroups gid with
    | none => s
    | some g =>
      match g.kind with
      | .multicast _ _ => s
      | .reduction _ _ count _ => if count ≤ g.round.length then s else s.endRound gid g .reduceShort)

/-! ### MCAST (R415) -/

/-- MCAST to the members of a group; `pa` is the target offset on every member. -/
def State.mcastTo (s : State) (t gid : Nat) (members : List Nat) (o : Opnds) (pa : Nat) (bs : List Byte) : State :=
  let me := s.device.toNat
  let others := members.filter (· != me)
  if others.any (fun d => !s.linkRoom d 0) || (members.contains me && s.awaitsDie pa) then { s with retry := true }
  else
    let (own, s) := if members.contains me then s.outStore pa bs else (.ok, s)
    let s := s.pendD t o.d 1
    let tag := s.nextOp
    let r : Remote := ⟨tag, t, me, 0#64, 0#64, .mcast (destReg o.d) gid own⟩
    let s := { s with nextOp := tag + 1, remotes := s.remotes ++ [r] }
    (others.foldl (fun s d => s.sendPacket d 0 tag (.store pa bs.length (BitVec.ofNat 128 (leNat bs)))) s).advance t o.len

/-- MCAST (R415). -/
def execMcast (w64 : Bool) (o : Opnds) (s : State) : Out :=
  withGid s o false (fun t th gid s =>
    let n := if w64 then 8 else 4
    let (b, s) := s.read64 t o.b
    let (v, s) := s.read t w64 false 0#64 o.c
    s.withGlobal t (threadReq s t b .write n false false) (fun e pa s =>
      let done (c : Code) : State := (s.sendResult t (destReg o.d) [codeWord c]).advance t o.len
      match placeOf pa with
      | .hbm _ | .ws _ | .pcb | .unbacked => s.parkThread t b th.pc .protection .write (s.dataLevel t b) e
      | .aperture k =>
        match AMap.get? s.cgroups gid with
        | none => if s.spineDown gid then done .fabricUnreachable else done .reduceGroupInvalid
        | some g =>
          if s.spineDown gid then done .fabricUnreachable
          else match g.kind with
            | .reduction _ _ _ _ => done .reduceGroupInvalid
            | .multicast ms _ =>
              s.mcastTo t gid ms o (apertureTarget (s.aperture k) pa) (leBytes v.toNat n)))

/-- The first code that is not OK. -/
def firstFailure (l : List Code) : Code := (l.find? (· != .ok)).getD .ok

/-- MCAST_LANDS: every member has acknowledged or failed (R415); `codes` are what the other members answered. -/
def execMcastLands (tag : Nat) (codes : List Code) (s : State) : Out :=
  .next (
    if s.sendChans.any (fun p => p.2.unacked.any (fun q => q.tag == tag && q.cls == 0)) then s
    else match s.remotes.find? (fun r => r.tag == tag) with
      | none => s
      | some r =>
        match r.kind with
        | .mcast reg _ first =>
          { s with remotes := s.remotes.filter (fun x => x.tag != tag) }.deliverCode r.thread reg (firstFailure (first :: codes))
        | _ => s)

/-! ### RGRP (R413) -/

/-- A group is created, or found as it is. -/
def State.createGroup (s : State) (gid : Nat) (k : GroupKind) : Code × State :=
  match AMap.get? s.cgroups gid with
  | some g => (if g.kind = k then .ok else .reduceGroupInvalid, s)
  | none => (.ok, { s with cgroups := AMap.set s.cgroups gid ⟨k, s.holdPlane gid, []⟩ })

/-- The timeout that an operand gives; none where it is too large (R413). -/
def groupTimeout (v : Word) : Option Nat :=
  if 1000000 < v.toNat then none else some (if v = 0#32 then 10000 else v.toNat)

/-- RGRP, once its parameters are at hand: they go to the spine, none of them to free the group; ones out of range are refused
here. -/
def State.rgrp (s : State) (t gid : Nat) (o : Opnds) (k : Option (Option GroupKind)) : State :=
  let s := (s.releasePkg (coreOfThread t)).pendD t o.d 1
  let plane := s.planeOfGroup gid
  (match k with
   | none => s.rgrpLands t (destReg o.d) plane gid .reduceGroupInvalid
   | some k => s.sendRequest t (s.groupPeer gid) 2 0#64 (.rgrp (destReg o.d) gid plane) (.rgrp gid k)).advance t o.len

/-- RGRP of a reduction group (R413). -/
def execRgrp (ty : RedType) (op : RedOp) (o : Opnds) (s : State) : Out :=
  withGid s o true (fun t _ gid s =>
    let (n, s) := s.read32 t o.b
    let (w, s) := s.read32 t o.c
    s.rgrp t gid o (match groupTimeout w with
      | some w => if n = 0#32 ∨ 8192 < n.toNat then none else some (some (.reduction ty op n.toNat w))
      | none => none))

/-- A list of members without repetition, of devices up to 8,191. -/
def membersOk (l : List Nat) : Bool := decide l.Nodup && l.all (fun d => decide (d ≤ 8191))

/-- The devices in the bytes of a list. -/
def devicesOf (bs : List Byte) : List Nat := (List.range (bs.length / 2)).map (fun i => leNat ((bs.drop (2 * i)).take 2))

/-- RGRP.mc with the bytes of its list. -/
def State.rgrpGathered (s : State) (t gid : Nat) (o : Opnds) (bs : List Byte) : State :=
  s.rgrp t gid o (if membersOk (devicesOf bs) then some (some (.multicast (devicesOf bs) 0)) else none)

/-- RGRP.mc (R413): the thread loads the list. -/
def execRgrpMc (o : Opnds) (s : State) : Out :=
  withGid s o true (fun t _ gid s0 =>
    let (n, s) := s0.read32 t o.b
    let (a, s) := s.read64 t o.c
    if a.extractLsb' 0 1 ≠ 0#1 then s0.takeTrap t .misaligned a
    else if n = 0#32 ∨ 8192 < n.toNat then s.rgrp t gid o none
    else s.gather t (.devices gid o) [] (fun bs s => s.rgrpGathered t gid o bs) (pieces a n.toNat 2))

/-- RGRP.free (R413). -/
def execRgrpFree (o : Opnds) (s : State) : Out := withGid s o true (fun t _ gid s => s.rgrp t gid o (some none))

/-! ### The spine (R402, R413, R414) -/

/-- A group is freed or created at its spine, or found as it is. -/
def State.spineGroup (s : State) (gid : Nat) (k : Option GroupKind) (plane : Nat) : Code × State :=
  match AMap.get? s.cgroups gid, k with
  | none, none => (.reduceGroupInvalid, s)
  | some g, none =>
    let s := s.endRound gid g .reduceGroupInvalid
    (.ok, { s with cgroups := AMap.erase s.cgroups gid })
  | some g, some k => (if g.kind = k then .ok else .reduceGroupInvalid, s)
  | none, some k => (.ok, { s with cgroups := AMap.set s.cgroups gid ⟨k, plane, []⟩ })

/-- A class 2 request of some device is performed at a spine: a contribution that completes its round closes it (R413,
R414). -/
def State.performCollective (s : State) (p : Packet) : State :=
  let mine := p.src == s.device.toNat && p.srcInc == s.incarnation.toNat
  match p.op with
  | .red gid ty op v =>
    let x : Contribution := ⟨p.src, p.srcInc, p.tag, v⟩
    let fits (g : CGroup) : Bool := match g.kind with
      | .reduction ty' op' _ _ => ty' == ty && op' == op
      | .multicast _ _ => false
    match AMap.get? s.cgroups gid with
    | some g =>
      if fits g then { s with cgroups := AMap.set s.cgroups gid { g with round := g.round ++ [x] } }.closeRound gid []
      else s.landRound [x] 0#64 .reduceGroupInvalid
    | none => s.landRound [x] 0#64 .reduceGroupInvalid
  | .rgrp gid k =>
    let (c, s) := s.spineGroup gid k (s.planeOfGroup gid)
    if !mine then s
    else match s.remotes.find? (fun r => r.tag == p.tag) with
      | some r => match r.kind with
        | .rgrp reg _ plane => { s with remotes := s.remotes.filter (fun x => x.tag != p.tag) }.rgrpLands r.thread reg plane gid c
        | _ => s
      | none => s
  | _ => s

/-! ### A spine is lost (R417) -/

/-- SPINE_LOST: open rounds and pending answers of its groups end, and the groups are rebuilt. -/
def execSpineLost (plane spine : Nat) (s : State) : Out :=
  .next (
    let s := { s with lostSpines := (plane, spine) :: s.lostSpines }
    let hit (gid : Nat) (p : Nat) : Bool := p == plane && spineOf gid == spine
    let mine := s.cgroups.filter (fun g => hit g.1 g.2.plane)
    let s := mine.foldl (fun s g => s.endRound g.1 g.2 .fabricUnreachable) s
    let ends (r : Remote) : Option (Option Nat) := match r.kind with
      | .mcast (some reg) gid _ => if mine.any (fun g => g.1 == gid) then some (some reg) else none
      | .rgrp reg gid p => if hit gid p then some reg else none
      | _ => none
    let s := s.remotes.foldl (fun s r => match ends r with
      | some reg => s.deliverCode r.thread reg .fabricUnreachable
      | none => s) s
    { s with
      remotes := (s.remotes.filter (fun r => match r.kind with
        | .rgrp _ gid p => !hit gid p
        | _ => true)).map (fun r => if (ends r).isSome then { r with kind := r.kind.orphan } else r)
      landings := s.landings.map (fun l => match l.gid with
        | some (p, gid) => if hit gid p then { l with words := [codeWord .fabricUnreachable] } else l
        | none => l)
      cgroups := s.cgroups.map (fun g =>
        (g.1, if hit g.1 g.2.plane then { g.2 with plane := s.nextPlane plane g.1 } else g.2)) })

end Sys2Proof.Machine
end

