-- ==== Sys2Proof/Machine/Auto.lean ====
section
/-! DEFINITION. What the package may do of itself in a state: the events of its own agents that stand open. Which comes
first is the part's choice, except where a meaning keeps an order. -/
namespace Sys2Proof.Machine

/-- Throughput cores with resident groups, or with a HALT that waits for its answer. -/
def State.usedCores (s : State) : List Nat :=
  (s.groups.map (fun g => g.2.core) ++ (s.cores.filter (fun c => c.2.halts != [])).map (·.1)).eraseDups

/-- Latency cores with a context that runs. -/
def State.usedLcs (s : State) : List Nat :=
  ((s.threads.filter (fun p => threadOnLC p.1 && p.2.status != .idle)).map (fun p => (p.1 - lcThreadBase) / 4)).eraseDups

/-- Issue cycles of units that hold threads (R154-R157). -/
def State.cycleEvents (s : State) : List Instr :=
  s.usedCores.map (fun c => Instr.issueCycle (4 * c + (s.core c).turn)) ++
    s.usedLcs.map (fun n => Instr.issueCycle (4096 + n))

/-- Moves of the memory system (R289, R291, R293, R295, R300, R373). -/
def State.memoryEvents (s : State) : List Instr :=
  (s.clusters.filter (fun c => c.2.walkq.any (fun k => !k.parked))).map (fun c => Instr.pageWalk c.1) ++
    s.cores.flatMap (fun c => (List.range c.2.wc.length).map (fun i => Instr.wcEntrySend c.1 i)) ++
    s.dies.flatMap (fun d => d.2.dir.map (fun r => Instr.regionMerge d.1 r.1)) ++
    (List.range s.forwarded.length).map Instr.forwardedStoreAck ++ s.cores.map (fun c => Instr.ltimeTick c.1) ++ [.refreshSlot]

/-- Results on their way and engine operations (R141, R211, R232-R234, R245, R257, R260). -/
def State.landingEvents (s : State) : List Instr :=
  (List.range s.landings.length).map Instr.loadLands ++
    s.clusters.flatMap (fun c => c.2.copyq.map (fun o => Instr.copyLands c.1 o.id) ++
      (if c.2.matq = [] then [] else [Instr.matrixGrant c.1]) ++ c.2.matq.map (fun o => Instr.matrixLands c.1 o.id)) ++
    s.cores.flatMap (fun c => (if c.2.scanq = [] then [] else [Instr.scanLands c.1]) ++
      (if c.2.chain = ChainStop.init then [] else [Instr.mailboxEntryArrives c.1, Instr.chbarComplete c.1]))

/-- Threads that wait for room or for a future (R201, R346). -/
def State.waitEvents (s : State) : List Instr :=
  s.threads.flatMap (fun p => match p.2.status with
    | .spawnWait _ _ _ _ _ _ => [Instr.spawnWPlaced p.1]
    | .fwait _ _ _ _ => [Instr.fwaitLands p.1]
    | _ => [])

/-- Shipped sections (R316-R326). -/
def State.shipEvents (s : State) : List Instr :=
  s.shipFlights.map (fun p => Instr.perchRequestEnqueue p.2.id) ++
    s.perches.flatMap (fun p => p.2.parkedSenders.map (fun r => Instr.perchRequestEnqueue r.id) ++
      (if p.2.queue = [] ∧ p.2.running = none then [] else [Instr.sectionStart p.1, Instr.sectionWatchdog p.1])) ++
    (List.range s.shipResults.length).map Instr.shipLands

/-- The dispatchers (R330-R337, R344) and their groups (R166, R172, R297). -/
def State.dispatchEvents (s : State) : List Instr :=
  s.dies.flatMap (fun d =>
    (d.2.queues.filter (fun q => q.2 != [])).flatMap (fun q =>
      [Instr.dispatchHead d.1 q.1, Instr.placeGroup d.1 q.1, Instr.preempt d.1 q.1]) ++
    d.2.saved.map (fun v => Instr.placeGroup d.1 v.prio) ++ d.2.saved.map (fun v => Instr.preempt d.1 v.prio) ++
    (if d.2.spawns = [] then [] else [Instr.fspawnEntryGranted d.1]) ++
    (if d.2.windowWaits = [] then [] else [Instr.wsWindowOpen d.1])) ++
  ([0, 1, 2, 3].filter (fun d => s.pcb.subringEnable.getLsbD d)).flatMap (fun d =>
    [Instr.submissionSkip d, Instr.submissionLaunch d, Instr.submissionSpawn d, Instr.submissionUnbound d,
      Instr.submissionDrop d]) ++
  s.groups.flatMap (fun g => [Instr.familyStopped g.1, Instr.groupRetire g.1])

/-- Requests on their way to spines, given up where the spine is not reached; rounds that have their count or run out of time;
multicasts of which this device is the only member (R404, R414, R415). -/
def State.collectiveEvents (s : State) : List Instr :=
  s.sendChans.flatMap (fun c => (c.2.unacked.filter (fun p => decide (8192 ≤ p.dst))).map (fun p =>
    if s.spineLive p.dst then Instr.fabricPacketDeliver p else Instr.fabricUndeliverable p.dst p.cls p.seq)) ++
    s.cgroups.flatMap (fun g => if g.2.round = [] then [] else [Instr.redRoundClose g.1 [], Instr.redRoundTimeout g.1]) ++
    s.remotes.flatMap (fun r => match r.kind with
      | .mcast _ _ _ => [Instr.mcastLands r.tag []]
      | _ => [])

/-- The boot processor's commands (R392, R394, R395) and idle dies (R385). -/
def State.bootEvents (s : State) : List Instr :=
  (if s.pcb.keycmd &&& 0x300#32 = 0#32 then [] else [Instr.keyLoad, Instr.keyClear]) ++
    (if s.pcb.attcmd = 0#32 then [] else [Instr.attestRequest]) ++
    (if s.pcb.ldcmd = 0#32 then [] else [Instr.loaderRequest]) ++
    (if s.pcb.lattol = 0#32 then [] else [0, 1, 2, 3].map Instr.powerStateEnter)

/-- Everything that stands open. -/
def State.openEvents (s : State) : List Instr :=
  s.cycleEvents ++ s.memoryEvents ++ s.landingEvents ++ s.waitEvents ++ s.shipEvents ++ s.dispatchEvents ++
    s.collectiveEvents ++ s.bootEvents

end Sys2Proof.Machine
end

