-- ==== Sys2Proof/Machine/Alu.lean ====
section
/-! DEFINITION. Class 0x0: the integer instructions (R80-R92). -/
namespace Sys2Proof

/-! ### Lanes (R76, R77, R81) -/

/-- An operation of two elements, whatever their width. -/
abbrev Bin := (w : Nat) → (signed : Bool) → BitVec w → BitVec w → BitVec w

/-- Two 16-bit results packed (R77). -/
def pack16 (lo hi : BitVec 16) : DWord := (hi ++ lo).setWidth 64

/-- An operation of two elements at a type: once, or on both elements of a packed register. -/
def IType.map2 (ty : IType) (f : Bin) (a b : DWord) : DWord :=
  match ty with
  | .i16x2 => pack16 (f 16 true (a.extractLsb' 0 16) (b.extractLsb' 0 16)) (f 16 true (a.extractLsb' 16 16) (b.extractLsb' 16 16))
  | .i32 => (f 32 true (a.setWidth 32) (b.setWidth 32)).setWidth 64
  | .n32 => (f 32 false (a.setWidth 32) (b.setWidth 32)).setWidth 64
  | .i64 => f 64 true a b
  | .n64 => f 64 false a b

/-- An operation of one element and an amount: a packed type takes an amount for each element from B (R88). -/
def IType.mapAmount (ty : IType) (f : (w : Nat) → BitVec w → Nat → BitVec w) (a : DWord) (b : Word) : DWord :=
  match ty with
  | .i16x2 =>
    pack16 (f 16 (a.extractLsb' 0 16) (b.extractLsb' 0 16).toNat) (f 16 (a.extractLsb' 16 16) (b.extractLsb' 16 16).toNat)
  | .i32 | .n32 => (f 32 (a.setWidth 32) b.toNat).setWidth 64
  | .i64 | .n64 => f 64 a b.toNat

/-- A question of two elements, answered 0 or 1 in each element's place (R77, R86). -/
def IType.test2 (ty : IType) (f : (w : Nat) → (signed : Bool) → BitVec w → BitVec w → Bool) (a b : DWord) : DWord :=
  let bit (x : Bool) : BitVec 16 := if x then 1#16 else 0#16
  match ty with
  | .i16x2 =>
    pack16 (bit (f 16 true (a.extractLsb' 0 16) (b.extractLsb' 0 16)))
      (bit (f 16 true (a.extractLsb' 16 16) (b.extractLsb' 16 16)))
  | .i32 => pack16 (bit (f 32 true (a.setWidth 32) (b.setWidth 32))) 0#16
  | .n32 => pack16 (bit (f 32 false (a.setWidth 32) (b.setWidth 32))) 0#16
  | .i64 => pack16 (bit (f 64 true a b)) 0#16
  | .n64 => pack16 (bit (f 64 false a b)) 0#16

/-- A count of one element, in each element's place (R77, R89). -/
def IType.count (ty : IType) (f : (w : Nat) → BitVec w → Nat) (a : DWord) : DWord :=
  match ty with
  | .i16x2 => pack16 (BitVec.ofNat 16 (f 16 (a.extractLsb' 0 16))) (BitVec.ofNat 16 (f 16 (a.extractLsb' 16 16)))
  | .i32 | .n32 => BitVec.ofNat 64 (f 32 (a.setWidth 32))
  | .i64 | .n64 => BitVec.ofNat 64 (f 64 a)

end Sys2Proof

namespace Sys2Proof.Machine

/-! ### Operands -/

/-- IMM24 as operand 0x300 reads it (R26). -/
def imm24 (o : Opnds) : DWord := o.imm.signExtend 64

/-- An element operand of a type. -/
def State.readElem (s : State) (t : Nat) (ty : IType) (o : Opnds) (x : Operand) : DWord × State :=
  s.read t ty.is64 ty.signed (imm24 o) x

/-- A control operand. -/
def State.readCtl (s : State) (t : Nat) (o : Opnds) (x : Operand) : Word × State :=
  let (v, s) := s.read t false false (imm24 o) x
  (v.setWidth 32, s)

/-- An instruction of elements A and B. -/
def aluAB (s : State) (ty : IType) (o : Opnds) (n : Nat) (f : DWord → DWord → DWord) : Out :=
  onThread s (fun t _ =>
    let (a, s1) := s.readElem t ty o o.a
    let (b, s2) := s1.readElem t ty o o.b
    s.retire s2 t o n ((f a b).setWidth 128))

/-- An instruction of element A. -/
def aluA (s : State) (ty : IType) (o : Opnds) (n : Nat) (f : DWord → DWord) : Out :=
  onThread s (fun t _ =>
    let (a, s1) := s.readElem t ty o o.a
    s.retire s1 t o n ((f a).setWidth 128))

/-- An instruction of element A and control B. -/
def aluACtl (s : State) (ty : IType) (o : Opnds) (n : Nat) (f : DWord → Word → DWord) : Out :=
  onThread s (fun t _ =>
    let (a, s1) := s.readElem t ty o o.a
    let (b, s2) := s1.readCtl t o o.b
    s.retire s2 t o n ((f a b).setWidth 128))

/-- An instruction of elements A and B and control C. -/
def aluABCtl (s : State) (ty : IType) (o : Opnds) (n : Nat) (f : DWord → DWord → Word → DWord) : Out :=
  onThread s (fun t _ =>
    let (a, s1) := s.readElem t ty o o.a
    let (b, s2) := s1.readElem t ty o o.b
    let (c, s3) := s2.readCtl t o o.c
    s.retire s3 t o n ((f a b c).setWidth 128))

/-! ### What each operation computes -/

/-- IADD (R82). -/
def addBin (sat : Bool) : Bin := fun w sg a b => fit w sg sat (asInt sg a + asInt sg b)
/-- ISUB (R82). -/
def subBin (sat : Bool) : Bin := fun w sg a b => fit w sg sat (asInt sg a - asInt sg b)
/-- IMUL (R83). -/
def mulBin (sat : Bool) : Bin := fun w sg a b => fit w sg sat (asInt sg a * asInt sg b)
/-- IMULH (R83). -/
def mulhBin : Bin := fun w sg a b => BitVec.ofInt w ((asInt sg a * asInt sg b) / (2 ^ w : Nat))

/-- Quotient and remainder (R84). -/
def divRem (w : Nat) (sg : Bool) (a b : BitVec w) : BitVec w × BitVec w :=
  if b.toNat = 0 then (BitVec.allOnes w, a)
  else if sg ∧ a.toInt = intLo w true ∧ b.toInt = -1 then (a, 0#w)
  else
    let q := (asInt sg a).tdiv (asInt sg b)
    (BitVec.ofInt w q, BitVec.ofInt w (asInt sg a - q * asInt sg b))

/-- IDIV (R84). -/
def divBin : Bin := fun w sg a b => (divRem w sg a b).1
/-- IREM (R84). -/
def remBin : Bin := fun w sg a b => (divRem w sg a b).2
/-- IMIN (R85). -/
def minBin : Bin := fun _ sg a b => if asInt sg a ≤ asInt sg b then a else b
/-- IMAX (R85). -/
def maxBin : Bin := fun _ sg a b => if asInt sg a ≤ asInt sg b then b else a

/-- IABS (R85). -/
def absUn (sat : Bool) : Bin := fun w sg a _ => fit w sg sat (asInt sg a).natAbs
/-- INEG (R85). -/
def negUn (sat : Bool) : Bin := fun w sg a _ => fit w sg sat (-(asInt sg a))

/-- ICMP's condition (R86). -/
def condHolds (cc : Cond) (w : Nat) (sg : Bool) (a b : BitVec w) : Bool :=
  match cc with
  | .eq => a == b
  | .ne => a != b
  | .lt => decide (asInt sg a < asInt sg b)
  | .le => decide (asInt sg a ≤ asInt sg b)
  | .gt => decide (asInt sg b < asInt sg a)
  | .ge => decide (asInt sg b ≤ asInt sg a)

/-- Carry out or sum of IADDC (R82). -/
def addCarry (w : Nat) (co : Bool) (a b : BitVec w) (c0 : Bool) : BitVec w :=
  let x := a.toNat + b.toNat + (if c0 then 1 else 0)
  if co then BitVec.ofNat w (x / 2 ^ w) else BitVec.ofNat w x

/-- Borrow out or difference of ISUBB (R82). -/
def subBorrow (w : Nat) (bo : Bool) (a b : BitVec w) (c0 : Bool) : BitVec w :=
  let x : Int := (a.toNat : Int) - b.toNat - (if c0 then 1 else 0)
  if bo then (if x < 0 then 1#w else 0#w) else BitVec.ofInt w x

/-- SHL (R88). -/
def shlAmt : (w : Nat) → BitVec w → Nat → BitVec w := fun w a n => if w ≤ n then 0#w else a <<< n
/-- SHR (R88). -/
def shrAmt : (w : Nat) → BitVec w → Nat → BitVec w := fun w a n => if w ≤ n then 0#w else a >>> n
/-- SAR (R88). -/
def sarAmt : (w : Nat) → BitVec w → Nat → BitVec w := fun w a n => a.sshiftRight (min n (w - 1))
/-- ROTL (R88). -/
def rotlAmt : (w : Nat) → BitVec w → Nat → BitVec w := fun w a n => a <<< (n % w) ||| a >>> (w - n % w)

/-- POPC (R89). -/
def popCount (w : Nat) (a : BitVec w) : Nat := ((List.range w).filter (fun i => a.getLsbD i)).length
/-- CTZ (R89). -/
def ctzCount (w : Nat) (a : BitVec w) : Nat := ((List.range w).takeWhile (fun i => !a.getLsbD i)).length
/-- CLZ (R89). -/
def clzCount (w : Nat) (a : BitVec w) : Nat := ((List.range w).takeWhile (fun i => !a.getLsbD (w - 1 - i))).length
/-- BREV (R89). -/
def brevUn : Bin := fun _ _ a _ => a.reverse

/-- The length of a bit field within a width (R90). -/
def fieldLen (w : Nat) (ctl : Word) : Nat :=
  let pos := bits ctl.toNat 0 8
  if w ≤ pos then 0 else min (bits ctl.toNat 8 8) (w - pos)

/-- BFX (R90). -/
def bfxBits (w : Nat) (sg : Bool) (a : BitVec w) (ctl : Word) : BitVec w :=
  let len := fieldLen w ctl
  let f := bits a.toNat (bits ctl.toNat 0 8) len
  if len = 0 then 0#w
  else if sg then (BitVec.ofNat len f).signExtend w else BitVec.ofNat w f

/-- BFI (R90). -/
def bfiBits (w : Nat) (a b : BitVec w) (ctl : Word) : BitVec w :=
  let pos := bits ctl.toNat 0 8
  let m : BitVec w := BitVec.ofNat w ((2 ^ fieldLen w ctl - 1) * 2 ^ pos)
  (a &&& ~~~m) ||| ((b <<< pos) &&& m)

/-- LEA (R91). -/
def leaAddr (w : Nat) (sg : Bool) (a : BitVec w) (idx disp : Word) (n : Nat) : BitVec w :=
  let i : Int := if sg then idx.toInt else idx.toNat
  BitVec.ofInt w ((a.toNat : Int) + i * (2 ^ n : Nat) + disp.toInt)

/-- IDOT4 (R92). -/
def dot4 (sg mixed sat : Bool) (a b c : Word) : Word :=
  let x (i : Nat) : Int := asInt sg (a.extractLsb' (8 * i) 8)
  let y (i : Nat) : Int := asInt (sg && !mixed) (b.extractLsb' (8 * i) 8)
  fit 32 sg sat (asInt sg c + x 0 * y 0 + x 1 * y 1 + x 2 * y 2 + x 3 * y 3)

/-! ### The instructions -/

/-- IADD (R82). -/
def execIadd (ty : IType) (sat : Bool) (o : Opnds) (s : State) : Out := aluAB s ty o (rn ty.is64) (ty.map2 (addBin sat))

/-- ISUB (R82). -/
def execIsub (ty : IType) (sat : Bool) (o : Opnds) (s : State) : Out := aluAB s ty o (rn ty.is64) (ty.map2 (subBin sat))

/-- IADDC (R82). -/
def execIaddc (ty : IType) (co : Bool) (o : Opnds) (s : State) : Out :=
  aluABCtl s ty o (if co then 1 else rn ty.is64) (fun a b c =>
    if ty.is64 then addCarry 64 co a b (c.getLsbD 0)
    else (addCarry 32 co (a.setWidth 32) (b.setWidth 32) (c.getLsbD 0)).setWidth 64)

/-- ISUBB (R82). -/
def execIsubb (ty : IType) (bo : Bool) (o : Opnds) (s : State) : Out :=
  aluABCtl s ty o (if bo then 1 else rn ty.is64) (fun a b c =>
    if ty.is64 then subBorrow 64 bo a b (c.getLsbD 0)
    else (subBorrow 32 bo (a.setWidth 32) (b.setWidth 32) (c.getLsbD 0)).setWidth 64)

/-- IMUL (R83). -/
def execImul (ty : IType) (sat : Bool) (o : Opnds) (s : State) : Out := aluAB s ty o (rn ty.is64) (ty.map2 (mulBin sat))

/-- IMULH (R83). -/
def execImulh (ty : IType) (o : Opnds) (s : State) : Out := aluAB s ty o (rn ty.is64) (ty.map2 mulhBin)

/-- IMAD (R83): one step, no intermediate wrap. -/
def execImad (ty : IType) (sat : Bool) (o : Opnds) (s : State) : Out :=
  onThread s (fun t _ =>
    let (a, s1) := s.readElem t ty o o.a
    let (b, s2) := s1.readElem t ty o o.b
    let (c, s3) := s2.readElem t ty o o.c
    let mad (w : Nat) (sg : Bool) (x y z : BitVec w) : BitVec w := fit w sg sat (asInt sg x * asInt sg y + asInt sg z)
    let r : DWord := match ty with
      | .i16x2 =>
        pack16 (mad 16 true (a.extractLsb' 0 16) (b.extractLsb' 0 16) (c.extractLsb' 0 16))
          (mad 16 true (a.extractLsb' 16 16) (b.extractLsb' 16 16) (c.extractLsb' 16 16))
      | .i32 => (mad 32 true (a.setWidth 32) (b.setWidth 32) (c.setWidth 32)).setWidth 64
      | .n32 => (mad 32 false (a.setWidth 32) (b.setWidth 32) (c.setWidth 32)).setWidth 64
      | .i64 => mad 64 true a b c
      | .n64 => mad 64 false a b c
    s.retire s3 t o (rn ty.is64) (r.setWidth 128))

/-- IDIV (R84). -/
def execIdiv (ty : IType) (o : Opnds) (s : State) : Out := aluAB s ty o (rn ty.is64) (ty.map2 divBin)

/-- IREM (R84). -/
def execIrem (ty : IType) (o : Opnds) (s : State) : Out := aluAB s ty o (rn ty.is64) (ty.map2 remBin)

/-- IABS (R85). -/
def execIabs (ty : IType) (sat : Bool) (o : Opnds) (s : State) : Out :=
  aluA s ty o (rn ty.is64) (fun a => ty.map2 (absUn sat) a a)

/-- INEG (R85). -/
def execIneg (ty : IType) (sat : Bool) (o : Opnds) (s : State) : Out :=
  aluA s ty o (rn ty.is64) (fun a => ty.map2 (negUn sat) a a)

/-- IMIN (R85). -/
def execImin (ty : IType) (o : Opnds) (s : State) : Out := aluAB s ty o (rn ty.is64) (ty.map2 minBin)

/-- IMAX (R85). -/
def execImax (ty : IType) (o : Opnds) (s : State) : Out := aluAB s ty o (rn ty.is64) (ty.map2 maxBin)

/-- ICMP (R86). -/
def execIcmp (ty : IType) (cc : Cond) (o : Opnds) (s : State) : Out := aluAB s ty o 1 (ty.test2 (condHolds cc))

/-- AND (R87). -/
def execLand (ty : IType) (o : Opnds) (s : State) : Out := aluAB s ty o (rn ty.is64) (ty.map2 (fun _ _ a b => a &&& b))

/-- OR (R87). -/
def execLor (ty : IType) (o : Opnds) (s : State) : Out := aluAB s ty o (rn ty.is64) (ty.map2 (fun _ _ a b => a ||| b))

/-- XOR (R87). -/
def execLxor (ty : IType) (o : Opnds) (s : State) : Out := aluAB s ty o (rn ty.is64) (ty.map2 (fun _ _ a b => a ^^^ b))

/-- ANDN: a AND NOT b (R87). -/
def execLandn (ty : IType) (o : Opnds) (s : State) : Out :=
  aluAB s ty o (rn ty.is64) (ty.map2 (fun _ _ a b => a &&& ~~~b))

/-- NOT (R87). -/
def execLnot (ty : IType) (o : Opnds) (s : State) : Out :=
  aluA s ty o (rn ty.is64) (fun a => ty.map2 (fun _ _ a _ => ~~~a) a a)

/-- SHL (R88). -/
def execShl (ty : IType) (o : Opnds) (s : State) : Out := aluACtl s ty o (rn ty.is64) (ty.mapAmount shlAmt)

/-- SHR (R88). -/
def execShr (ty : IType) (o : Opnds) (s : State) : Out := aluACtl s ty o (rn ty.is64) (ty.mapAmount shrAmt)

/-- SAR (R88). -/
def execSar (ty : IType) (o : Opnds) (s : State) : Out := aluACtl s ty o (rn ty.is64) (ty.mapAmount sarAmt)

/-- ROTL (R88). -/
def execRotl (ty : IType) (o : Opnds) (s : State) : Out := aluACtl s ty o (rn ty.is64) (ty.mapAmount rotlAmt)

/-- POPC (R89). -/
def execPopc (ty : IType) (o : Opnds) (s : State) : Out := aluA s ty o 1 (ty.count popCount)

/-- CLZ (R89). -/
def execClz (ty : IType) (o : Opnds) (s : State) : Out := aluA s ty o 1 (ty.count clzCount)

/-- CTZ (R89). -/
def execCtz (ty : IType) (o : Opnds) (s : State) : Out := aluA s ty o 1 (ty.count ctzCount)

/-- BREV (R89). -/
def execBrev (ty : IType) (o : Opnds) (s : State) : Out := aluA s ty o (rn ty.is64) (fun a => ty.map2 brevUn a a)

/-- BFX (R90). -/
def execBfx (ty : IType) (o : Opnds) (s : State) : Out :=
  aluACtl s ty o (rn ty.is64) (fun a c =>
    if ty.is64 then bfxBits 64 ty.signed a c else (bfxBits 32 ty.signed (a.setWidth 32) c).setWidth 64)

/-- BFI (R90). -/
def execBfi (ty : IType) (o : Opnds) (s : State) : Out :=
  aluABCtl s ty o (rn ty.is64) (fun a b c =>
    if ty.is64 then bfiBits 64 a b c else (bfiBits 32 (a.setWidth 32) (b.setWidth 32) c).setWidth 64)

/-- LEA (R91). -/
def execLea (ty : IType) (n : BitVec 4) (o : Opnds) (s : State) : Out :=
  onThread s (fun t _ =>
    let (a, s1) := s.readElem t ty o o.a
    let (b, s2) := s1.readCtl t o o.b
    let (c, s3) := s2.readCtl t o o.c
    let r : DWord :=
      if ty.is64 then leaAddr 64 ty.signed a b c n.toNat else (leaAddr 32 ty.signed (a.setWidth 32) b c n.toNat).setWidth 64
    s.retire s3 t o (rn ty.is64) (r.setWidth 128))

/-- IDOT4 (R92). -/
def execIdot4 (ty : IType) (mixed sat : Bool) (o : Opnds) (s : State) : Out :=
  onThread s (fun t _ =>
    let (a, s1) := s.readElem t ty o o.a
    let (b, s2) := s1.readElem t ty o o.b
    let (c, s3) := s2.readElem t ty o o.c
    s.retire s3 t o 1 ((dot4 ty.signed mixed sat (a.setWidth 32) (b.setWidth 32) (c.setWidth 32)).setWidth 128))

end Sys2Proof.Machine
end

