-- ==== Sys2Proof/Machine/Host.lean ====
section
/-! DEFINITION. The host (R378-R382): its RDMA requests on the windows, at `.sys`, and its writes to the control block. A
request that is refused writes no fault record; `hostReplies` keeps the answer to each. -/
namespace Sys2Proof.Machine

/-- What a host request does. -/
inductive HostOp where | read | write | atomic
  deriving DecidableEq, Repr

/-- The flag a window must carry for an operation: its bit in FLAGS (R379). -/
def HostOp.flag : HostOp → Nat
  | .read => 1
  | .write => 2
  | .atomic => 3

/-- An answer to the host. -/
def State.hostReply (s : State) (refused : Bool) (bs : List Byte) : State :=
  { s with hostReplies := s.hostReplies ++ [(refused, bs)] }

/-- WINDOW entry `i` qualifies for a request: enabled, its RKEY, every byte in its range. -/
def Pcb.windowHolds (p : Pcb) (rkey : Word) (va n i : Nat) : Bool :=
  p.windowField (32 * i + 20) 4 % 2 == 1 && p.windowField (32 * i + 16) 4 == rkey.toNat &&
    decide (p.windowField (32 * i) 8 ≤ va) && decide (va + n ≤ p.windowField (32 * i) 8 + p.windowField (32 * i + 8) 8)

/-- Window 0 holds a request: RKEY 0, offsets 0x0000-0x0FFF of the control block. -/
def windowZero (rkey : Word) (va n : Nat) : Bool := rkey == 0#32 && decide (va + n ≤ 0x1000)

/-- The lowest window that qualifies; a window that lacks the operation's flag refuses. -/
def State.hostWindow (s : State) (rkey : Word) (va n : Nat) (op : HostOp) : Option Nat :=
  if windowZero rkey va n then (if op = .atomic then none else some 0)
  else
    match ((List.range 63).map (· + 1)).find? (s.pcb.windowHolds rkey va n) with
    | some i => if (s.pcb.windowField (32 * i + 20) 4).testBit op.flag then some i else none
    | none => none

/-- The registers that window 0 lets the host write: LATTOL, NONCE, ATTCMD. -/
def windowZeroWritable (off : Nat) : Bool :=
  (decide (0x10 ≤ off) && decide (off < 0x14)) || (decide (0xB00 ≤ off) && decide (off < 0xB24))

/-- A part of a request that lies in one page, translated: entry, physical address, bytes. -/
structure HostPart where
  entry : DWord
  pa : Nat
  len : Nat
  deriving DecidableEq, Repr

/-- What translating a request answers. -/
inductive HostXl where
  | ok (parts : List HostPart)
  | refused
  | wait
  deriving DecidableEq, Repr

/-- A host request's pages, translated through the package root at user privilege, classified as shared (R286, R379). An
aperture is another device's memory and no target of the host. The fuel counts pages of the smallest size. -/
def State.hostXlate (s : State) (va n : Nat) (kind : Access) (atomic : Bool) : Nat → HostXl × State
  | 0 => (.ok [], s)
  | k + 1 =>
    let m := min n (65536 - va % 65536)
    match s.walk ⟨BitVec.ofNat 64 va, kind, false, false, 0, atomic, noCore, true, true⟩ with
    | (.ok e _ pa, s) =>
      if (homeDie pa).isNone then (.refused, s)
      else if n ≤ m then (.ok [⟨e, pa, m⟩], s)
      else
        match s.hostXlate (va + m) (n - m) kind atomic k with
        | (.ok ps, s) => (.ok (⟨e, pa, m⟩ :: ps), s)
        | r => r
    | (.fault _ _ _, s) => (.refused, s)
    | (.mig, s) => (.wait, s)
    | (.wait, s) => (.wait, s)

/-- Bytes of one sector read for the host, at the home. -/
def State.hostGet1 (s : State) (e : DWord) (pa n : Nat) : List Byte × State :=
  match placeOf pa with
  | .ws w => (s.rawBytes (pa % 2 ^ 46) n, s.needDie w)
  | .hbm h =>
    let s := s.flushOwned (lineNo pa)
    let (x, _, s) := s.homeLoad h (lineNo pa) (pteKey e) (pteTensor e) true none
    (lineSlice x (pa % 128) n, s)
  | .pcb | .aperture _ | .unbacked => ([], s)

/-- Bytes of one sector written by the host. With HC = 1 they merge at the home (R381); with HC = 0 the line is written
back and invalidated everywhere, and the bytes go to memory by mask (R382). -/
def State.hostPut1 (s : State) (e : DWord) (pa : Nat) (bs : List Byte) : State :=
  let ln := lineNo pa
  let data := lineAt (pa % 128) bs
  let mask := maskAt (pa % 128) bs.length
  match placeOf pa with
  | .ws w => (s.needDie w).rawPut (pa % 2 ^ 46) bs
  | .hbm h =>
    if pteHc e then
      ((s.flushOwned ln).homeStore h ln data mask (pteTensor e) (pteKey e) (pteNa e) none none).fabStamp pa
    else
      let s := [0, 1, 2, 3].foldl (fun s d => s.invalLine none d ln) (s.flushOwned ln)
      s.hbmWrite ln (pteKey e) (mergeLine (s.hbmLine ln (pteKey e)) data mask) (maskSectors mask)
  | .pcb | .aperture _ | .unbacked => s

/-- A part of a request read in ascending 64-byte units (R380); the fuel counts units. -/
def State.hostGet (s : State) (e : DWord) (pa n : Nat) : Nat → List Byte × State
  | 0 => ([], s)
  | k + 1 =>
    let m := min n (64 - pa % 64)
    let (a, s) := s.hostGet1 e pa m
    if n ≤ m then (a, s)
    else
      let (b, s) := s.hostGet e (pa + m) (n - m) k
      (a ++ b, s)

/-- A part of a request written in ascending 64-byte units. -/
def State.hostPut (s : State) (e : DWord) (pa : Nat) (bs : List Byte) : Nat → State
  | 0 => s
  | k + 1 =>
    let m := 64 - pa % 64
    let s := s.hostPut1 e pa (bs.take m)
    if bs.length ≤ m then s else s.hostPut e (pa + m) (bs.drop m) k

/-- Every part read. -/
def State.hostGets (s : State) : List HostPart → List Byte × State
  | [] => ([], s)
  | p :: ps =>
    let (a, s) := s.hostGet p.entry p.pa p.len (p.len / 64 + 2)
    let (b, s) := s.hostGets ps
    (a ++ b, s)

/-- Every part written. -/
def State.hostPuts (s : State) (bs : List Byte) : List HostPart → State
  | [] => s
  | p :: ps => (s.hostPut p.entry p.pa (bs.take p.len) (p.len / 64 + 2)).hostPuts (bs.drop p.len) ps

/-- Pages that a request may span. -/
def hostPages (n : Nat) : Nat := n / 65536 + 2

/-- An RDMA WRITE of the host (R378-R382); none while it has to wait: a page under migration, or memory of a die still to
enter service. -/
def State.hostWrite (s : State) (rkey : Word) (va : DWord) (data : List Byte) : Option State :=
  match s.hostWindow rkey va.toNat data.length .write with
  | none => some (s.hostReply true [])
  | some i =>
    if data = [] then some (s.hostReply false [])
    else if i = 0 then
      some (if (List.range data.length).all (fun k => windowZeroWritable (va.toNat + k)) then
          (s.pcbWrite va.toNat data).hostReply false []
        else s.hostReply true [])
    else
      match s.hostXlate va.toNat data.length .write false (hostPages data.length) with
      | (.ok ps, s) => some ((s.hostPuts data ps).hostReply false [])
      | (.refused, s) => some (s.hostReply true [])
      | (.wait, _) => none

/-- An RDMA READ of the host. -/
def State.hostRead (s : State) (rkey : Word) (va : DWord) (n : Nat) : Option State :=
  match s.hostWindow rkey va.toNat n .read with
  | none => some (s.hostReply true [])
  | some i =>
    if n = 0 then some (s.hostReply false [])
    else if i = 0 then some (s.hostReply false (s.pcbRead va.toNat n))
    else
      match s.hostXlate va.toNat n .read false (hostPages n) with
      | (.ok ps, s) =>
        let (bs, s) := s.hostGets ps
        some (s.hostReply false bs)
      | (.refused, s) => some (s.hostReply true [])
      | (.wait, _) => none

/-- An ATOMIC of the host on naturally aligned 8 bytes, performed at the home (R378, R380): it answers the old value. -/
def State.hostAtomic (s : State) (rkey : Word) (va : DWord) (f : DWord → Option DWord) : Option State :=
  if va.toNat % 8 ≠ 0 then some (s.hostReply true [])
  else
    match s.hostWindow rkey va.toNat 8 .atomic with
    | none => some (s.hostReply true [])
    | some _ =>
      match s.hostXlate va.toNat 8 .write true 2 with
      | (.ok ps, s) =>
        let (bs, s) := s.hostGets ps
        match f (BitVec.ofNat 64 (leNat bs)) with
        | some v => some ((s.hostPuts (leBytes v.toNat 8) ps).hostReply false bs)
        | none => some (s.hostReply false bs)
      | (.refused, s) => some (s.hostReply true [])
      | (.wait, _) => none

/-- A message of the host performed; none while it has to wait. -/
def State.hostMsg (s : State) (m : HostMsg) : Option State :=
  match m with
  | .write rkey va data => s.hostWrite rkey va data
  | .read rkey va n => s.hostRead rkey va n
  | .cas rkey va cmp new => s.hostAtomic rkey va (fun old => if old = cmp then some new else none)
  | .fetchAdd rkey va add => s.hostAtomic rkey va (fun old => some (old + add))
  | .refusedOp => some (s.hostReply true [])

/-! ### Queue pairs (R380) -/

/-- The messages of a queue pair that wait, oldest first. -/
def State.hostQueue (s : State) (qp : Nat) : List HostMsg := AMap.getD s.hostQueues qp []

/-- The messages of a queue pair performed in order, as far as the first that has to wait; the rest stays queued. -/
def State.hostRun (s : State) (qp : Nat) : List HostMsg → State
  | [] => { s with hostQueues := AMap.erase s.hostQueues qp }
  | m :: ms =>
    match s.hostMsg m with
    | some s => s.hostRun qp ms
    | none => { s with hostQueues := AMap.set s.hostQueues qp (m :: ms) }

/-- A message of the host arrives: it is performed after those of its queue pair (R380). -/
def State.hostArrives (s : State) (qp : Nat) (m : HostMsg) : State := s.hostRun qp (s.hostQueue qp ++ [m])

/-- What the part does outside its threads and had to put off is tried again: waiting messages of the host, and note blocks
(R337, R380). -/
def State.retryOutside (s : State) : State :=
  ((AMap.keys s.hostQueues).foldl (fun s qp => s.hostRun qp (s.hostQueue qp)) s).retryNotes

/-- HOST_RDMA_WRITE: an RDMA WRITE of the host. -/
def execHostRdmaWrite (k : HostKey) (va : DWord) (data : List Byte) (s : State) : Out :=
  .next (s.hostArrives k.qp (.write k.rkey va data))

/-- HOST_RDMA_READ: an RDMA READ of the host. -/
def execHostRdmaRead (k : HostKey) (va : DWord) (n : Nat) (s : State) : Out :=
  .next (s.hostArrives k.qp (.read k.rkey va n))

/-- HOST_RDMA_CAS: compare-and-swap of the host. -/
def execHostRdmaCas (k : HostKey) (va : DWord) (cmp new : DWord) (s : State) : Out :=
  .next (s.hostArrives k.qp (.cas k.rkey va cmp new))

/-- HOST_RDMA_FETCH_ADD: fetch-and-add of the host. -/
def execHostRdmaFetchAdd (k : HostKey) (va : DWord) (add : DWord) (s : State) : Out :=
  .next (s.hostArrives k.qp (.fetchAdd k.rkey va add))

/-- HOST_RDMA_REFUSED_OP: SEND, RDMA WRITE with immediate, and every other operation outside R378. -/
def execHostRdmaRefusedOp (k : HostKey) (s : State) : Out := .next (s.hostArrives k.qp .refusedOp)

/-- PCB_REGISTER_WRITE: a write to the control block is performed at the boot processor (R377); it is naturally aligned,
.b32 or .b64. -/
def execPcbRegisterWrite (offset : Nat) (w64 : Bool) (v : DWord) (s : State) : Out :=
  let n := if w64 then 8 else 4
  .next (if offset % n = 0 ∧ offset + n ≤ 65536 then s.pcbWrite offset (leBytes v.toNat n) else s)

end Sys2Proof.Machine
end

