-- ==== Sys2Proof/Machine/Chain.lean ====
section
/-! DEFINITION. The Chain (R254-R261, R265): stops, mailboxes, sends and claims, and CHOPEN, CHCLOSE, CHBAR, CHSEND and
CHRECV. -/
namespace Sys2Proof.Machine

/-! ### Stops and members -/

/-- The Chain stop of a core. -/
def State.chain (s : State) (core : Nat) : ChainStop := (s.core core).chain

/-- A stop changed. -/
def State.modChain (s : State) (core : Nat) (f : ChainStop → ChainStop) : State :=
  s.modCore core (fun c => { c with chain := f c.chain })

/-- The core whose stop a member of a launch has open. -/
def State.stopOf (s : State) (m : Nat × Nat) : Option Nat :=
  (s.cores.find? (fun p => p.2.chain.owner == some m)).map (·.1)

/-- The stop is open by this group: a spawned group opens none (R255). -/
def ChainStop.openBy (x : ChainStop) (g : Group) : Bool := !g.spawned && x.owner == some (g.launch, g.index)

/-- The segment's tail. -/
def ChainStop.atTail (x : ChainStop) (i : Nat) : Bool := i + 1 == x.head + x.len

/-- The successor of the stop's member (R254). -/
def ChainStop.succ (x : ChainStop) : Option (Nat × Nat) :=
  x.owner.map (fun m => (m.1, if x.atTail m.2 then x.head else m.2 + 1))

/-- The predecessor of the stop's member. -/
def ChainStop.pred (x : ChainStop) : Option (Nat × Nat) :=
  x.owner.map (fun m => (m.1, if m.2 = x.head then x.head + x.len - 1 else m.2 - 1))

/-- The predecessor's stop has closed (R265). -/
def State.predGone (s : State) (core : Nat) : Bool :=
  (s.chain core).formed && ((s.chain core).pred.bind s.stopOf).isNone

/-- The core of the successor's stop, while it is open. -/
def State.succCore (s : State) (core : Nat) : Option Nat := (s.chain core).succ.bind s.stopOf

/-- A mailbox takes another entry (R257, R263). -/
def ChainStop.hasRoom (x : ChainStop) : Bool := decide (x.mailbox.length + x.saved < 2)

/-! ### Claims and tokens that end -/

/-- A CHRECV ends with a code: it stands in the first register of D, and the others keep their values. -/
def State.recvEnds (s : State) (q : ChClaim) (c : Code) : State :=
  match q.reg with
  | none => s
  | some r =>
    (s.modThread q.thread (fun th =>
      { th with pending := th.pending.filter (fun p => !(decide (r < p) && decide (p < r + q.words))) })).deliver
        q.thread r [codeWord c]

/-- Claims of CHRECVs at the head of the claims are served, or end because nothing can come (R257, R259, R265). -/
def State.serveClaims (s : State) (core : Nat) : Nat → State
  | 0 => s
  | k + 1 =>
    let x := s.chain core
    match x.claimq, x.mailbox with
    | [], _ => s
    | q :: qs, [] =>
      if q.op.isNone && s.predGone core then
        ((s.modChain core (fun y => { y with claimq := qs })).recvEnds q .chainBroken).serveClaims core k
      else s
    | q :: qs, e :: es =>
      if q.op.isSome then s
      else if !e.carry && e.words.length == q.words then
        let s := (s.modChain core (fun y => { y with claimq := qs, mailbox := es })).deliverOpt q.thread q.reg e.words
        (s.clockPkg core).serveClaims core k
      else ((s.modChain core (fun y => { y with claimq := qs })).recvEnds q .illegalOperand).serveClaims core k

/-- Pending CHBARs of a stop end with CHAIN_BROKEN. -/
def State.breakBars (s : State) (core : Nat) : State :=
  (s.chain core).chbars.foldl (fun s p => s.deliverCode p.1 p.2 .chainBroken)
    (s.modChain core (fun y => { y with chbars := [] }))

/-- What a stop can settle without waiting: claims of CHRECVs, and CHBARs whose predecessor is gone (R265). -/
def State.settleStop (s : State) (core : Nat) : State :=
  let s := s.serveClaims core (s.chain core).claimq.length
  let x := s.chain core
  let head := x.owner.map (·.2) == some x.head
  if s.predGone core && x.tokens == 0 && !head then s.breakBars core else s

/-! ### Scan operations that end -/

/-- The claim and the send of a SCANC are given up. -/
def State.dropScan (s : State) (core id : Nat) : State :=
  s.modChain core (fun y => { y with
    claimq := y.claimq.filter (fun q => q.op != some id), sends := y.sends.filter (fun x => x.op != some id) })

/-- A scan operation leaves the queue: D, then its arrival (R253). -/
def State.scanEnds (s : State) (core : Nat) (o : ScanOp) (c : Code) : State :=
  let s := (s.modCore core (fun x => { x with scanq := x.scanq.filter (fun p => p.id != o.id) })).dropScan core o.id
  let s := s.deliverCode o.thread o.d c
  match o.kind with
  | .desc _ _ _ => s
  | .scan _ _ _ _ | .scanc _ _ _ _ _ _ _ _ _ => s.engineArrive (.reg o.group o.bar) 1 c

/-! ### Opening and closing (R255, R256) -/

/-- The open stops of a launch: core, member, stop. -/
def State.stopsOf (s : State) (l : Nat) : List (Nat × Nat × ChainStop) :=
  s.cores.filterMap (fun p =>
    match p.2.chain.owner with
    | some (l', i) => if l' = l then some (p.1, i, p.2.chain) else none
    | none => none)

/-- The claims that a CHCLOSE leaves standing: those of SCANCs whose entry has arrived. A CHRECV that is still pending has
nothing to wait for (R256). -/
def ChainStop.kept (x : ChainStop) : List ChClaim := (x.claimq.take x.mailbox.length).filter (·.op.isSome)

/-- Waiting claims without an entry, pending CHRECVs and CHBARs and unformed CHOPENs of a closing stop end with
CHAIN_BROKEN. A SCANC whose entry has arrived keeps its claim. -/
def State.endWaits (s : State) (core : Nat) : State :=
  let x := s.chain core
  let late := x.claimq.filter (fun q => !x.kept.contains q)
  let s := s.modChain core (fun y => { y with claimq := x.kept, opening := [] })
  let s := x.opening.foldl (fun s p => s.deliverCode p.1 p.2 .chainBroken) s
  let s := late.foldl (fun s q =>
    match q.op with
    | none => s.recvEnds q .chainBroken
    | some id =>
      match (s.core core).scanq.find? (fun o => o.id == id) with
      | some o => s.scanEnds core o .chainBroken
      | none => s) s
  s.breakBars core

/-- A stop with a CHCLOSE pending may close: its scans have landed and its sends have ended. -/
def State.mayClose (s : State) (core : Nat) : Bool :=
  let x := s.chain core
  x.closing != [] && x.sends == [] && !(s.core core).scanq.any (fun o =>
    match o.kind, s.group? o.group with
    | .desc _ _ _, _ => false
    | _, some g => x.openBy g
    | _, none => false)

/-- A stop closes: what its mailbox still holds is discarded and counted (R256), and what waits on it breaks. -/
def State.closeStop (s : State) (core : Nat) : State :=
  let x := s.chain core
  let s := s.endWaits core
  let next := s.succCore core
  let s := s.modChain core (fun y => { ChainStop.init with waiting := y.waiting })
  let v : Word := BitVec.ofNat 32 (x.mailbox.length * 65536)
  let s := x.closing.foldl (fun s p => s.deliverOpt p.1 p.2 [v]) s
  match next with
  | some n => if n = core then s else s.settleStop n
  | none => s

/-- An open of a segment fails with ILLEGAL_OPERAND and its stop is left closed. -/
def State.refuseOpen (s : State) (core : Nat) : State :=
  let x := s.chain core
  let s := s.modChain core (fun y => { y with opening := [], closing := y.closing ++ [(0, none)] })
  let s := (x.opening.foldl (fun s p => s.deliverCode p.1 p.2 .illegalOperand) s).endWaits core
  if s.mayClose core then s.closeStop core else s

/-- The tokens that a head has passed before its segment formed reach its successor (R260). -/
def State.passTokens (s : State) (core : Nat) : State :=
  match s.succCore core with
  | some n =>
    let k := (s.chain core).passed
    (s.modChain core (fun y => { y with passed := 0 })).modChain n (fun y => { y with tokens := y.tokens + k })
  | none => s

/-- A segment whose members have all opened with its bounds is formed; opens with other bounds fail (R255). -/
def State.formSegment (s : State) (l i head len : Nat) : State :=
  let stops := s.stopsOf l
  let within (j h n : Nat) : Bool := decide (h ≤ j) && decide (j < h + n)
  let mine (x : ChainStop) : Bool := x.head == head && x.len == len
  let against := stops.filter (fun p => !mine p.2.2 && (within p.2.1 head len || within i p.2.2.head p.2.2.len))
  if against ≠ [] then
    let fails (p : Nat × Nat × ChainStop) : Bool :=
      !p.2.2.formed && (mine p.2.2 || against.any (fun q => q.2.2.head == p.2.2.head && q.2.2.len == p.2.2.len))
    (stops.filter fails).foldl (fun s p => s.refuseOpen p.1) s
  else if (List.range len).all (fun k => stops.any (fun p => p.2.1 == head + k && mine p.2.2)) then
    let s := (stops.filter (fun p => mine p.2.2)).foldl (fun s p =>
      p.2.2.opening.foldl (fun s q => s.deliverCode q.1 q.2 .ok)
        (s.modChain p.1 (fun y => { y with formed := true, opening := [] }))) s
    (stops.filter (fun p => mine p.2.2 && p.2.1 == head)).foldl (fun s p => s.passTokens p.1) s
  else s

/-- A stop opens for a member. -/
def State.openStop (s : State) (core : Nat) (o : ChOpen) : State :=
  (s.modChain core (fun y => { ChainStop.init with
    owner := some (o.launch, o.index), head := o.head, len := o.len
    waiting := y.waiting, opening := [(o.thread, o.d)] })).formSegment o.launch o.index o.head o.len

/-- A waiting CHOPEN of the member that now has the stop completes as its first. -/
def State.joinOpen (s : State) (core : Nat) (o : ChOpen) : State :=
  let x := s.chain core
  if x.head ≠ o.head ∨ x.len ≠ o.len then s.deliverCode o.thread o.d .illegalOperand
  else if x.formed then s.deliverCode o.thread o.d .ok
  else s.modChain core (fun y => { y with opening := y.opening ++ [(o.thread, o.d)] })

/-- A closed stop opens for the first CHOPEN that waits for it, and for the others of the same member (R255). -/
def State.serveOpens (s : State) (core : Nat) : State :=
  let x := s.chain core
  match x.owner, x.waiting with
  | none, o :: os =>
    let same (p : ChOpen) : Bool := p.launch == o.launch && p.index == o.index
    let s := s.modChain core (fun y => { y with waiting := os.filter (fun p => !same p) })
    let s := s.openStop core o
    (os.filter same).foldl (fun s p =>
      if (s.chain core).owner = some (o.launch, o.index) then s.joinOpen core p
      else s.deliverCode p.thread p.d .illegalOperand) s
  | _, _ => s

/-- A stop closes where it can, and a waiting segment takes it. -/
def State.tryClose (s : State) (core : Nat) : State :=
  if s.mayClose core then (s.closeStop core).serveOpens core else s

/-- A CHCLOSE, or the exit of a group's last thread with the stop open (R256): thread and D. -/
def State.beginClose (s : State) (core : Nat) (who : Nat × Option Nat) : State :=
  ((s.modChain core (fun y => { y with closing := y.closing ++ [who] })).endWaits core).tryClose core

/-- A claim or a CHBAR has joined its stop: one whose CHCLOSE is pending ends it (R256), another settles it. -/
def State.settleClaim (s : State) (core : Nat) : State :=
  if (s.chain core).closing = [] then s.settleStop core else ((s.settleStop core).endWaits core).tryClose core

/-- A scan operation lands (R253). -/
def State.scanLands (s : State) (core : Nat) (o : ScanOp) (c : Code) : State := (s.scanEnds core o c).tryClose core

/-! ### Sends (R257) -/

/-- The oldest send of a stop ends: a CHSEND's D lands, a SCANC learns the code. -/
def State.sendEnds (s : State) (core : Nat) (x : ChSend) (c : Code) : State :=
  let s := s.modChain core (fun y => { y with sends := y.sends.drop 1 })
  let s := match x.op with
    | none => s.deliverCode x.thread x.d c
    | some id => s.modCore core (fun y => { y with scanq := y.scanq.map (fun (o : ScanOp) =>
        if o.id = id then
          match o.kind with
          | .scanc lo i w src dst es n tile _ => { o with kind := .scanc lo i w src dst es n tile (some c) }
          | .desc _ _ _ | .scan _ _ _ _ => o
        else o) })
  s.tryClose core

/-- The oldest send of a stop enters the successor's mailbox or is refused; it waits while the segment is not formed or
the mailbox is full. -/
def State.stepSend (s : State) (core : Nat) : State :=
  let x := s.chain core
  match x.sends with
  | [] => s
  | y :: _ =>
    match y.entry with
    | none => s
    | some e =>
      if !x.formed && x.closing == [] then s
      else
        match s.succCore core with
        | none => s.sendEnds core y .chainBroken
        | some n =>
          if (s.chain n).hasRoom then
            let s := s.modChain n (fun z => { z with
              mailbox := z.mailbox ++ [e], received := (z.received + 1) % 65536 })
            (s.sendEnds core y .ok).settleStop n
          else s

/-- The stop of a saved member whose launch is down closes (R265, R351). -/
def State.closeLost (s : State) (core : Nat) : State :=
  let x := s.chain core
  match x.owner with
  | none => s
  | some (l, _) =>
    if s.launchGone l && x.closing == [] && !(s.groups.any (fun p => p.2.core == core && x.openBy p.2)) then
      (s.modChain core (fun y => { y with saved := 0 })).beginClose core (0, none)
    else s

/-- MAILBOX_ENTRY_ARRIVES: the oldest send of a core's stop reaches the successor's mailbox (R257, R263, R265). A stop
that has come free opens for the next segment that waits. -/
def execMailboxEntryArrives (core : Nat) (s : State) : Out :=
  .next (((s.closeLost core).stepSend core).serveOpens core)

/-! ### CHBAR (R260) -/

/-- The oldest CHBAR of a stop completes, if it may: the predecessor has passed a token and the successor takes one. The
head's needs no token, and no formed segment: until it forms, the head's stop keeps what it has passed. -/
def State.stepBar (s : State) (core : Nat) : Option State :=
  let x := s.chain core
  match x.owner, x.chbars with
  | some (_, i), p :: ps =>
    let isHead := i == x.head
    let isTail := x.atTail i
    let next := if isTail || !x.formed then none else s.succCore core
    let fits := match next with
      | some n => decide ((s.chain n).tokens < 255)
      | none => x.formed || isTail || decide (x.passed < 255)
    if fits && (isHead || (x.formed && decide (0 < x.tokens))) then
      let s := s.modChain core (fun y => { y with
        chbars := ps, tokens := if isHead then y.tokens else y.tokens - 1
        passed := if x.formed || isTail then y.passed else y.passed + 1 })
      let s := match next with
        | some n => s.modChain n (fun y => { y with tokens := y.tokens + 1 })
        | none => s
      some (((s.deliverCode p.1 p.2 .ok).clockPkg core).settleStop core)
    else none
  | _, _ => none

/-- CHBAR_COMPLETE: a member's CHBAR completes once its predecessor's has (R260). -/
def execChbarComplete (core : Nat) (s : State) : Out := .next ((s.stepBar core).getD s)

/-! ### The instructions -/

/-- An instruction that needs the stop open by the group (R255). -/
def withStop (s : State) (k : Nat → Thread → Group → ChainStop → State) : Out :=
  onThread s (fun t th =>
    match s.groupOf t with
    | none => s.takeTrap t .unsupportedOnLc 0#64
    | some g =>
      let x := s.chain g.core
      if x.openBy g then k t th g x else s.takeTrap t .illegalOperand 0#64)

/-- CHOPEN (R255). -/
def execChopen (o : Opnds) (s : State) : Out :=
  onThread s (fun t _ =>
    match s.groupOf t, s.launchOf t with
    | some g, some l =>
      let (a, s1) := s.read32 t o.a
      let (b, s1) := s1.read32 t o.b
      let h := a.toNat
      let n := b.toNat
      let x := s1.chain g.core
      if !l.chain || g.spawned then s.takeTrap t .illegalOperand 0#64
      else if n = 0 ∨ l.ngroup < h + n ∨ g.index < h ∨ h + n ≤ g.index then s.takeTrap t .illegalOperand 0#64
      else
        let req : ChOpen := ⟨g.launch, g.index, t, destReg o.d, h, n⟩
        let s2 := (s1.pendD t o.d 1).advance t o.len
        if x.openBy g then
          if x.head ≠ h ∨ x.len ≠ n then s.takeTrap t .illegalOperand 0#64 else s2.joinOpen g.core req
        else if x.owner.isSome || x.waiting != [] then
          s2.modChain g.core (fun y => { y with waiting := y.waiting ++ [req] })
        else s2.openStop g.core req
    | _, _ => s.takeTrap t .unsupportedOnLc 0#64)

/-- CHCLOSE (R256). -/
def execChclose (o : Opnds) (s : State) : Out :=
  withStop s (fun t _ g _ => ((s.pendD t o.d 1).advance t o.len).beginClose g.core (t, destReg o.d))

/-- CHBAR (R260, R261): a release at `.pkg`, issued behind the thread's acquires (`Instr.behindAcquires`). The head's completes
at once, where its successor takes the token. -/
def execChbar (o : Opnds) (s : State) : Out :=
  withStop s (fun t _ g x =>
    let s := ((s.releasePkg g.core).pendD t o.d 1).advance t o.len
    let s := s.modChain g.core (fun y => { y with chbars := y.chbars ++ [(t, destReg o.d)] })
    if g.index = x.head ∧ x.closing = [] then (s.stepBar g.core).getD s else s.settleClaim g.core)

/-- Words of an entry size. -/
def chWords (z : ChSize) : Nat :=
  match z with
  | .b32 => 1
  | .b64 => 2
  | .b128 => 4

/-- The access size of an entry size. -/
def chSize (z : ChSize) : Size :=
  match z with
  | .b32 => .b32
  | .b64 => .b64
  | .b128 => .b128

/-- CHSEND (R259, R261): a release at `.pkg`, issued behind the thread's acquires (`Instr.behindAcquires`). -/
def execChsend (z : ChSize) (o : Opnds) (s : State) : Out :=
  withStop s (fun t _ g _ =>
    let (v, s) := s.readData t (chSize z) o.a
    let s := ((s.releasePkg g.core).pendD t o.d 1).advance t o.len
    s.modChain g.core (fun y => { y with
      sends := y.sends ++ [⟨t, destReg o.d, none, some ⟨false, wordsOf v (chWords z)⟩⟩] }))

/-- CHRECV (R257, R259): the entry that its claim finds at issue must be of its kind and size. -/
def execChrecv (z : ChSize) (o : Opnds) (s : State) : Out :=
  withStop s (fun t _ g x =>
    let n := chWords z
    let wrong := match x.claimq, x.mailbox with
      | [], e :: _ => e.carry || e.words.length != n
      | _, _ => false
    if wrong then s.takeTrap t .illegalOperand 0#64
    else
      let s := (s.pendD t o.d n).advance t o.len
      (s.modChain g.core (fun y => { y with
        claims := (y.claims + 1) % 65536, claimq := y.claimq ++ [⟨none, t, destReg o.d, n⟩] })).settleClaim g.core)

end Sys2Proof.Machine
end

