-- ==== Sys2Proof/Machine/Scan.lean ====
section
/-! DEFINITION. The scan engine of a core (R245-R253, R258): descriptors, the combine function, the prefix of a tile, and
SCDESC, SCAN and SCANC. -/
namespace Sys2Proof.Machine

/-! ### Descriptors (R246, R247) -/

/-- A micro-operation. -/
structure Uop where
  op : Nat
  dst : Nat
  s1 : Nat
  s2 : Nat
  s3 : Nat
  ty : Nat
  rest : Nat
  deriving DecidableEq, Repr

/-- The fields of a micro-operation word. -/
def uopOf (w : Nat) : Uop := ⟨bits w 28 4, bits w 24 4, bits w 20 4, bits w 16 4, bits w 12 4, bits w 10 2, bits w 0 10⟩

/-- A descriptor's fields: all eight micro-operation words and all four OUT slots. -/
structure ScanDesc where
  ncomp : Nat
  nuop : Nat
  out : List Nat
  init : List Word
  words : List Nat
  reserved : Nat
  deriving DecidableEq, Repr

/-- The descriptor in 64 bytes. -/
def scanDescOf (b : List Byte) : ScanDesc where
  ncomp := fieldAt b 0 1
  nuop := fieldAt b 1 1
  out := (List.range 4).map (fun j => bits (fieldAt b 2 2) (4 * j) 4)
  init := (List.range 4).map (fun j => BitVec.ofNat 32 (fieldAt b (8 + 4 * j) 4))
  words := (List.range 8).map (fun u => fieldAt b (0x18 + 4 * u) 4)
  reserved := fieldAt b 4 4 + fieldAt b 0x38 8

/-- The micro-operations that run. -/
def ScanDesc.uops (x : ScanDesc) : List Uop := (x.words.take x.nuop).map uopOf

/-- An operation reads S3: FMA and SEL. -/
def Uop.reads3 (u : Uop) : Bool := u.op == 0 || u.op == 5

/-- A slot that may be read, with the temporaries written so far. -/
def slotOk (ncomp : Nat) (written : List Nat) (k : Nat) : Bool :=
  if k < 4 then decide (k < ncomp)
  else if k < 8 then decide (k - 4 < ncomp)
  else if k < 12 then written.contains k
  else decide (k < 14)

/-- A micro-operation is valid, with the temporaries written before it. -/
def Uop.ok (u : Uop) (ncomp : Nat) (written : List Nat) : Bool :=
  decide (u.op ≤ 5) && u.ty != 3 && decide (8 ≤ u.dst) && decide (u.dst ≤ 11) && u.rest == 0 &&
    slotOk ncomp written u.s1 && slotOk ncomp written u.s2 &&
    (if u.reads3 then slotOk ncomp written u.s3 else u.s3 == 0)

/-- Every micro-operation is valid; the answer holds the temporaries written. -/
def uopsOk (ncomp : Nat) : List Nat → List Uop → Bool × List Nat
  | written, [] => (true, written)
  | written, u :: us =>
    if u.ok ncomp written then uopsOk ncomp (u.dst :: written) us else (false, written)

/-- A valid descriptor (R247). -/
def ScanDesc.valid (x : ScanDesc) : Bool :=
  let (ok, written) := uopsOk x.ncomp [] x.uops
  decide (1 ≤ x.ncomp) && decide (x.ncomp ≤ 4) && decide (1 ≤ x.nuop) && decide (x.nuop ≤ 8) && x.reserved == 0 &&
    (x.words.drop x.nuop).all (· == 0) && (x.out.drop x.ncomp).all (· == 0) && ok &&
    (x.out.take x.ncomp).all (slotOk x.ncomp written)

/-! ### Combine (R248) -/

/-- A floating-point micro-operation. -/
def uopFloat (op a b k : Nat) : Nat :=
  let v := fF32.decode
  match op with
  | 0 => fF32.round .rn 0 (Ex.add .rn (Ex.mul (v a) (v b)) (v k))
  | 1 => fF32.round .rn 0 (Ex.add .rn (v a) (v b))
  | 2 => fF32.round .rn 0 (Ex.mul (v a) (v b))
  | 3 => minMax fF32 false false false a b
  | _ => minMax fF32 true false false a b

/-- An integer micro-operation. -/
def uopInt (op : Nat) (signed : Bool) (a b k : Word) : Word :=
  let less := if signed then a.slt b else a.ult b
  match op with
  | 0 => a * b + k
  | 1 => a + b
  | 2 => a * b
  | 3 => if less then a else b
  | _ => if less then b else a

/-- The value in a slot. -/
def slotAt (slots : List Word) (ty k : Nat) : Word :=
  if k = 12 then 0#32
  else if k = 13 then (if ty = 0 then 0x3F800000#32 else 1#32)
  else (slots[k]?).getD 0#32

/-- A micro-operation's result. -/
def Uop.result (u : Uop) (slots : List Word) : Word :=
  let a := slotAt slots u.ty u.s1
  let b := slotAt slots u.ty u.s2
  let k := slotAt slots u.ty u.s3
  if u.op = 5 then (if a ≠ 0#32 then b else k)
  else if u.ty = 0 then BitVec.ofNat 32 (uopFloat u.op a.toNat b.toNat k.toNat)
  else uopInt u.op (u.ty == 1) a b k

/-- Four words of a tuple. -/
def pad4 (x : List Word) : List Word := (List.range 4).map (fun i => (x[i]?).getD 0#32)

/-- combine(x, y), `x` the earlier tuple. -/
def ScanDesc.combine (d : ScanDesc) (x y : List Word) : List Word :=
  let slots := pad4 x ++ pad4 y ++ List.replicate 4 0#32
  let slots := d.uops.foldl (fun sl u => sl.set u.dst (u.result sl)) slots
  let ty := if Config.outOneFloat (d.uops.map (·.ty)) then 0 else 1
  (d.out.take d.ncomp).map (slotAt slots ty)

/-! ### The prefix of a tile (R249) -/

/-- The combines of a tile in order: the position read and the position combined. -/
def sweeps : List (Nat × Nat) :=
  (List.range 8).flatMap (fun d => (List.range (128 / 2 ^ d)).map (fun k =>
    (2 ^ (d + 1) * k + 2 ^ d - 1, 2 ^ (d + 1) * k + 2 ^ (d + 1) - 1))) ++
  [6, 5, 4, 3, 2, 1, 0].flatMap (fun d => (List.range (128 / 2 ^ d - 1)).map (fun k =>
    (2 ^ (d + 1) * (k + 1) - 1, 2 ^ (d + 1) * (k + 1) + 2 ^ d - 1)))

/-- The inclusive prefix; positions past the tile are absent. -/
def ScanDesc.prefixOf (d : ScanDesc) (x : List (List Word)) : List (List Word) :=
  sweeps.foldl (fun x p =>
    match x[p.1]?, x[p.2]? with
    | some a, some b => x.set p.2 (d.combine a b)
    | _, _ => x) x

/-! ### Tiles in scratchpad (R252) -/

/-- The elements of a tile. -/
def Cluster.tileRead (x : Cluster) (a es n ncomp : Nat) : List (List Word) :=
  (List.range n).map (fun i => (List.range ncomp).map (fun j => BitVec.ofNat 32 (x.spadNat (a + 4 * (es * i + j)) 4)))

/-- Elements written in ascending order; the flag says that bytes of armed objects were skipped. -/
def State.tileWrite (s : State) (cl a es : Nat) (x : List (List Word)) : Bool × State :=
  (x.zipIdx).foldl (fun p e =>
    let (hit, s) := p.2.spadPutSkip cl (a + 4 * es * e.2) (e.1.flatMap (fun w => leBytes w.toNat 4))
    (p.1 || hit, s)) (false, s)

/-! ### Issue -/

/-- The scan queue of a core is full (R245). -/
def State.scanFull (s : State) (core : Nat) : Bool := decide (8 ≤ (s.core core).scanq.length)

/-- An operation enters the queue, D pending. -/
def State.queueScan (s : State) (t gk core : Nat) (kind : ScanKind) (bar : Nat) (o : Opnds) : State :=
  let op : ScanOp := ⟨s.nextOp, t, gk, kind, bar, destReg o.d⟩
  (({ s with nextOp := s.nextOp + 1 }.pendD t o.d 1).modCore core (fun x => { x with scanq := x.scanq ++ [op] })).advance
    t o.len

/-- SCDESC (R251): the record is read as a load of the thread. -/
def execScdesc (sp : Bool) (o : Opnds) (s : State) : Out :=
  orderedMem s (fun t th =>
    let core := coreOfThread t
    if s.scanFull core then { s with retry := true }
    else
      match th.group with
      | none => s.takeTrap t .unsupportedOnLc 0#64
      | some gk =>
        let (a, s) := s.read64 t o.a
        let go (s : State) (b : List Byte) : State := s.queueScan t gk core (.desc sp a b) 0 o
        if sp then s.withSpad t a 64 (fun cl off s => go s ((s.cluster cl).spadRead off 64))
        else
          s.withGlobal t (threadReq s t a .read 64 false false) (fun e pa s =>
            if (homeDie pa).isNone then s.parkThread t a th.pc .protection .read (s.dataLevel t a) e
            else
              let (bs, s) := s.coreLoad core pa 64 e false (s.whoOf t)
              go s bs))

/-- The checks of R252 in order, after `bad` of the first: the trap's code and address. -/
def State.scanFault (s : State) (g : Group) (bar : Nat) (a b : DWord) (ctl : Word) (bad : Bool) : Option (Code × DWord) :=
  let n := bits ctl.toNat 0 8 + 1
  let es := bits ctl.toNat 8 8
  let src := a.toNat % 2 ^ 21
  let dst := b.toNat % 2 ^ 21
  let span := 4 * es * n
  let cl := clusterOfCore g.core
  let at_ (x : Option Nat) : Option (Code × DWord) := x.map (fun i => (Code.protection, BitVec.ofNat 64 i))
  [if decide (g.bars.length ≤ bar) || decide (2 ^ 16 ≤ ctl.toNat) || es == 0 || bad then
      some (Code.illegalOperand, 0#64) else none,
    if src % 4 ≠ 0 then some (.misaligned, BitVec.ofNat 64 src) else none,
    if dst % 4 ≠ 0 then some (.misaligned, BitVec.ofNat 64 dst) else none,
    at_ (s.spadOutside g.launch cl src span), at_ (s.spadOutside g.launch cl dst span),
    if src ≠ dst ∧ src < dst + span ∧ dst < src + span then some (.illegalOperand, 0#64) else none,
    (engineBarFault g bar).map (fun c => (c, 0#64))].findSome? id

/-- Issue of SCAN and SCANC, behind the thread's acquires (`Instr.behindAcquires`): `bad` and `kind` from the thread's stop,
then the claim and the send of a SCANC. -/
def issueScan (s : State) (bar : Nat) (o : Opnds) (bad : Group → ChainStop → Bool)
    (kind : (src dst es n : Nat) → ScanKind) (claims sends : Group → ChainStop → Bool) : Out :=
  onThread s (fun t th =>
    match th.group, s.groupOf t with
    | some gk, some g =>
      if s.scanFull g.core then { s with retry := true }
      else
        let (a, s1) := s.read64 t o.a
        let (b, s1) := s1.read64 t o.b
        let (k, s1) := s1.read32 t o.c
        let x := s1.chain g.core
        match s1.scanFault g bar a b k (bad g x) with
        | some (c, va) => s.takeTrap t c va
        | none =>
          let id := s1.nextOp
          let kd := kind (a.toNat % 2 ^ 21) (b.toNat % 2 ^ 21) (bits k.toNat 8 8) (bits k.toNat 0 8 + 1)
          let s2 := (s1.engineBegin gk bar).queueScan t gk g.core kd bar o
          let s3 := s2.modChain g.core (fun y => { y with
            claims := if claims g x then (y.claims + 1) % 65536 else y.claims
            claimq := if claims g x then y.claimq ++ [⟨some id, t, none, 0⟩] else y.claimq
            sends := if sends g x then y.sends ++ [⟨t, none, some id, none⟩] else y.sends })
          if claims g x && x.closing != [] then s3.settleClaim g.core else s3
    | _, _ => s.takeTrap t .unsupportedOnLc 0#64)

/-- SCAN (R252). -/
def execScan (bar : BitVec 6) (o : Opnds) (s : State) : Out :=
  issueScan s bar.toNat o (fun _ _ => false) .scan (fun _ _ => false) (fun _ _ => false)

/-- SCANC (R258): the stop open by the group, `.init` at the head alone, `.wrap` at the tail alone. -/
def execScanc (loc init wrap : Bool) (bar : BitVec 6) (o : Opnds) (s : State) : Out :=
  issueScan s bar.toNat o
    (fun g x => !x.openBy g || (init && g.index != x.head) || (wrap && !x.atTail g.index))
    (fun src dst es n => .scanc loc init wrap src dst es n none none)
    (fun _ _ => !init) (fun g x => wrap || !x.atTail g.index)

/-! ### The engine (R245, R253, R258) -/

/-- The current descriptor of an operation's group, if its elements fit the stride. -/
def State.scanDesc (s : State) (o : ScanOp) (es : Nat) : Option ScanDesc :=
  ((s.group? o.group).bind (·.desc)).bind (fun b =>
    let d := scanDescOf b
    if es < d.ncomp then none else some d)

/-- A SCDESC lands (R251). -/
def State.landDesc (s : State) (core : Nat) (o : ScanOp) (sp : Bool) (addr : DWord) (b : List Byte) : State :=
  let ok := (scanDescOf b).valid
  let at_ : DWord := BitVec.ofNat 64 (addr.toNat - addr.toNat % 64 + (if ok then 2 else 0) + (if sp then 1 else 0))
  (s.modGroup o.group (fun g => { g with desc := if ok then some b else none, descAddr := at_ })).scanLands core o
    (if ok then .ok else .scanDescInvalid)

/-- A tile is written and its operation lands with a code; bytes of armed objects are skipped (R183). -/
def State.landTile (s : State) (core : Nat) (o : ScanOp) (dst es : Nat) (x : List (List Word)) (c : Code) : State :=
  let (hit, s) := s.tileWrite (clusterOfCore core) dst es x
  s.scanLands core o (if c = .ok ∧ hit = true then .barrierClobber else c)

/-- The prefix that a SCANC combines its carry with. R273's variant without `.loc` gives h = 2.0 from t = 513 for a tile whose
prefixed a are all zero, where R248, R249 and R258 leave h at 1.5: the rules' pseudocode is followed. DESIGN CHOICE (log 170). -/
def State.scancTile (s : State) (core : Nat) (d : ScanDesc) (loc : Bool) (src es n : Nat) : List (List Word) :=
  let x := (s.cluster (clusterOfCore core)).tileRead src es n d.ncomp
  if loc then x else d.prefixOf x

/-- A SCANC that has its carry writes its tile once its carry-out has been accepted or refused. -/
def State.scancFinish (s : State) (core : Nat) (o : ScanOp) (dst es : Nat) (tile : List (List Word)) (sent : Option Code) :
    State :=
  if (s.chain core).sends.any (fun x => x.op == some o.id) then s else s.landTile core o dst es tile (sent.getD .ok)

/-- A SCANC takes its carry and forms its prefix, once for the carry-out and for the tile (R258): the carry-out stands in its
send, and claims behind it may be served. -/
def State.scancTake (s : State) (core : Nat) (o : ScanOp) (d : ScanDesc) (loc init wrap : Bool) (src dst es n : Nat)
    (carry : List Word) : State :=
  let p := s.scancTile core d loc src es n
  let out := d.combine carry (p.getLastD [])
  let s := s.modChain core (fun y => { y with sends := y.sends.map (fun (x : ChSend) =>
    if x.op = some o.id then { x with entry := some ⟨true, out⟩ } else x) })
  let s := s.modCore core (fun y => { y with scanq := y.scanq.map (fun (q : ScanOp) =>
    if q.id = o.id then { q with kind := .scanc loc init wrap src dst es n (some (p.map (d.combine carry))) none } else q) })
  (s.settleStop core).scancFinish core o dst es (p.map (d.combine carry)) none

/-- A SCANC without its carry: it takes the descriptor's INIT, or the entry its claim finds (R257, R258, R265). -/
def State.scancStart (s : State) (core : Nat) (o : ScanOp) (d : ScanDesc) (loc init wrap : Bool) (src dst es n : Nat) :
    State :=
  if init then s.scancTake core o d loc init wrap src dst es n (d.init.take d.ncomp)
  else
    let x := s.chain core
    match x.claimq, x.mailbox with
    | q :: qs, e :: ent =>
      if q.op ≠ some o.id then s
      else if e.carry && e.words.length == d.ncomp then
        (s.modChain core (fun y => { y with claimq := qs, mailbox := ent })).scancTake core o d loc init wrap src dst es n
          e.words
      else (s.scanLands core o .scanDescInvalid).settleStop core
    | q :: _, [] => if q.op = some o.id ∧ s.predGone core = true then (s.scanLands core o .chainBroken).settleStop core else s
    | [], _ => s

/-- The operation at the head of a core's queue runs (R245). -/
def State.stepScan (s : State) (core : Nat) : State :=
  match (s.core core).scanq with
  | [] => s
  | o :: _ =>
    match o.kind with
    | .desc sp addr b => s.landDesc core o sp addr b
    | .scan src dst es n =>
      match s.scanDesc o es with
      | none => s.scanLands core o .scanDescInvalid
      | some d =>
        let x := (s.cluster (clusterOfCore core)).tileRead src es n d.ncomp
        s.landTile core o dst es (d.prefixOf x) .ok
    | .scanc loc init wrap src dst es n tile sent =>
      match tile, s.scanDesc o es with
      | some x, _ => s.scancFinish core o dst es x sent
      | none, none => (s.scanLands core o .scanDescInvalid).settleStop core
      | none, some d => s.scancStart core o d loc init wrap src dst es n

/-- SCAN_LANDS: the operation at the head of a core's scan queue runs to its landing, or to where it has to wait. -/
def execScanLands (core : Nat) (s : State) : Out := .next (s.stepScan core)

end Sys2Proof.Machine
end

