-- ==== Sys2Proof/Machine/Spawn.lean ====
section
/-! DEFINITION. SPAWN (R165, R201). -/
namespace Sys2Proof.Machine

/-- A core takes a spawned group now: room, and no fill window (R201, R298). -/
def State.spawnRoom (s : State) (g : Group) (n budget bars : Nat) : Bool :=
  !s.fillWindowHolds g.core && s.coreRoom g.core g.launch n budget bars

/-- The spawned group is placed, stopping with its family if that is being stopped (R165, R172, R201): its key's slot, and the state. -/
def State.placeSpawned (s : State) (g : Group) (entry : DWord) (n budget bars : Nat) : Nat × State :=
  let slot := (s.freeSlot g.core).getD 0
  let x : Group := { g with
    slot := slot, gsize := n, budget := budget, bars := List.replicate bars (Barrier.start n), spawned := true
    desc := none, descAddr := 0#64, ending := false }
  (slot, s.startGroup (groupKey g.core slot) x (entry + 12#64))

/-- d of a placed SPAWN. -/
def spawnWord (slot : Nat) : Word := BitVec.ofNat 32 (slot * 65536)

/-- A launch has begun to fail (R168). -/
def State.launchFailing (s : State) (l : Nat) : Bool :=
  match s.launch? l with
  | some x => match x.state with
    | .failed _ => true
    | .waiting | .queued | .placing | .running | .ended => false
  | none => false

/-- SPAWN once its entry word is read. -/
def spawnEntry (s0 s : State) (t : Nat) (th : Thread) (g : Group) (wait : Bool) (a : DWord) (n : Nat) (e : Entry)
    (o : Opnds) : State :=
  let budget := entryBudget e
  let bars := e.bars.toNat
  let done (s : State) (v : Word) : State := (s.sendResult t (destReg o.d) [v]).advance t o.len
  if !entryShaped e .spawn then s0.takeTrap t .illegalTarget 0#64
  else if e.sup && !th.sup then s0.takeTrap t .privilege 0#64
  else if g.spSize < entrySpad e || !groupFits n budget then s0.takeTrap t .budgetExceeded 0#64
  else if s.launchFailing g.launch then done s (codeWord .futureFailed)
  else if s.spawnRoom g n budget bars then
    let (slot, s) := s.placeSpawned g a n budget bars
    done s (spawnWord slot)
  else if wait then s.modThread t (fun th => { th with status := .spawnWait a n budget bars o.d o.len })
  else done s (codeWord .budgetExceeded)

/-- SPAWN and SPAWN.w (R201). A fetch fault of the entry word parks the thread with a record whose PC is the word being
fetched (R122, R304); replayed, it executes its SPAWN afresh. -/
def spawn (s : State) (wait : Bool) (o : Opnds) : Out :=
  onThread s (fun t th =>
    match s.groupOf t with
    | none => s.takeTrap t .unsupportedOnLc 0#64
    | some g =>
      let (a, s1) := s.read64 t o.a
      let (n, s1) := s1.read32 t o.b
      if a.extractLsb' 0 2 ≠ 0#2 then s.takeTrap t .misaligned 0#64
      else if n = 0#32 ∨ 1024 < n.toNat then s.takeTrap t .illegalOperand 0#64
      else if a.extractLsb' 55 9 ≠ 0#9 then s.takeTrap t .protection 0#64
      else s1.probeWord t a th.sup (fun f s2 =>
        match f with
        | .word w => spawnEntry s s2 t th g wait a n.toNat (Entry.ofNat w.toNat) o
        | .fails va (.fault c l e) => s2.parkThread t va a c .fetch l e
        | .fails _ .mig => s2.parkMig t
        | .fails _ .wait | .fails _ (.ok _ _ _) | .miss _ => { s2 with retry := true }))

/-- SPAWN (R201). -/
def execSpawn (o : Opnds) (s : State) : Out := spawn s false o

/-- SPAWN.w (R201). -/
def execSpawnW (o : Opnds) (s : State) : Out := spawn s true o

/-- SPAWN_W_PLACED: a waiting SPAWN.w finds room (R201). -/
def execSpawnWPlaced (t : Nat) (s : State) : Out :=
  .next (match s.thread? t, s.groupOf t with
    | some th, some g =>
      match th.status with
      | .spawnWait a n budget bars d len =>
        if s.stopping t || !s.spawnRoom g n budget bars then s
        else
          let (slot, s) := s.placeSpawned g a n budget bars
          s.completeWait t d len [spawnWord slot]
      | _ => s
    | _, _ => s)

end Sys2Proof.Machine
end

