-- ==== Sys2Proof/Machine/Place.lean ====
section
/-! DEFINITION. Where groups stand: scratchpad ranges (R163), what leaves a core and a cluster with a group (R166, R174,
R230), and the end of a launch (R167, R168, R353). -/
namespace Sys2Proof.Machine

/-! ### Ranges (R163) -/

/-- The scratchpad range of a launch on a cluster: offset and size. -/
def Launch.range (x : Launch) : Nat × Nat := (x.spbase, x.spslots * x.spad)

/-- The allocation of a group of a launch. -/
def Launch.slotOff (x : Launch) (g : Nat) : Nat := if x.spad = 0 then 0 else x.spbase + x.spad * (g % x.spslots)

/-- A cluster has a launch's range for it: its own already, or overlapping no other launch's. -/
def State.rangeFree (s : State) (cl l : Nat) (x : Launch) : Bool :=
  let (b, n) := x.range
  x.spad == 0 || (s.cluster cl).owners.all (fun o =>
    o.launch == l || decide (b + n ≤ o.base) || decide (o.base + o.size ≤ b))

/-- No resident group of the launch on the cluster holds the allocation at an offset. -/
def State.slotFree (s : State) (cl l : Nat) (x : Launch) (off : Nat) : Bool :=
  x.spad == 0 || s.groups.all (fun g => !(g.2.launch == l && clusterOfCore g.2.core == cl && g.2.spOff == off))

/-- A launch comes to own its range on a cluster: the part writes it to zero. -/
def State.takeRange (s : State) (cl l : Nat) (x : Launch) : State :=
  let (b, n) := x.range
  if x.spad = 0 ∨ (s.cluster cl).owners.any (fun o => o.launch == l) = true then s
  else
    s.modCluster cl (fun y => { y with
      owners := y.owners ++ [⟨l, b, n⟩], spad := y.spad.filter (fun p => !(decide (b ≤ p.1) && decide (p.1 < b + n)))
      armed := y.armed.filter (fun o => !(decide (b ≤ o) && decide (o < b + n)))
      slices := y.slices.filter (fun x => x.started || !(decide (b ≤ x.obj) && decide (x.obj < b + n))) })

/-! ### Leaving -/

/-- A thread's key is free again: nothing of it is left. -/
def State.removeThread (s : State) (t : Nat) : State :=
  match s.thread? t with
  | none => s
  | some th =>
    let s := (((s.discardResults t).modDie (dieOfThread t) (·.detach t)).leaveWalks (.thread t))
    let s := { s with threads := AMap.erase s.threads t }
    match th.status with
    | .barObj off _ _ _ => s.refreshWaiters (clusterOfCore (coreOfThread t)) off
    | _ => s

/-- A launch has left a cluster: its range is free, the slices of phases that can no longer complete are gone, the rows tied
to it are poisoned, its planes are zeroed (R230). While other groups of the launch stay, as they may where one family of it is
stopped and restored, rows and planes stand as they are: R230's bullets differ on that. DESIGN CHOICE (log 169). -/
def State.leaveCluster (s : State) (cl l : Nat) (x : Launch) : State :=
  if s.groups.any (fun g => g.2.launch == l && clusterOfCore g.2.core == cl) then s
  else
    let (b, n) := x.range
    let clear (p : Plane) : Plane := if p.owner = some l then Plane.init else p
    s.modCluster cl (fun y => { y with
      owners := y.owners.filter (fun o => o.launch != l)
      slices := y.slices.filter (fun x => x.started || x.launch != l), stationary := clear y.stationary, shadow := clear y.shadow
      poison := (List.range 1024).foldl (fun acc r =>
        if b ≤ 2048 * r ∧ 2048 * r < b + n then acc ||| (1#1024 <<< r) else acc) y.poison })

/-- A group leaves its core: threads, registers, barrier registers, and with the last of a launch its hold on the core
and the cluster (R166, R174). -/
def State.freeGroup (s : State) (gk : Nat) : State :=
  match s.group? gk with
  | none => s
  | some g =>
    let s := (s.threadsOf gk).foldl State.removeThread s
    let s := { s with groups := AMap.erase s.groups gk }
    let s :=
      if s.groups.any (fun p => p.2.launch == g.launch && p.2.core == g.core) then s
      else s.modCore g.core (fun c => { c with residents := c.residents.filter (fun r => r.launch != g.launch) })
    match s.launch? g.launch with
    | some x => s.leaveCluster (clusterOfCore g.core) g.launch x
    | none => s

/-! ### Bank images (R31, R161) -/

/-- How a read of virtual memory by the part ends: the bytes, the code of a fault, or not yet (an entry under migration, a
die that does not answer). -/
inductive PartGot where
  | bytes (bs : List Byte)
  | fault (c : Code)
  | later
  deriving DecidableEq, Repr

/-- Bytes from a virtual address on, page by page; the fuel counts pages. -/
def State.partGet (s : State) (kind : Access) (va : DWord) (n : Nat) (acc : List Byte) : Nat → PartGot × State
  | 0 => (.bytes acc, s)
  | k + 1 =>
    let m := min n (65536 - va.toNat % 65536)
    if n = 0 then (.bytes acc, s)
    else match s.partXlate va kind with
      | (.ok e _ pa, s) =>
        if (homeDie pa).isNone then (.fault .protection, s)
        else
          let (bs, s) := s.partReadKey (some (pteKey e)) pa m
          s.partGet kind (va + BitVec.ofNat 64 m) (n - m) (acc ++ bs) k
      | (.fault c _ _, s) => (.fault c, s)
      | (.mig, s) | (.wait, s) => (.later, s)

/-- The words of a bank image, keyed as `Resident.banks`. -/
def bankWords (b : Nat) (bs : List Byte) : AMap Word :=
  (List.range 256).filterMap (fun i =>
    let w : Word := BitVec.ofNat 32 (fieldAt bs (4 * i) 4)
    if w = 0#32 then none else some (256 * b + i, w))

/-- The bank images that CBMASK names, read in ascending order: once for a launch, before its first group is placed (R31). -/
def State.loadBanks (s : State) (x : Launch) : Except PartGot (AMap Word) × State :=
  (List.range 16).foldl (fun (p : Except PartGot (AMap Word) × State) b =>
    match p with
    | (.error e, s) => (.error e, s)
    | (.ok m, s) =>
      if !x.cbmask.getLsbD b then (.ok m, s)
      else match s.partGet .read (x.cbaddr + BitVec.ofNat 64 (1024 * b)) 1024 [] 2 with
        | (.bytes bs, s) => (.ok (m ++ bankWords b bs), s)
        | (e, s) => (.error e, s)) (.ok [], s)

/-! ### The end of a launch -/

/-- A launch whose last group has gone ends: its future resolves, and its holdings are dropped (R167, R168, R353). -/
def State.endLaunchIfDone (s : State) (l : Nat) : State :=
  match s.launch? l with
  | none => s
  | some x =>
    let down := s.launchReclaimed l || (match x.state with
      | .failed _ => true
      | .waiting | .queued | .placing | .running | .ended => false)
    let placed := down || x.placed == x.ngroup
    match x.state with
    | .ended | .waiting => s
    | .failed _ | .queued | .placing | .running =>
      if !placed || !s.nothingLeft l x down || (x.placed == 0 && !down) then s
      else
        let c : Code := match x.state with
          | .failed _ => .futureFailed
          | .waiting | .queued | .placing | .running | .ended => .ok
        s.futDo [.resolve x.future c zeroResults, .ended l]

/-- The groups of a family, its root first (R173). -/
def State.familyOf (s : State) (g : Group) : List (Nat × Group) :=
  let fam := s.groups.filter (fun p => p.2.launch == g.launch && p.2.family == g.family)
  fam.filter (fun p => !p.2.spawned) ++ fam.filter (fun p => p.2.spawned)

end Sys2Proof.Machine
end

