-- ==== Sys2Proof/Machine/Stop.lean ====
section
/-! DEFINITION. Stopping a family (R172, R200, R263), its saved images (R173, R264) and their restore (R175, R176). -/
namespace Sys2Proof.Machine

/-! ### Stopping (R172) -/

/-- A set that has not fired is withdrawn: its signers stay at their instruction, to execute it afresh (R200). -/
def State.withdrawGroup (s : State) (gk : Nat) : State :=
  let s := s.modGroup gk (fun g => { g with bars := g.bars.map Barrier.withdraw })
  (s.threadsOf gk).foldl (fun s t => s.modThread t (fun th =>
    match th.status with
    | .signed _ _ => { th with status := .withdrawn }
    | _ => th)) s

/-- A stop of a family begins; a thread of a reclaimed task that it holds exits (R352). -/
def State.beginStop (s : State) (g : Group) (why : StopReason) : State :=
  let fam := s.familyOf g
  let s := fam.foldl (fun s p => (s.modGroup p.1 (fun x => { x with stop := why })).withdrawGroup p.1) s
  (fam.flatMap (fun p => s.threadsOf p.1)).foldl State.reclaimThread s

/-- A request that a group shipped and that has not ended (R166). -/
def State.shipsOpen (s : State) (gk : Nat) : Bool :=
  let mine (r : ShipReq) : Bool := r.group == some gk
  s.shipFlights.any (fun p => mine p.2) || s.shipResults.any (fun x => mine x.req) ||
    s.perches.any (fun p => p.2.queue.any mine || p.2.parkedSenders.any mine || p.2.running.any mine) ||
    s.remotes.any (fun r => match r.kind with
      | .ship q => mine q
      | _ => false)

/-- An engine operation of a group that has not landed (R166). A slice of a CPG whose phase is incomplete is no operation
yet, and holds no retirement. DESIGN CHOICE. -/
def State.enginesOpen (s : State) (gk core : Nat) : Bool :=
  let c := s.cluster (clusterOfCore core)
  c.copyq.any (fun o => o.group == gk) || c.matq.any (fun o => o.group == gk) ||
    c.slices.any (fun x => x.started && x.thread / 1024 == gk) || (s.core core).scanq.any (fun o => o.group == gk)

/-- A request of a thread to another device or to a spine that has no answer yet. -/
def State.asksOpen (s : State) (t : Nat) : Bool :=
  s.remotes.any (fun r => r.thread == t && (match r.kind with
    | .after _ _ | .fwait _ _ _ _ => false
    | _ => true))

/-- A thread of a stopping family stands still: at a boundary that R25 allows, in a wait or parked, with nothing of it on its
way; of one that has exited no result is on its way (R172, R416). -/
def State.threadStill (s : State) (t : Nat) (th : Thread) : Bool :=
  match th.status with
  | .exited => s.landings.all (fun l => l.thread != t) && !s.asksOpen t
  | .asking | .scoreboard _ | .shipWait _ | .shipParked _ => false
  | .ready | .yielded | .walking => settled && !s.midRun t th
  | .withdrawn | .idle | .barReg _ _ _ _ | .barObj _ _ _ _ | .signed _ _ | .fwait _ _ _ _ | .spawnWait _ _ _ _ _ _ | .migParked
  | .faultParked => settled
where
  settled : Bool := th.pending == [] && s.landings.all (fun l => l.thread != t) &&
    (match th.status with
     | .fwait _ _ _ _ => true
     | _ => !s.asksOpen t)

/-- A member's Chain instructions and scans are done (R263). -/
def State.chainStill (s : State) (g : Group) : Bool :=
  let x := s.chain g.core
  x.waiting.all (fun o => !(!g.spawned && o.launch == g.launch && o.index == g.index)) &&
    (!x.openBy g || (x.claimq == [] && x.sends == [] && x.chbars == [] && x.opening == [] && x.closing == []))

/-- A collective that has started on an object of a group's allocation has not landed (R226). -/
def State.collectiveOn (s : State) (g : Group) : Bool :=
  (s.cluster (clusterOfCore g.core)).copyq.any (fun o => match o.kind with
    | .collective obj => decide (g.spOff ≤ obj) && decide (obj < g.spOff + g.spSize)
    | .cp _ _ _ _ _ | .fill _ _ _ _ _ | .tile _ _ _ _ _ _ _ _ _ _ => false)

/-- A stopping family is stopped (R172, R177, R226). -/
def State.familyStill (s : State) (fam : List (Nat × Group)) : Bool :=
  fam.all (fun p =>
    (s.threadsOf p.1).all (fun t => match s.thread? t with
      | some th => s.threadStill t th
      | none => true) &&
    !s.enginesOpen p.1 p.2.core && !s.collectiveOn p.2 && !s.shipsOpen p.1 && s.chainStill p.2 &&
    !(p.2.stop == .preempt && (s.core p.2.core).halted))

/-! ### Images (R173) -/

/-- Zero bytes up to the next multiple of 256. -/
def pad256 (bs : List Byte) : List Byte := bs ++ List.replicate ((256 - bs.length % 256) % 256) 0#8

/-- WAIT of a thread (R173, R200). -/
def Thread.waitWord (th : Thread) : Nat :=
  let tok (b : Bool) : Nat := if b then 2 ^ 26 else 0
  match th.status with
  | .barReg i b _ _ => 2 ^ 28 + tok b + i
  | .barObj off b _ _ => 2 ^ 28 + 2 ^ 27 + tok b + off
  | .fwait _ _ _ _ => 2 * 2 ^ 28
  | .signed _ _ | .withdrawn | .spawnWait _ _ _ _ _ _ | .migParked | .faultParked => 3 * 2 ^ 28
  | .ready | .scoreboard _ | .yielded | .shipWait _ | .shipParked _ | .walking | .asking | .exited | .idle => 0

/-- The bytes of a frame as they stand, if it translates for reading. -/
def State.peekFrame (s : State) (t : Nat) (va : DWord) : Option (List Byte) :=
  match (s.frameReads t va 16).1 with
  | .bytes bs => some bs
  | .fails | .mig | .wait => none

/-- A thread record (R173). -/
def State.threadRecord (s : State) (t : Nat) (core : Nat) (th : Thread) : List Byte :=
  let e (i : Nat) : LoopEntry := loopAt th.loop i
  let four := [0, 1, 2, 3]
  let frame := s.peekFrame t th.ctxbase
  let pstate := (if th.status = .exited then 2 ^ 15 else 0) + (if th.sup then 2 ^ 14 else 0) + 2 ^ 11 * th.depth +
    2 ^ 7 * th.cbank.toNat + th.preds.toNat
  let flags := (if frame.isNone then 2 else 0) + (if th.ctxbase = s.defaultFrame core th.slot then 1 else 0)
  leBytes th.pc.toNat 8 ++ four.flatMap (fun i => leBytes (e i).start.toNat 8) ++
    four.flatMap (fun i => leBytes (e i).last.toNat 8) ++ four.flatMap (fun i => leBytes (e i).count.toNat 4) ++
    leBytes th.seed.toNat 4 ++ leBytes th.shadow.toNat 4 ++ leBytes pstate 4 ++ leBytes th.waitWord 4 ++
    leBytes th.ctxbase.toNat 8 ++ leBytes flags 4 ++ List.replicate 12 0#8 ++
    frame.getD (List.replicate 128 0#8) ++ (List.range th.budget).flatMap (fun i => leBytes (th.reg i).toNat 4)

/-- The kind of a mailbox entry (R264). -/
def ChEntry.kind (e : ChEntry) : Nat := if e.carry then 3 + e.words.length else if e.words.length = 4 then 2 else e.words.length - 1

/-- CHAINSTATE of a group (R264). -/
def State.chainState (s : State) (g : Group) : List Byte :=
  let x := s.chain g.core
  let entry (i : Nat) : List Byte := match x.mailbox[i]? with
    | some e => (pad4 e.words).flatMap (fun w => leBytes w.toNat 4)
    | none => List.replicate 16 0#8
  let kind (i : Nat) : Nat := ((x.mailbox[i]?).map ChEntry.kind).getD 0
  (if x.openBy g then
    entry 0 ++ entry 1 ++ leBytes (x.mailbox.length + 4 * kind 0 + 32 * kind 1) 4 ++
      leBytes (2 ^ 31 + (if x.formed then 2 ^ 30 else 0) + 2 ^ 18 * x.len + 2 ^ 8 * x.head) 4 ++
      leBytes (2 ^ 16 * x.received + x.claims) 4 ++ leBytes x.tokens 4
   else List.replicate 48 0#8) ++ leBytes g.descAddr.toNat 8 ++ List.replicate 8 0#8

/-- The image of a group (R173). A thread that has still to fetch and check the target of a branch is saved at the branch:
its record has no place for the checks that are due. DESIGN CHOICE (log 140). -/
def State.groupImage (s : State) (gk : Nat) (g : Group) (more : Bool) : List Byte :=
  match s.launch? g.launch with
  | none => []
  | some x =>
    let sp := if g.spawned then 0 else g.spSize
    let origin := (if more then 2 ^ 18 else 0) + (if g.spawned then 2 ^ 17 else 0) +
      (if x.chain && !g.spawned then 2 ^ 16 else 0) + g.core
    let bars := (List.range 64).flatMap (fun i => match g.bars[i]? with
      | some b => leBytes (b.word0 false).toNat 4 ++ leBytes b.status.toNat 4
      | none => List.replicate 8 0#8)
    let header := leBytes x.ident.toNat 4 ++ leBytes g.index 4 ++ leBytes x.future.toNat 8 ++ leBytes g.gsize 2 ++
      leBytes (g.budget / 16 - 1) 1 ++ leBytes g.bars.length 1 ++ leBytes g.spOff 4 ++ leBytes sp 4 ++ leBytes origin 4 ++
      leBytes x.prio 4 ++ List.replicate 28 0#8 ++ bars ++ s.chainState g
    let recs := (List.range g.gsize).flatMap (fun i => match s.thread? (threadKey gk i) with
      | some th => s.threadRecord (threadKey gk i) g.core th.uncalled
      | none => [])
    pad256 (pad256 (header ++ recs) ++ (if sp = 0 then [] else (s.cluster (clusterOfCore g.core)).spadRead g.spOff sp))

/-- The images of a family, one after another. -/
def State.familyImage (s : State) : List (Nat × Group) → List Byte
  | [] => []
  | p :: ps => s.groupImage p.1 p.2 (ps != []) ++ s.familyImage ps

/-- Bytes that a family's images take. -/
def familySize (fam : List (Nat × Group)) : Nat :=
  let up (n : Nat) : Nat := (n + 255) / 256 * 256
  (fam.map (fun p =>
    let n := up (640 + p.2.gsize * (256 + 4 * p.2.budget))
    if p.2.spawned then n else up (n + p.2.spSize))).sum

/-- Bytes written page by page at a virtual address by the part; the fuel counts pages. -/
def State.partPutPages (s : State) (va : DWord) (bs : List Byte) : Nat → State
  | 0 => s
  | k + 1 =>
    if bs = [] then s
    else
      let m := 65536 - va.toNat % 65536
      (s.partPutVa va (bs.take m)).partPutPages (va + BitVec.ofNat 64 m) (bs.drop m) k

/-! ### The end of a stop -/

/-- A saved member's stop stays held; its mailbox is in the image (R263). -/
def State.holdStop (s : State) (g : Group) : State :=
  if (s.chain g.core).openBy g then
    s.modChain g.core (fun y => { y with saved := y.mailbox.length, mailbox := [] })
  else s

/-- A launch keeps, for a group that is saved, the offsets of the armed objects in its allocation, which its image does not
tell from other bytes. -/
def State.keepObjects (s : State) (g : Group) : State :=
  if g.spawned then s
  else
    let armed := (s.cluster (clusterOfCore g.core)).armed.filter (fun o =>
      decide (g.spOff ≤ o) && decide (o < g.spOff + g.spSize))
    s.modLaunch g.launch (fun x => { x with
      objs := if armed = [] then AMap.erase x.objs g.index else AMap.set x.objs g.index armed })

/-- A stopped family: its stores are performed and its images made; then it leaves the part. -/
def State.saveFamily (s : State) (fam : List (Nat × Group)) : List Byte × State :=
  let s := fam.foldl (fun s p => s.withdrawGroup p.1) s
  let s := fam.foldl (fun s p => ((s.settleCore p.2.core).wcSendIf p.2.core (fun _ => true)).ackAll (fun f => f.core == p.2.core)) s
  let bs := s.familyImage fam
  (bs, fam.foldl (fun s p => ((s.keepObjects p.2).holdStop p.2).freeGroup p.1) s)

/-- FAMILY_STOPPED: the images of a stopped family are written where its stop wants them, and the family leaves the part
(R172-R174, R334). A reclaimed or failed one is not kept (R351). -/
def execFamilyStopped (gk : Nat) (s : State) : Out :=
  .next (match s.group? gk with
    | none => s
    | some g =>
      let fam := s.familyOf g
      let down := s.launchReclaimed g.launch || s.launchFailing g.launch
      if g.stop = .running ∨ s.familyStill fam = false then s
      else
        match g.stop, s.launch? g.launch with
        | .save t d addr, some _ =>
          let (bs, s) := s.saveFamily fam
          let s := s.partPutPages addr bs (bs.length / 65536 + 2)
          let s := if down then s else s.modLaunch g.launch (fun x => { x with savedOut := x.savedOut + 1 })
          (s.deliverCode t (destReg d) .ok).endLaunchIfDone g.launch
        | .preempt, some x =>
          let (bs, s) := s.saveFamily fam
          let v : SavedFamily := ⟨g.launch, x.prio, x.admitted, g.core, x.chain && fam.any (fun p => !p.2.spawned), bs⟩
          if down then s.endLaunchIfDone g.launch else s.modDie (dieOfCore g.core) (fun d => { d with saved := d.saved ++ [v] })
        | _, _ => s)

/-! ### Restoring (R175) -/

/-- An image in bytes: header with records, and the scratchpad. -/
structure Image where
  bytes : List Byte
  spad : List Byte
  deriving DecidableEq, Repr

/-- A field of an image. -/
def Image.at_ (x : Image) (off n : Nat) : Nat := fieldAt x.bytes off n
/-- GSIZE. -/
def Image.gsize (x : Image) : Nat := x.at_ 0x10 2
/-- The register budget. -/
def Image.budget (x : Image) : Nat := 16 * (x.at_ 0x12 1 + 1)
/-- BARS. -/
def Image.nbars (x : Image) : Nat := x.at_ 0x13 1
/-- More images follow. -/
def Image.more (x : Image) : Bool := bits (x.at_ 0x1C 4) 18 1 == 1
/-- The group was spawned. -/
def Image.spawned (x : Image) : Bool := bits (x.at_ 0x1C 4) 17 1 == 1
/-- The group is a Chain member. -/
def Image.member (x : Image) : Bool := bits (x.at_ 0x1C 4) 16 1 == 1
/-- Where the record of a thread begins. -/
def Image.recAt (x : Image) (t : Nat) : Nat := 640 + t * (256 + 4 * x.budget)

/-- Bytes of header and records that a header announces; none for a GSIZE or budget out of range. -/
def headerSize (h : List Byte) : Option Nat :=
  let n := fieldAt h 0x10 2
  let b := fieldAt h 0x12 1
  if n = 0 ∨ 1024 < n ∨ 14 < b then none else some (640 + n * (256 + 64 * (b + 1)))

/-- A thread record in range (R173). -/
def Image.recordOk (x : Image) (t : Nat) : Bool :=
  let r := x.recAt t
  let ps := x.at_ (r + 0x60) 4
  let w := x.at_ (r + 0x64) 4
  let kind := w / 2 ^ 28
  decide (ps < 2 ^ 16) && decide (bits ps 11 3 ≤ 4) && decide (kind ≤ 3) && (kind != 1 || bits w 21 5 == 0) &&
    (kind != 1 || bits w 27 1 == 1 || decide (w % 2 ^ 21 < x.nbars)) && (kind == 1 || w % 2 ^ 28 == 0) &&
    decide (x.at_ (r + 0x70) 4 < 4) && x.at_ (r + 0x74) 12 == 0

/-- CHAINSTATE in range (R264). -/
def Image.chainOk (x : Image) : Bool :=
  let mb := x.at_ (0x240 + 0x20) 4
  let st := x.at_ (0x240 + 0x24) 4
  decide (mb < 256) && decide (mb % 4 ≤ 2) && bits mb 2 3 != 3 && bits mb 5 3 != 3 && bits st 29 1 == 0 &&
    bits st 0 8 == 0 && decide (x.at_ (0x240 + 0x2C) 4 < 256) && bits (x.at_ (0x240 + 0x30) 8) 2 4 == 0 &&
    x.at_ (0x240 + 0x38) 8 == 0

/-- An image's STATUS is OK, its reserved bits are zero and its fields in range (R175 check 3). A BARRIERS entry at an index at
or above BARS has to be zero: R173 and R175 call it neither reserved nor out of range. DESIGN CHOICE (log 161). -/
def Image.ok (x : Image) : Bool :=
  let sp := x.at_ 0x18 4
  x.at_ 0x24 4 == 0 && x.at_ 0x28 24 == 0 && decide (x.nbars ≤ 64) && decide (x.at_ 0x14 4 < 2 ^ 21) &&
    x.at_ 0x14 4 % 256 == 0 && sp % 256 == 0 && decide (sp ≤ 2 ^ 21) && decide (x.at_ 0x1C 4 < 2 ^ 19) &&
    bits (x.at_ 0x1C 4) 10 6 == 0 && decide (x.at_ 0x20 4 < 32) && x.chainOk &&
    (List.range 64).all (fun i =>
      let w := x.at_ (0x40 + 8 * i) 4
      decide (w < 2 ^ 23) && (decide (i < x.nbars) || x.at_ (0x40 + 8 * i) 8 == 0)) &&
    (List.range x.gsize).all x.recordOk

/-- The images of a family cut from their bytes; none where a header is out of range. -/
def imagesOf (bs : List Byte) : Nat → Option (List Image)
  | 0 => none
  | k + 1 =>
    match headerSize bs with
    | none => none
    | some n =>
      let up (n : Nat) : Nat := (n + 255) / 256 * 256
      let x : Image := ⟨bs.take n, []⟩
      let sp := x.at_ 0x18 4
      let x := { x with spad := if sp = 0 then [] else (bs.drop (up n)).take sp }
      let size := if sp = 0 then up n else up (up n + sp)
      if x.more then (imagesOf (bs.drop size) k).map (x :: ·) else some [x]

/-- The images belong together: the root, then spawned groups of the same launch. A family whose root has retired has no image
of it, and no scratchpad bytes. DEDUCED. -/
def familyOk (l : List Image) : Bool :=
  match l with
  | [] => false
  | r :: rs => (!r.spawned || r.at_ 0x18 4 == 0) && l.all Image.ok && rs.all (fun x => x.spawned && x.at_ 0 4 == r.at_ 0 4 && x.at_ 0x18 4 == 0)

/-- The entries that an image holds of a mailbox. -/
def Image.mailbox (x : Image) : List ChEntry :=
  let st := x.at_ (0x240 + 0x20) 4
  (List.range (st % 4)).map (fun i =>
    let kind := bits st (2 + 3 * i) 3
    let n := if 4 ≤ kind then kind - 3 else 2 ^ kind
    ⟨decide (4 ≤ kind), (List.range n).map (fun j => BitVec.ofNat 32 (x.at_ (0x240 + 16 * i + 4 * j) 4))⟩)

/-- A restored member's stop: the saved entries stand ahead of those that arrived (R263). A stop that is no longer held
opens again as the image says. -/
def State.restoreStop (s : State) (g : Group) (x : Image) : State :=
  let st := x.at_ (0x240 + 0x24) 4
  let ord := x.at_ (0x240 + 0x28) 4
  if st < 2 ^ 31 ∨ g.spawned = true then s
  else if (s.chain g.core).openBy g then
    s.modChain g.core (fun y => { y with mailbox := x.mailbox ++ y.mailbox, saved := 0 })
  else if (s.chain g.core).owner.isSome then s
  else
    s.modChain g.core (fun y => { y with
      owner := some (g.launch, g.index), head := bits st 8 10, len := bits st 18 11, formed := bits st 30 1 == 1
      mailbox := x.mailbox, saved := 0, received := ord / 65536, claims := ord % 65536
      tokens := x.at_ (0x240 + 0x2C) 4 })

/-- The descriptor of a restored group is read again from its address (R264). Where its page does not translate, or the read
is denied, the group is without a descriptor and nothing faults: R264 does not say what becomes of it. DESIGN CHOICE (log 168). -/
def State.restoreDesc (s : State) (gk : Nat) (g : Group) (x : Image) : State :=
  let a : DWord := BitVec.ofNat 64 (x.at_ (0x240 + 0x30) 8)
  let at_ : DWord := BitVec.ofNat 64 (a.toNat - a.toNat % 64)
  if a.getLsbD 1 then
    let (bs, s) :=
      if a.getLsbD 0 then (some ((s.cluster (clusterOfCore g.core)).spadRead (at_.toNat % 2 ^ 21) 64), s)
      else match s.partXlate at_ .read with
        | (.ok e _ pa, s) =>
          if (homeDie pa).isSome then
            let (b, s) := s.partReadKey (some (pteKey e)) pa 64
            (some b, s)
          else (none, s)
        | (_, s) => (none, s)
    s.modGroup gk (fun y => { y with desc := bs.filter (fun b => (scanDescOf b).valid), descAddr := a })
  else s.modGroup gk (fun y => { y with descAddr := a })

/-- D and the length of the wait word at a PC, read afresh (R200). Where it can be fetched or decoded no more: no D, one
word. DESIGN CHOICE. -/
def State.waitWordAt (s : State) (t : Nat) (th : Thread) : Dest × Nat :=
  match (s.fetchWord true (coreOfThread t) th.pc th.sup).1 with
  | .word w => match decode (th.ctx t) w (some 0#64) with
    | .ok d => match d.instr.opnds with
      | some o => (o.d, o.len)
      | none => (.none, 12)
    | .bad _ => (.none, 12)
  | .fails _ _ | .miss _ => (.none, 12)

/-- A restored thread waits again on its barrier: released at once where the phase has moved on; a barrier with
EXPECTED 0 traps it (R200). -/
def State.rewait (s : State) (t : Nat) (th : Thread) (gk cl w : Nat) : State :=
  let tok := bits w 26 1 == 1
  let (d, len) := s.waitWordAt t th
  let r : BarRef := if bits w 27 1 = 1 then .obj cl (w % 2 ^ 21) else .reg gk (w % 64)
  let b := s.barrier r
  if b.expected = 0#11 then s.takeTrap t .barrierOverrun 0#64
  else if b.phase ≠ tok then (s.clockClus (coreOfThread t)).completeWait t d len [b.status]
  else
    s.modThread t (fun th => { th with
      status := if bits w 27 1 = 1 then .barObj (w % 2 ^ 21) tok d len else .barReg (w % 64) tok d len })

/-- A thread restored from its record (R175), its wait apart. TRAPPC, TRAPVA and TRAPCODE come from FPC, VA and CODE of its
FRAME, and its later stores are taken as releases of a fence that it may have executed. DEDUCED: the record names neither. -/
def State.restoreThread (s : State) (gk : Nat) (g : Group) (x : Image) (i : Nat) : State :=
  let r := x.recAt i
  let slot := (s.freeThreadSlots g.core (lanePos i)).headD 0
  let frame := s.defaultFrame g.core slot
  let ps := x.at_ (r + 0x60) 4
  let w := x.at_ (r + 0x64) 4
  let flags := x.at_ (r + 0x70) 4
  let t := threadKey gk i
  let ctx : DWord := if flags % 2 = 1 then frame else BitVec.ofNat 64 (x.at_ (r + 0x68) 8)
  let entry (k : Nat) : LoopEntry :=
    ⟨BitVec.ofNat 64 (x.at_ (r + 0x08 + 8 * k) 8), BitVec.ofNat 64 (x.at_ (r + 0x28 + 8 * k) 8),
      BitVec.ofNat 32 (x.at_ (r + 0x48 + 4 * k) 4)⟩
  let th := Thread.start (some gk) i slot g.budget (BitVec.ofNat 64 (x.at_ r 8)) (BitVec.ofNat 32 (x.at_ (r + 0x58) 4))
    (bits ps 14 1 == 1) ctx
  let th := { th.setRegs 0 ((List.range g.budget).map (fun k => BitVec.ofNat 32 (x.at_ (r + 0x100 + 4 * k) 4))) with
    loop := (List.range 4).map entry, depth := bits ps 11 3, cbank := BitVec.ofNat 4 (bits ps 7 4)
    preds := BitVec.ofNat 7 ps, shadow := BitVec.ofNat 32 (x.at_ (r + 0x5C) 4)
    fwaiting := w / 2 ^ 28 == 2, fenced := true, status := if bits ps 15 1 = 1 then .exited else .ready
    trapPc := BitVec.ofNat 64 (x.at_ (r + 0x88) 8), trapVa := BitVec.ofNat 64 (x.at_ (r + 0x98) 8)
    trapCode := BitVec.ofNat 32 (x.at_ (r + 0xA0) 4) }
  let s := s.setThread t th
  if bits flags 1 1 = 1 then s
  else s.frameWrites t ctx ((List.range 16).map (fun k => BitVec.ofNat 64 (x.at_ (r + 0x80 + 8 * k) 8)))

/-- The waits of a restored group's threads resume. -/
def State.resumeWaits (s : State) (gk : Nat) (g : Group) (x : Image) : State :=
  (List.range x.gsize).foldl (fun s i =>
    let t := threadKey gk i
    let w := x.at_ (x.recAt i + 0x64) 4
    match s.thread? t with
    | some th => if th.status = .ready ∧ w / 2 ^ 28 = 1 then s.rewait t th gk (clusterOfCore g.core) w else s
    | none => s) s

/-- The group that an image describes, on a core. -/
def Image.group (x : Image) (l : Nat) (y : Launch) (core slot family : Nat) : Group where
  launch := l
  core := core
  slot := slot
  index := x.at_ 4 4
  gsize := x.gsize
  budget := x.budget
  bars := (List.range x.nbars).map (fun i =>
    let w := x.at_ (0x40 + 8 * i) 4
    ⟨BitVec.ofNat 11 w, BitVec.ofNat 11 (w / 2 ^ 11), bits w 22 1 == 1, BitVec.ofNat 32 (x.at_ (0x44 + 8 * i) 4), 0, [], 0,
      none⟩)
  spOff := x.at_ 0x14 4
  spSize := y.spad
  family := family
  spawned := x.spawned
  prio := y.prio
  age := 0
  desc := none
  descAddr := 0#64
  stop := .running
  ending := false

/-- The scratchpad of a restored family (R175): the objects that were armed in its allocation when it was saved are armed
where the image still says so, with ENGPEND 0, WAITERS afresh. -/
def State.restoreSpad (s : State) (cl off : Nat) (objs : List Nat) (bs : List Byte) : State :=
  let s := s.spadWrite cl off bs
  let mine (o : Nat) : Bool := decide (off ≤ o) && decide (o + 16 ≤ off + bs.length)
  let armed := objs.filter (fun o => mine o && bits ((s.cluster cl).spadNat o 4) 31 1 == 1)
  armed.foldl (fun s o => s.spadWrite cl (o + 8) (List.replicate 8 0#8))
    (s.modCluster cl (fun y => { y with armed := y.armed.filter (fun o => !mine o) ++ armed }))

/-- One group placed from its image, if the core has room. -/
def State.restoreGroup (s : State) (core l : Nat) (y : Launch) (family : Nat) (banks : AMap Word) (x : Image) :
    Option (Nat × State) :=
  if !groupFits x.gsize x.budget || !s.coreRoom core l x.gsize x.budget x.nbars then none
  else
    let slot := (s.freeSlot core).getD 0
    let gk := groupKey core slot
    let g := x.group l y core slot family
    let s := { s with nextAge := s.nextAge + 1 }.setGroup gk { g with age := s.nextAge }
    let s := s.addResident core l banks
    some (gk, (List.range g.gsize).foldl (fun s i => s.restoreThread gk g x i) s)

/-- The groups of a family placed one after another, all or none. -/
def State.restoreGroups (s : State) (core l : Nat) (y : Launch) (family : Nat) (banks : AMap Word) :
    List Image → Option (List (Nat × Image) × State)
  | [] => some ([], s)
  | x :: xs =>
    match s.restoreGroup core l y family banks x with
    | none => none
    | some (gk, s) => (s.restoreGroups core l y family banks xs).map (fun p => ((gk, x) :: p.1, p.2))

/-- The launch that an image names. -/
def State.launchNamed (s : State) (x : Image) : Option (Nat × Launch) :=
  s.launches.find? (fun p => decide (p.1 < 2 ^ 32) && p.2.ident.toNat == x.at_ 0 4 && p.2.future.toNat == x.at_ 8 8)

/-- Waits resume, stops and descriptors come back, and the objects' WAITERS are set afresh (R175, R200, R264). -/
def State.settleRestored (s : State) (cl : Nat) (l : List (Nat × Image)) : State :=
  let s := l.foldl (fun s p => match s.group? p.1 with
    | some g => ((s.restoreStop g p.2).restoreDesc p.1 g p.2).resumeWaits p.1 g p.2
    | none => s) s
  (s.cluster cl).armed.foldl (fun s off => s.refreshWaiters cl off) s

/-- A family restored from its images onto a core: the checks 3 to 6 of R175, then the restore. -/
def State.restoreFamily (s : State) (core : Nat) (l : List Image) : Code × State :=
  match l with
  | [] => (.illegalOperand, s)
  | r :: _ =>
    let cl := clusterOfCore core
    if !familyOk l then (.illegalOperand, s)
    else match s.launchNamed r with
      | none => if r.member && bits (r.at_ 0x1C 4) 0 10 != core then (.chainBroken, s) else (.futureFailed, s)
      | some (k, y) =>
        if (r.spawned = false ∧ r.at_ 0x18 4 ≠ y.spad) ∨ r.at_ 0x14 4 ≠ y.slotOff (r.at_ 4 4) then (.illegalOperand, s)
        else if r.member && bits (r.at_ 0x1C 4) 0 10 != core then (.chainBroken, s)
        else if s.launchReclaimed k || s.launchFailing k || decide (y.state = .ended) then (.futureFailed, s)
        else if s.fillWindowHolds core || !s.rangeFree cl k y || !s.slotFree cl k y (r.at_ 0x14 4) then
          (.budgetExceeded, s)
        else
          let s1 := (s.takeRange cl k y).restoreSpad cl (r.at_ 0x14 4) (AMap.getD y.objs (r.at_ 4 4) []) r.spad
          match s1.restoreGroups core k y s1.nextAge y.banks l with
          | none => (.budgetExceeded, s)
          | some (placed, s1) => (.ok, (s1.settleRestored cl placed).clockPkg core)

end Sys2Proof.Machine
end

