-- ==== Sys2Proof/Machine/Supervisor.lean ====
section
/-! DEFINITION. Class 0xC: return from traps (R171), fault records (R306), translations (R301), fill windows (R298),
saved contexts (R174, R175), and the debug halt (R177). -/
namespace Sys2Proof.Machine

/-- The release that several of these begin with; D then receives a code, and the thread issues on. -/
def State.finishCode (s : State) (t : Nat) (o : Opnds) (c : Code) : State :=
  (s.sendResult t (destReg o.d) [codeWord c]).advance t o.len

/-! ### TRET (R171) -/

/-- TRET (R171). -/
def execTret (_ : Opnds) (s : State) : Out := onThread s (fun t _ => s.trapReturn t false)

/-- TRET.fatal (R171). -/
def execTretFatal (_ : Opnds) (s : State) : Out := onThread s (fun t _ => s.trapReturn t true)

/-! ### FREPLAY and FCANCEL (R306) -/

/-- A parked thread may issue again; a section that parked before its entry is checked afresh. -/
def State.unpark (s : State) (t : Nat) : State :=
  if isPerchCtx t && !(s.perch ((t - lcThreadBase) / 4)).entered then
    s.modThread t (fun th => { th.resume with status := .idle })
  else s.modThread t Thread.resume

/-- An attached party resumes: a thread from translation, an engine operation at its unit. -/
def State.replayParty (s : State) (a : Attachment) : State :=
  match a.party with
  | .thread t => if (s.thread? t).any (fun th => th.status == .faultParked) then s.unpark t else s
  | .copy cl op => s.modCluster cl (fun c =>
      { c with copyq := c.copyq.map (fun o => if o.id = op then { o with parked := false } else o) })
  | .matrix cl op => s.modCluster cl (fun c =>
      { c with matq := c.matq.map (fun o => if o.id = op then { o with parked := false } else o) })

/-- An attached party ends with the record's code. -/
def State.cancelParty (s : State) (a : Attachment) : State :=
  match a.party with
  | .thread t =>
    if threadOnLC t && !isPerchCtx t then s.fatalThread t a.va a.pc a.code a.kind a.level a.entry else s.endFatal t a.code
  | .copy _ _ | .matrix _ _ => s.endParked a

/-- A waiting record is consumed. -/
def State.consumeRecord (s : State) (d : Nat) (cancel : Bool) (i : Nat) : State :=
  let mine := (s.die d).attached.filter (fun a => a.index == some i)
  let s := (s.fqWrite d (64 + 64 * i + 0x30) (leBytes 0 4)).modDie d (fun x => { x with
    records := x.records.filter (fun r => r.index != i), attached := x.attached.filter (fun a => a.index != some i) })
  mine.foldl (fun s a => if cancel then s.cancelParty a else s.replayParty a) s

/-- Records consumed, oldest first; then those that found the queue full are written. -/
def State.consumeRecords (s : State) (d : Nat) (cancel : Bool) (l : List Nat) : State :=
  (l.foldl (fun s i => s.consumeRecord d cancel i) s).settleFaults d

/-- FREPLAY and FCANCEL of one record. -/
def consumeOne (s : State) (cancel : Bool) (o : Opnds) : Out :=
  onThread s (fun t _ =>
    let (a, s1) := s.read32 t o.a
    let d := dieOfThread t
    if a.extractLsb' 10 22 ≠ 0#22 then s.takeTrap t .illegalOperand 0#64
    else
      let s := s1.releasePkg (coreOfThread t)
      if (s.die d).records.any (fun r => r.index == a.toNat) then
        (s.consumeRecords d cancel [a.toNat]).finishCode t o .ok
      else s.finishCode t o .illegalOperand)

/-- FREPLAY.all and FCANCEL.all. -/
def consumeAll (s : State) (cancel : Bool) (o : Opnds) : Out :=
  onThread s (fun t _ =>
    let d := dieOfThread t
    let s := s.releasePkg (coreOfThread t)
    (s.consumeRecords d cancel ((s.die d).records.map (·.index))).finishCode t o .ok)

/-- FREPLAY (R306). -/
def execFreplay (o : Opnds) (s : State) : Out := consumeOne s false o
/-- FREPLAY.all (R306). -/
def execFreplayAll (o : Opnds) (s : State) : Out := consumeAll s false o
/-- FCANCEL (R306). -/
def execFcancel (o : Opnds) (s : State) : Out := consumeOne s true o
/-- FCANCEL.all (R306). -/
def execFcancelAll (o : Opnds) (s : State) : Out := consumeAll s true o

/-! ### TLBINV (R301) -/

/-- Every entry of every buffer. -/
def State.allTlb (s : State) : List TlbEntry :=
  s.cores.flatMap (fun c => c.2.itlb ++ c.2.vtlb) ++ s.clusters.flatMap (fun c => c.2.ctlb ++ c.2.mtlb)

/-- Threads whose walks parked on entries under migration walk afresh (R300). -/
def State.restartWalks (s : State) : State :=
  let s := { s with
    clusters := s.clusters.map (fun c => (c.1, { c.2 with walkq := c.2.walkq.filter (fun k => !k.parked) })), walked := [] }
  (AMap.keys (s.threads.filter (fun p => p.2.status == .migParked))).foldl State.unpark s

/-- Stores translated by dropped entries are performed. -/
def State.performAll (s : State) : State :=
  ((AMap.keys s.cores).foldl (fun s c => s.wcSendIf c (fun _ => true)) s).ackAll (fun _ => true)

/-- A request of some thread to another device's memory has no answer yet. -/
def State.remoteBusy (s : State) : Bool :=
  s.remotes.any (fun r => match r.kind with
    | .load _ _ _ _ | .store | .atom _ _ _ _ | .gather _ _ _ _ => true
    | _ => false)

/-- TLBINV, its release made first, also where it then traps (R301), drops the entries that `p` names and the L1 lines of their frames, those of private pages always. DEDUCED:
lines beyond the named ones are written back and dropped too, which no access can tell. -/
def tlbinv (s : State) (t : Nat) (o : Opnds) (p : TlbEntry → Bool) (root : State → State) : State :=
  let s := s.releasePkg (coreOfThread t)
  let gone := s.allTlb.filter p
  let aper := gone.any (fun x => match placeOf (pteFrame x.entry) with
    | .aperture _ => true
    | .hbm _ | .ws _ | .pcb | .unbacked => false)
  if aper && s.remoteBusy then { s with retry := true }
  else
    let s := s.performAll.dropTlb p
    let inFrame (x : TlbEntry) (ln : Nat) : Bool :=
      decide (pteFrame x.entry ≤ 128 * ln) && decide (128 * ln < pteFrame x.entry + leafSize x.level)
    let s := s.l1FlushIf (fun ln l => l.owned || gone.any (fun x => inFrame x ln))
    ((root s).restartWalks.retryOutside).finishCode t o .ok

/-- TLBINV (R301). -/
def execTlbinv (o : Opnds) (s : State) : Out :=
  onThread s (fun t _ =>
    let (a, s1) := s.read64 t o.a
    if a.extractLsb' 55 9 ≠ 0#9 then (s.releasePkg (coreOfThread t)).takeTrap t .protection a
    else tlbinv s1 t o (fun x => x.covers a) (fun s => s))

/-- TLBINV.all (R301). -/
def execTlbinvAll (o : Opnds) (s : State) : Out := onThread s (fun t _ => tlbinv s t o (fun _ => true) (fun s => s))

/-- TLBINV.root (R280, R301): a range of a failed die is no package memory (R369, R370). -/
def execTlbinvRoot (o : Opnds) (s : State) : Out :=
  onThread s (fun t _ =>
    let (a, s1) := s.read64 t o.a
    if a.extractLsb' 0 16 ≠ 0#16 then (s.releasePkg (coreOfThread t)).takeTrap t .misaligned a
    else if (homeDie a.toNat).isNone || !s.backed a.toNat then (s.releasePkg (coreOfThread t)).takeTrap t .illegalOperand 0#64
    else tlbinv s1 t o (fun _ => true) (fun s => { s with root := some a.toNat }))

/-! ### Fill windows (R297, R298) -/

/-- The operand of WSOPEN and WSCLOSE. -/
def onDie (s : State) (o : Opnds) (f : Nat → Nat → State → State) : Out :=
  onThread s (fun t _ =>
    let (a, s1) := s.read32 t o.a
    if a.extractLsb' 2 30 ≠ 0#30 then s.takeTrap t .illegalOperand 0#64 else f t a.toNat s1)

/-- WSOPEN (R298): D is pending until the window opens. -/
def execWsopen (o : Opnds) (s : State) : Out :=
  onDie s o (fun t d s =>
    if (s.die d).window = .open then s.finishCode t o .ok
    else
      let s := s.modDie d (fun x => { x with window := .opening, windowWaits := x.windowWaits ++ [(t, o.d)] })
      (s.pendD t o.d 1).advance t o.len)

/-- WS_WINDOW_OPEN: no group is resident on the die any more, and its window opens (R298). -/
def execWsWindowOpen (die : Nat) (s : State) : Out :=
  .next (
    let ws := (s.die die).windowWaits
    if ws = [] ∨ s.groups.any (fun g => dieOfCore g.2.core == die) = true then s
    else
      let s := s.modDie die (fun x => { x with window := .open, windowWaits := [] })
      ws.foldl (fun s w => s.deliverCode w.1 (destReg w.2) .ok) s)

/-- A line of a die's weight store. -/
def wsLineOf (d ln : Nat) : Bool :=
  match placeOf (128 * ln) with
  | .ws k => k == d
  | .hbm _ | .pcb | .aperture _ | .unbacked => false

/-- WSCLOSE (R298). -/
def execWsclose (o : Opnds) (s : State) : Out :=
  onDie s o (fun t d s =>
    let s := s.releasePkg (coreOfThread t)
    if (s.die d).window = .closed then s.finishCode t o .ok
    else
      let s := (AMap.keys s.cores).foldl (fun s c => s.wcSendIf c (fun e => wsLineOf d e.line)) s
      let s := s.l1FlushIf (fun ln _ => wsLineOf d ln)
      (s.modDie d (fun x => { x with window := .closed })).finishCode t o .ok)

/-! ### Saved contexts (R174, R175) -/

/-- A stretch of virtual addresses that a thread's access must reach, page by page; the fuel counts pages. -/
def State.checkArea (s : State) (t : Nat) (th : Thread) (va : DWord) (n : Nat) (k : State → State) : Nat → State
  | 0 => k s
  | f + 1 =>
    if n = 0 then k s
    else
      let m := min n (65536 - va.toNat % 65536)
      s.withGlobal t (threadReq s t va .write 0 false false) (fun e pa s =>
        if (homeDie pa).isNone then s.parkThread t va th.pc .protection .write (s.dataLevel t va) e
        else s.checkArea t th (va + BitVec.ofNat 64 m) (n - m) k f)

/-- Bytes of a stretch of virtual addresses, page by page. -/
def State.readArea (s : State) (t : Nat) (th : Thread) (va : DWord) (n : Nat) (acc : List Byte)
    (k : List Byte → State → State) : Nat → State
  | 0 => k acc s
  | f + 1 =>
    if n = 0 then k acc s
    else
      let m := min n (65536 - va.toNat % 65536)
      s.withGlobal t (threadReq s t va .read 0 false false) (fun e pa s =>
        if (homeDie pa).isNone then s.parkThread t va th.pc .protection .read (s.dataLevel t va) e
        else
          let (bs, s) := s.partReadKey (some (pteKey e)) pa m
          s.readArea t th (va + BitVec.ofNat 64 m) (n - m) (acc ++ bs) k f)

/-- The images of a family read from an address on: as many as they announce; none where a header is out of range. -/
def State.readFamily (s : State) (t : Nat) (th : Thread) (va : DWord) (acc : List Image)
    (k : Option (List Image) → State → State) : Nat → State
  | 0 => k none s
  | f + 1 =>
    s.readArea t th va 640 [] (fun h s =>
      match headerSize h with
      | none => k none s
      | some n =>
        let sp := fieldAt h 0x18 4
        let up (n : Nat) : Nat := (n + 255) / 256 * 256
        if 2 ^ 21 < sp then k none s
        else
          let size := if sp = 0 then up n else up (up n + sp)
          s.readArea t th va size [] (fun bs s =>
            let x : Image := ⟨bs.take n, if sp = 0 then [] else (bs.drop (up n)).take sp⟩
            if x.more then s.readFamily t th (va + BitVec.ofNat 64 size) (acc ++ [x]) k f else k (some (acc ++ [x])) s)
          (size / 65536 + 2)) 2

/-- The code of a waiting fault record on which an engine operation of a family is parked. -/
def State.familyParked (s : State) (fam : List (Nat × Group)) : Option Code :=
  let mine (a : Attachment) : Bool :=
    match a.party with
    | .thread _ => false
    | .copy cl op => (s.cluster cl).copyq.any (fun o => o.id == op && (fam.any (fun p => p.1 == o.group) ||
        (match o.kind with
         | .collective obj => (s.cluster cl).slices.any (fun x =>
             x.started && x.obj == obj && fam.any (fun p => p.1 == x.thread / 1024))
         | .cp _ _ _ _ _ | .fill _ _ _ _ _ | .tile _ _ _ _ _ _ _ _ _ _ => false)))
    | .matrix cl op => (s.cluster cl).matq.any (fun o => o.id == op && fam.any (fun p => p.1 == o.group))
  ((s.dies.flatMap (fun d => d.2.attached)).find? mine).map (·.code)

/-- Slices stand recorded, not started, on an object in a family's allocation (R226). -/
def State.slicesRecorded (s : State) (g : Group) : Bool :=
  (s.cluster (clusterOfCore g.core)).slices.any (fun x =>
    !x.started && decide (g.spOff ≤ x.obj) && decide (x.obj < g.spOff + g.spSize))

/-- CTXSAVE (R174). -/
def execCtxsave (o : Opnds) (s : State) : Out :=
  onThread s (fun t th =>
    let (a, s1) := s.read64 t o.a
    let (b, s1) := s1.read32 t o.b
    let gk := groupKey (256 * dieOfThread t + bits b.toNat 0 8) (bits b.toNat 8 6)
    if a.extractLsb' 0 8 ≠ 0#8 then s.takeTrap t .misaligned a
    else if b.extractLsb' 14 18 ≠ 0#18 then s.takeTrap t .illegalOperand 0#64
    else match s.group? gk with
      | none => s.takeTrap t .illegalOperand 0#64
      | some g =>
        let fam := s.familyOf g
        if (s.groupOf t).any (fun m => m.launch == g.launch && m.family == g.family) then s.takeTrap t .illegalOperand 0#64
        else if s.slicesRecorded g then s.takeTrap t .barrierOverrun 0#64
        else
          s1.checkArea t th a (familySize fam) (fun s =>
            match s.familyParked fam with
            | some c => s.finishCode t o c
            | none =>
              if g.stop ≠ .running then s.finishCode t o .illegalOperand -- by the dispatcher (R174); by a CTXSAVE, DESIGN CHOICE
              else ((s.pendD t o.d 1).beginStop g (.save t o.d a)).advance t o.len) (familySize fam / 65536 + 2))

/-- CTXLOAD (R175). -/
def execCtxload (o : Opnds) (s : State) : Out :=
  onThread s (fun t th =>
    let (a, s1) := s.read64 t o.a
    let (b, s1) := s1.read32 t o.b
    let core := 256 * dieOfThread t + b.toNat
    if a.extractLsb' 0 8 ≠ 0#8 then s.takeTrap t .misaligned a
    else if b.extractLsb' 8 24 ≠ 0#24 then s.takeTrap t .illegalOperand 0#64
    else
      (s1.wcSendIf (coreOfThread t) (fun _ => true)).readFamily t th a [] (fun l s =>
        match l with
        | none => s.finishCode t o .illegalOperand
        | some l =>
          match s.restoreFamily core l, l.head?.bind s.launchNamed with
          | (.ok, s), some (k, _) =>
            (s.modLaunch k (fun x => { x with savedOut := x.savedOut - 1 })).finishCode t o .ok
          | (c, s), _ => s.finishCode t o c) 65)

/-! ### The debug halt (R177, R178) -/

/-- A halted core has nothing left but engine operations parked on faults: its HALTs' D lands. -/
def State.haltReady (s : State) (core : Nat) : Bool :=
  let cl := s.cluster (clusterOfCore core)
  let parkedObj (obj : Nat) : Bool := cl.copyq.any (fun q => q.parked && q.kind == .collective obj)
  (s.core core).halted && s.storesDone core && (s.core core).scanq.isEmpty &&
    cl.copyq.all (fun q => q.core != core || q.parked) && cl.matq.all (fun q => q.core != core || q.parked) &&
    cl.slices.all (fun x => !(x.started && x.core == core) || parkedObj x.obj) &&
    (s.threadsOnCore core).all (fun p => !((p.2.status == .ready || p.2.status == .walking) && s.midRun p.1 p.2))

/-- The HALTs of a core that wait receive CORESTAT. -/
def State.deliverHalts (s : State) (core : Nat) : State :=
  let hs := (s.core core).halts
  let v := s.corestat core
  hs.foldl (fun s h => match destReg h.2 with
    | some r => s.deliver h.1 r [v]
    | none => s) (s.modCore core (fun c => { c with halts := [] }))

/-- The sets of a core that have not fired are withdrawn (R200). -/
def State.withdrawCore (s : State) (core : Nat) : State :=
  (s.groupsOnCore core).foldl (fun s p => s.withdrawGroup p.1) s

/-- The HALTs of a core are looked at. A set that was signed in a run of latch readers is withdrawn too. -/
def State.settleHalts (s : State) (core : Nat) : State :=
  if (s.core core).halts ≠ [] ∧ s.haltReady core = true then (s.withdrawCore core).deliverHalts core else s

/-- The operand of HALT. The issuing thread's own core is refused of a resume too: the rule names a halt alone, and a thread
that issues is on no halted core. DESIGN CHOICE. -/
def onCoreOperand (s : State) (o : Opnds) (f : Nat → Nat → State → State) : Out :=
  onThread s (fun t _ =>
    let (a, s1) := s.read32 t o.a
    let core := 256 * dieOfThread t + a.toNat
    if a.extractLsb' 8 24 ≠ 0#24 ∨ core = coreOfThread t then s.takeTrap t .illegalOperand 0#64 else f t core s1)

/-- HALT (R177): the core's threads stop at their boundaries, unfired sets are withdrawn (R200); a stopped thread whose task
is reclaimed exits (R352). -/
def execHalt (o : Opnds) (s : State) : Out :=
  onCoreOperand s o (fun t core s =>
    let s := s.modCore core (fun c => { c with halted := true, halts := c.halts ++ [(t, o.d)] })
    let s := s.withdrawCore core
    let s := ((s.threadsOnCore core).map (·.1)).foldl State.reclaimThread s
    ((s.pendD t o.d 1).settleHalts core).advance t o.len)

/-- HALT.resume (R177). -/
def execHaltResume (o : Opnds) (s : State) : Out :=
  onCoreOperand s o (fun t core s =>
    let was := (s.core core).halted
    let s := s.modCore core (fun c => { c with halted := false })
    let s := if was then ((s.threadsOnCore core).map (·.1)).foldl State.unhalt s else s
    ((s.deliverHalts core).sendResult t (destReg o.d) [s.corestat core]).advance t o.len)

end Sys2Proof.Machine
end

