-- ==== Sys2Proof/Machine/Dispatcher.lean ====
section
/-! DEFINITION. A die's dispatcher (R162-R168, R329-R334): the checks of a launch record, placement, pre-emption, and
the retirement of groups. -/
namespace Sys2Proof.Machine

/-! ### Chain positions (R254) -/

/-- The core at a Chain position 0-1,023. -/
def coreAtPos (p : Nat) : Nat :=
  let q := p % 256
  let y := q / 32
  let x := q / 4 % 8
  256 * (p / 256) + 4 * (8 * y + if y % 2 = 0 then x else 7 - x) + q % 4

/-- The cores of a segment: the first `n` live positions from a start on; none if the segment passes die 3
position 255. -/
def State.segment (s : State) (start n : Nat) : Option (List Nat) :=
  let l := (((List.range (1024 - start)).map (fun i => coreAtPos (start + i))).filter (fun c => !s.coreFused c)).take n
  if l.length = n then some l else none

/-! ### The checks of a record (R162) -/

/-- Check 2: fields out of range. -/
def State.recordBad (s : State) (x : Launch) : Bool :=
  let slots := if x.spad = 0 then 0 else x.spslots
  x.reserved || x.gsize == 0 || decide (1024 < x.gsize) || x.ngroup == 0 || decide (2 ^ 24 < x.ngroup) ||
    x.spad % 256 != 0 || (x.spad != 0 && (x.spslots == 0 || decide (8192 < x.spslots))) || decide (64 < x.bars) ||
    x.cbaddr.extractLsb' 0 6 != 0#6 || decide (2 ^ 21 < x.spbase + slots * x.spad) ||
    (if x.chain then
      x.chReserved || x.chlen == 0 || decide (1024 < x.chlen) || x.ngroup != x.chlen || (s.segment x.chstart x.chlen).isNone
     else x.clmask == 0#64 || x.diemask == 0#4)

/-- What the checks of a record find: a code, none while a page under migration or a die keeps them from ending; the entry
word's budget and the constant banks of a record that passes. -/
structure Checked where
  code : Option Code
  budget : Nat
  banks : AMap Word
  deriving DecidableEq, Repr

/-- The checks end without a launch. -/
def Checked.refused (c : Option Code) : Checked := ⟨c, 0, []⟩

/-- The checks of a record in their order. -/
def State.checkRecord (s : State) (x : Launch) : Checked × State :=
  if x.signature ≠ 0#64 ∧ x.signature ≠ s.pcb.defsig then (.refused (some .variantNone), s)
  else if s.recordBad x then (.refused (some .illegalOperand), s)
  else match s.partGet .fetch x.entry 12 [] 2 with
    | (.later, s) => (.refused none, s)
    | (.fault c, s) => (.refused (some c), s)
    | (.bytes bs, s) =>
      let e := Entry.ofNat (leNat bs)
      if x.entry.extractLsb' 0 2 ≠ 0#2 ∨ entryOk e .kernel = false then (.refused (some .illegalTarget), s)
      else if e.sup then (.refused (some .privilege), s)
      else if x.spad < entrySpad e ∨ x.bars < e.bars.toNat ∨ groupFits x.gsize (entryBudget e) = false then
        (.refused (some .budgetExceeded), s)
      else match s.loadBanks x with
        | (.ok m, s) => (⟨some .ok, entryBudget e, m⟩, s)
        | (.error (.fault c), s) => (.refused (some c), s)
        | (.error _, s) => (.refused none, s)

/-- A launch whose record has passed its checks. -/
def Launch.passed (x : Launch) (k : Checked) : Launch :=
  { x with checked := true, budget := k.budget, banks := k.banks, state := .placing }

/-- The launch at the head of a level's queue of a die. -/
def State.headOf (s : State) (die level : Nat) : Option (Nat × Launch) :=
  match AMap.getD (s.die die).queues level [] with
  | [] => none
  | l :: _ => (s.launch? l).map (fun x => (l, x))

/-- DISPATCH_HEAD: the launch at the head of a queue has its record checked; a refused one leaves the queue, and its
future resolves with the code (R47, R162, R331). -/
def execDispatchHead (die : Nat) (level : Nat) (s : State) : Out :=
  .next (match s.headOf die level with
    | none => s
    | some (l, x) =>
      if x.checked || !s.dieUp die then s
      else
        let (k, s) := s.checkRecord x
        match k.code with
        | none => s
        | some .ok => s.modLaunch l (·.passed k)
        | some c => (((s.unqueue l).futDo [.resolve x.future c zeroResults, .ended l])).retryAdmissions)

/-! ### Candidates for room (R332) -/

/-- What waits for room: a saved family of a die, or a front launch. -/
inductive Waiting where
  | saved (die : Nat) (v : SavedFamily)
  | front (die : Nat) (l : Nat)
  deriving DecidableEq, Repr

/-- A candidate: level, admission order, saved families first, die; a front launch whose record is still to be checked is not
ready. -/
structure Claimant where
  prio : Nat
  admitted : Nat
  kind : Nat
  die : Nat
  what : Waiting
  launch : Nat
  cores : List Nat
  ready : Bool
  /-- the cores of a chain, which are taken together; 0 for anything else -/
  chainLen : Nat
  deriving DecidableEq, Repr

/-- The cores that a launch's record permits (R161, R164). -/
def State.permitted (s : State) (x : Launch) : List Nat :=
  if x.chain then (s.segment x.chstart x.chlen).getD []
  else (List.range 1024).filter (fun c =>
    x.diemask.getLsbD (c / 256) && x.clmask.getLsbD (c / 4 % 64) && s.coreLive c)

/-- The order in which room is offered. -/
def Claimant.before (a b : Claimant) : Bool :=
  decide (a.prio < b.prio) || (a.prio == b.prio && (decide (a.admitted < b.admitted) ||
    (a.admitted == b.admitted && (decide (a.kind < b.kind) || (a.kind == b.kind && decide (a.die < b.die))))))

/-- Everything that waits for room in the package, on dies in service. -/
def State.claimants (s : State) : List Claimant :=
  (s.dies.filter (fun d => s.dieUp d.1)).flatMap (fun d =>
    d.2.saved.filterMap (fun v => (s.launch? v.launch).map (fun x =>
      ⟨v.prio, v.admitted, 0, d.1, .saved d.1 v, v.launch,
        if v.chainMember then [v.core] else v.core :: (s.permitted x).filter (· != v.core), true, 0⟩)) ++
    (List.range 32).filterMap (fun p => match s.headOf d.1 p with
      | some (l, x) => some ⟨p, x.admitted, 1, d.1, .front d.1 l, l, s.permitted x, x.checked, if x.chain then x.ngroup else 0⟩
      | none => none))

/-! ### Placement (R160, R163, R164) -/

/-- A core takes a group of a launch now. -/
def State.takesGroup (s : State) (l : Nat) (x : Launch) (g core : Nat) : Bool :=
  let cl := clusterOfCore core
  s.coreRoom core l x.gsize x.budget x.bars && !s.fillWindowHolds core && s.rangeFree cl l x && s.slotFree cl l x (x.slotOff g)

/-- Members of a chain that share a cluster have allocations apart (R163). -/
def Launch.slotsApart (x : Launch) (cores : List Nat) : Bool :=
  x.spad == 0 || decide ((cores.zipIdx.map (fun p => (clusterOfCore p.1, x.slotOff p.2))).Nodup)

/-- A group placed (R31, R163, R350): its threads may issue, after everything that the launch's creation follows. -/
def State.placeOne (s : State) (l : Nat) (x : Launch) (g core : Nat) : State :=
  let slot := (s.freeSlot core).getD 0
  let s := (s.takeRange (clusterOfCore core) l x).addResident core l x.banks
  let y : Group := {
    launch := l, core := core, slot := slot, index := g, gsize := x.gsize, budget := x.budget
    bars := List.replicate x.bars (Barrier.start x.gsize), spOff := x.slotOff g, spSize := x.spad, family := s.nextAge
    spawned := false, prio := x.prio, age := 0, desc := none, descAddr := 0#64, stop := .running, ending := false }
  let s := ((s.startGroup (groupKey core slot) y (x.entry + 12#64)).clockPkg core).acquireSys core
  let s := s.modLaunch l (fun z => { z with placed := g + 1, state := .running })
  s.modFut x.future (fun f =>
    if f.launch = some l ∧ (f.state = .queued ∨ f.state = .waiting) then { f with state := .running } else f)

/-- A launch whose groups are all placed leaves its queue; another may enter the ring (R330, R332). -/
def State.leaveQueue (s : State) (l : Nat) : State :=
  match s.launch? l with
  | some x => if x.placed = x.ngroup then (s.unqueue l).retryAdmissions else s
  | none => s

/-- A front launch placed on cores it may use: the next group on one with room, which the part chooses; a chain whole. -/
def State.placeFront (s : State) (l : Nat) (usable : List Nat) : Option State :=
  match s.launch? l with
  | none => none
  | some x =>
    if x.chain then
      let seg := s.permitted x
      if seg.length = x.ngroup ∧ x.slotsApart seg = true ∧
          seg.zipIdx.all (fun p => usable.contains p.1 && s.takesGroup l x p.2 p.1) = true then
        some ((seg.zipIdx.foldl (fun s p => s.placeOne l x p.2 p.1) s).leaveQueue l)
      else none
    else
      let cs := usable.filter (s.takesGroup l x x.placed)
      if cs = [] then none
      else
        let (i, s) := s.choose cs.length
        some ((s.placeOne l x x.placed (cs.getD i 0)).leaveQueue l)

/-- A saved family restored on the first core that takes it; one that can no longer be restored is given up. -/
def State.placeSaved (s : State) (die : Nat) (v : SavedFamily) : List Nat → Option State
  | [] => none
  | c :: cs =>
    let drop (s : State) : State := s.modDie die (fun d => { d with saved := d.saved.erase v })
    match s.restoreFamily c ((imagesOf v.image 65).getD []) with
    | (.ok, s) => some (drop s)
    | (.budgetExceeded, _) => s.placeSaved die v cs
    | (_, _) => some ((drop s).endLaunchIfDone v.launch)

/-- A candidate placed on cores it may use. -/
def State.placeClaimant (s : State) (a : Claimant) (usable : List Nat) : Option State :=
  match a.what with
  | .saved die v => s.placeSaved die v (a.cores.filter usable.contains)
  | .front _ l => if a.ready then s.placeFront l usable else none

/-- A candidate could be placed on the cores that its record permits. -/
def State.placeable (s : State) (b : Claimant) : Bool := (s.placeClaimant b b.cores).isSome

/-- A candidate that is offered the room of `mine` takes a core's, or may take it once its record is checked (R332). A chain takes
its cores together. -/
def State.takesRoom (s : State) (b : Claimant) (mine : List Nat) (c : Nat) : Bool :=
  mine.contains c &&
    (!b.ready || (s.placeClaimant b [c]).isSome || (decide (1 < b.chainLen) && (s.placeClaimant b mine).isSome))

/-- A candidate that is offered the room of `mine` keeps a core from a later one: of a more urgent front launch all that its
record permits, for a front launch (R332); of a candidate of the most urgent level that still waits for stops all of them, for
one of another level (R333); else those whose room it takes. -/
def State.keeps (s : State) (all : List Claimant) (b : Claimant) (mine : List Nat) (a : Claimant) (c : Nat) : Bool :=
  (b.cores.contains c && decide (b.prio < a.prio) &&
    ((b.kind == 1 && a.kind == 1) || (all.all (fun x => decide (b.prio ≤ x.prio)) && !s.placeable b))) ||
    s.takesRoom b mine c

/-- Candidates in the order in which room is offered. -/
def inOrder (l : List Claimant) : List Claimant :=
  l.foldl (fun acc x => acc.takeWhile (fun y => y.before x) ++ x :: acc.dropWhile (fun y => y.before x)) []

/-- The cores that each candidate of an ordered list may use, after those of `done`: none that an earlier one keeps. -/
def State.shares (s : State) (all : List Claimant) (done : List (Claimant × List Nat)) : List Claimant →
    List (Claimant × List Nat)
  | [] => done
  | a :: rest =>
    s.shares all (done ++ [(a, a.cores.filter (fun c => !done.any (fun p => s.keeps all p.1 p.2 a c)))]) rest

/-- The cores a candidate may use: none that one offered room earlier keeps (R332-R334). -/
def State.usableCores (s : State) (all : List Claimant) (a : Claimant) : List Nat :=
  (((s.shares all [] (inOrder all)).find? (fun p => p.1 == a)).map (·.2)).getD []

/-- The candidates of a level on a die, in the order they are served. -/
def levelOf (all : List Claimant) (die level : Nat) : List Claimant :=
  inOrder (all.filter (fun a => a.die == die && a.prio == level))

/-- The first of some candidates that finds room. -/
def State.placeFirst (s : State) (all : List Claimant) : List Claimant → Option State
  | [] => none
  | a :: l =>
    match s.placeClaimant a (s.usableCores all a) with
    | some s => some s
    | none => s.placeFirst all l

/-- PLACE_GROUP: a saved family or a group of the front launch of a level finds room (R164, R332, R334). -/
def execPlaceGroup (die : Nat) (level : Nat) (s : State) : Out :=
  .next (
    let all := s.claimants
    if !s.dieUp die then s else (s.placeFirst all (levelOf all die level)).getD s)

/-! ### Pre-emption (R334) -/

/-- A member whose predecessor in the open segment is saved (R263). -/
def State.predSaved (s : State) (g : Group) : Bool :=
  let x := s.chain g.core
  x.openBy g && x.formed && (match x.pred with
    | some m => match s.stopOf m with
      | some c => !(s.groups.any (fun p => p.2.core == c && !p.2.spawned && p.2.launch == m.1 && p.2.index == m.2))
      | none => false
    | none => false)

/-- A family that the dispatcher may stop for a level (R226, R263, R305, R334). -/
def State.mayPreempt (s : State) (level : Nat) (g : Group) : Bool :=
  let fam := s.familyOf g
  decide (level < g.prio) && g.stop == .running && !s.launchGone g.launch && !(s.core g.core).halted &&
    fam.all (fun p => !s.slicesRecorded p.2 && (p.2.spawned || !s.predSaved p.2)) && (s.familyParked fam).isNone

/-- The victim on some cores: of the least urgent families the one placed last, a group of it that is resident, its root retired
or not. -/
def State.victim (s : State) (level : Nat) (cores : List Nat) : Option Group :=
  let better (a b : Group) : Bool := decide (b.prio < a.prio) || (a.prio == b.prio && decide (b.family < a.family))
  let l := (s.groups.map (·.2)).filter (fun g => cores.contains g.core && s.mayPreempt level g)
  match l with
  | [] => none
  | x :: xs => some (xs.foldl (fun b y => if better y b then y else b) x)

/-- The family that some candidate's room asks to stop next: the first candidate, in the order they are served, that finds no
room on any core its record permits, while none there is stopping already. -/
def State.nextVictim (s : State) (level : Nat) : List Claimant → Option Group
  | [] => none
  | a :: l =>
    let busy := s.groups.any (fun p => a.cores.contains p.2.core && p.2.stop == .preempt)
    if !a.ready || busy || s.placeable a then s.nextVictim level l
    else match s.victim level a.cores with
      | some g => some g
      | none => s.nextVictim level l

/-- PREEMPT: for a candidate of a level that finds no room a less urgent family on a core its record permits begins to stop
(R172, R333, R334). -/
def execPreempt (die : Nat) (level : Nat) (s : State) : Out :=
  .next (
    let all := s.claimants
    if !s.dieUp die then s
    else match s.nextVictim level (levelOf all die level) with
      | some g => s.beginStop g .preempt
      | none => s)

/-! ### Retirement (R166) -/

/-- Stores of a group's threads are performed. -/
def State.performGroup (s : State) (gk core : Nat) : State :=
  (s.wcSendIf core (fun e => e.owners.any (fun t => t / 1024 == gk))).ackAll (fun f => f.thread / 1024 == gk)

/-- Every thread of a group has exited. -/
def State.groupExited (s : State) (gk : Nat) : Bool :=
  (s.threadsOf gk).all (fun t => (s.thread? t).all (fun th => th.status == .exited))

/-- A group has nothing outstanding: its threads have exited, and what they issued has landed. -/
def State.groupDone (s : State) (gk : Nat) (g : Group) : Bool :=
  s.groupExited gk && (s.threadsOf gk).all (fun t => !s.asksOpen t && s.landings.all (fun l => l.gid.isNone || l.thread != t)) &&
    !s.enginesOpen gk g.core && !s.shipsOpen gk

/-- The Chain stop of a retiring member closes first, and its waiting CHOPENs go (R255, R256). -/
def State.closeFor (s : State) (g : Group) : State :=
  let x := s.chain g.core
  let s :=
    if g.spawned then s
    else s.modChain g.core (fun y => { y with
      waiting := y.waiting.filter (fun o => !(o.launch == g.launch && o.index == g.index)) })
  if x.openBy g && x.closing == [] then s.beginClose g.core (0, none) else s

/-- A retired or lost group leaves; a CTXSAVE of a family with no group left is told so (R174). -/
def State.dropGroup (s : State) (gk : Nat) (g : Group) : State :=
  let s := s.freeGroup gk
  match g.stop with
  | .save t d _ => if (s.familyOf g).isEmpty then s.deliverCode t (destReg d) .illegalOperand else s
  | .running | .preempt => s

/-- GROUP_RETIRE: with its last thread exited a member's stop closes (R256), and once all it issued has landed
the group retires; with its launch's last one the launch completes, or its failure or reclamation ends (R166-R168,
R353). -/
def execGroupRetire (group : Nat) (s : State) : Out :=
  .next (match s.group? group with
    | none => s
    | some g =>
      if !s.groupExited group then s
      else
        let s := s.closeFor g
        if !s.groupDone group g || (s.chain g.core).openBy g then s
        else ((((s.performGroup group g.core).dropGroup group g).endLaunchIfDone g.launch).retryAdmissions).serveOpens g.core)

end Sys2Proof.Machine
end

