-- ==== Sys2Proof/Machine/Defects.lean ====
section
/-! DEFINITION. Units lost in service (R45, R265, R368, R369, R419): the defect map and its signature, cores, clusters,
die links and dies. -/
namespace Sys2Proof.Machine

/-! ### The defect map (R45) -/

/-- Bytes of a bit field, the lowest bit first. -/
def bitBytes (n : Nat) (f : Nat → Bool) : List Byte :=
  (List.range n).map (fun i => BitVec.ofNat 8 ((List.range 8).foldl (fun acc j => if f (8 * i + j) then acc + 2 ^ j else acc) 0))

/-- The 4,136 bytes of one die. -/
def State.dieMap (s : State) (d : Nat) : List Byte :=
  bitBytes 8 (fun n => s.clusterOff.getLsbD (64 * d + n)) ++ bitBytes 32 (fun n => s.coreOff.getLsbD (256 * d + n)) ++
    (List.range 256).flatMap (fun c => leBytes (AMap.getD s.laneOff (256 * d + c) 0#128).toNat 16)

/-- The defect map, 16,544 bytes. -/
def State.defectMap (s : State) : List Byte := [0, 1, 2, 3].flatMap s.dieMap

/-- The signature of a defect map; 0 is given as 1. -/
def defectSignature (m : List Byte) : DWord :=
  let v : DWord := BitVec.ofNat 64 (leNat (shake256 m 8))
  if v = 0#64 then 1#64 else v

/-- The map is written, then its signature (R395). -/
def State.publishDefects (s : State) : State :=
  let m := s.defectMap
  let s := s.partWrite s.pcb.defmap.toNat m
  { s with pcb := { s.pcb with defsig := defectSignature m } }

/-! ### Losing cores (R265, R419) -/

/-- A core loses what it holds: lines it owns dirty stand, entries of its write-combining buffer may or may not be
performed, its scans end, its stop is gone. -/
def State.clearCore (s : State) (core : Nat) : State :=
  let s := (AMap.keys (s.core core).l1).foldl (fun s ln => s.l1Evict core ln) s
  let s := (s.core core).wc.foldl (fun s _ =>
    let (k, s) := s.choose 2
    if k = 0 then s.wcSend core 0 else s.modCore core (fun c => { c with wc := c.wc.drop 1 })) s
  (s.deliverHalts core).modCore core (fun c => { c with
    wc := [], scanq := [], chain := ChainStop.init, itlb := [], vtlb := [], residents := [], halted := false, busy := []
    icache := [], bankq := [] })

/-- The engines of a lost cluster end their operations without landing them. -/
def State.clearCluster (s : State) (cl : Nat) : State :=
  s.modCluster cl (fun c => { c with copyq := [], matq := [], slices := [], walkq := [], ctlb := [], mtlb := [] })

/-- A group is lost with its core: what it shipped runs on for nobody. -/
def State.loseGroup (s : State) (gk : Nat) (g : Group) : State :=
  let clear (r : ShipReq) : ShipReq := if r.group = some gk then { r with group := none } else r
  let s := { s with
    shipFlights := s.shipFlights.map (fun (p : Nat × ShipReq) => (p.1, clear p.2))
    shipResults := s.shipResults.map (fun (x : ShipResult) => { x with req := clear x.req })
    perches := s.perches.map (fun (p : Nat × Perch) => (p.1, { p.2 with
      queue := p.2.queue.map clear, parkedSenders := p.2.parkedSenders.map clear, running := p.2.running.map clear }))
    remotes := s.remotes.map (fun (r : Remote) => if r.thread / 1024 = gk then { r with kind := r.kind.orphan, thread := 2 ^ 40 } else r)
    clusters := s.clusters.map (fun (p : Nat × Cluster) => (p.1, { p.2 with
      slices := p.2.slices.filter (fun (x : CpgSlice) => x.started || x.thread / 1024 != gk) })) }
  s.dropGroup gk g

/-- The record of a loss: FATAL, with the launch's fields and the lost unit in WHERE (R419). -/
def lossRecord (x : Launch) (core slot : Nat) (location agent : Nat) : Attachment where
  party := .thread (groupKey core slot * 1024)
  index := none
  fatal := true
  va := 0#64
  pc := 0#64
  code := if x.chain then .chainBroken else .futureFailed
  kind := .read
  agent := agent
  level := 0
  location := location
  launch := x.ident
  slot := BitVec.ofNat 32 (slot * 65536)
  future := x.future
  entry := 0#64

/-- Launches with a saved member whose core is among some: it can be restored on no other, and its segment breaks (R263,
R265). -/
def State.savedMembers (s : State) (cores : List Nat) : List Nat :=
  (s.cores.filter (fun p => cores.contains p.1)).filterMap (fun p => p.2.chain.owner.map (·.1)) ++
    s.dies.flatMap (fun d => (d.2.saved.filter (fun v => v.chainMember && cores.contains v.core)).map (·.launch))

/-- The groups on some cores are lost; every launch with a lost group or a saved member of them fails, once its record is
written (R265, R419). -/
def State.loseCores (s : State) (cores : List Nat) (die location agent : Nat) : State :=
  let lost := s.groups.filter (fun p => cores.contains p.2.core)
  let ls := (lost.map (fun p => p.2.launch) ++ s.savedMembers cores).eraseDups
  let s := ls.foldl (fun s l =>
    match s.launch? l, lost.find? (fun p => p.2.launch == l) with
    | some x, some p => s.fileFault die (lossRecord x p.2.core p.2.slot location agent)
    | some x, none => s.fileFault die (lossRecord x (cores.headD 0) 0 location agent)
    | none, _ => s) s
  let s := lost.foldl (fun s p => s.loseGroup p.1 p.2) s
  let s := cores.foldl State.clearCore s
  ls.foldl (fun s l =>
    match s.launch? l with
    | some x => (s.failLaunch l (if x.chain then .chainBroken else .futureFailed)).endLaunchIfDone l
    | none => s) s

/-- CORE_FUSED_OFF: a core, or its whole cluster, is fused off in service (R45, R419). -/
def execCoreFusedOff (core : Nat) (cluster : Bool) (s : State) : Out :=
  .next (
    if isLC core then s
    else
      let cl := core / 4
      let d := core / 256
      if cluster then
        let s := { s with clusterOff := s.clusterOff ||| (1#256 <<< cl) }
        let s := (s.loseCores [4 * cl, 4 * cl + 1, 4 * cl + 2, 4 * cl + 3] d (whereOfCluster cl) 3).clearCluster cl
        s.publishDefects
      else
        let s := { s with coreOff := s.coreOff ||| (1#1024 <<< core) }
        (s.loseCores [core] d (whereOfCore core) 0).publishDefects)

/-! ### Losing links and dies (R368, R369) -/

/-- The latency cores of a die run nothing more; what their perches hold ends as a section that failed. -/
def State.losePerch (s : State) (lc : Nat) : State :=
  let p := s.perch lc
  let fail (r : ShipReq) : ShipResult := ⟨lc, r, .sectionFault, .protection, noWords⟩
  let s := { s with shipResults := s.shipResults ++ (p.running.toList ++ p.queue ++ p.parkedSenders).map fail }
  let s := s.modPerch lc (fun p => { p with queue := [], parkedSenders := [], running := none, entered := false, ending := none })
  (List.range 4).foldl (fun s c => s.idleContext (lcThreadKey lc c)) s

/-- A die leaves service (R369). -/
def State.loseDie (s : State) (d : Nat) : State :=
  if s.dieStat d = 3 then s
  else
    let cores := (List.range 256).map (256 * d + ·)
    let used := cores.filter (fun c => (AMap.get? s.cores c).isSome)
    let bit : BitVec 16 := BitVec.ofNat 16 (15 * 16 ^ d)
    let all : BitVec 256 := BitVec.ofNat 256 ((2 ^ 64 - 1) * 2 ^ (64 * d))
    let s := { s with
      pcb := { s.pcb with dieState := (s.pcb.dieState &&& ~~~bit) ||| BitVec.ofNat 16 (3 * 16 ^ d) }
      clusterOff := s.clusterOff ||| all }
    let s := s.loseCores used d (d * 512) 3
    let s := ((List.range 64).map (64 * d + ·)).foldl (fun s c =>
      if (AMap.get? s.clusters c).isSome then s.clearCluster c else s) s
    let s := ((List.range 16).map (16 * d + ·)).foldl (fun s lc =>
      if (AMap.get? s.perches lc).isSome then s.losePerch lc else s) s
    let s := { s with forwarded := s.forwarded.filter (fun f => homeDie (128 * f.line) != some d) }
    s.publishDefects

/-- A die that no live link reaches. -/
def State.dieCut (s : State) (d : Nat) : Bool := !s.pcb.links.getLsbD d && !s.pcb.links.getLsbD ((d + 3) % 4)

/-- DIE_LINK_FAIL: link n, from die n to die n + 1 mod 4, carries nothing further (R368); a die that none reaches leaves
service. -/
def execDieLinkFail (link : Nat) (s : State) : Out :=
  .next (
    if s.pcb.links.getLsbD (link % 4) then
      let s := { s with pcb := { s.pcb with links := s.pcb.links &&& ~~~(1#4 <<< (link % 4)) } }
      [0, 1, 2, 3].foldl (fun s d => if s.dieCut d && s.dieUp d then s.loseDie d else s) s
    else s)

/-- DIE_FAIL: a die whose base die fails leaves service (R369). -/
def execDieFail (die : Nat) (s : State) : Out := .next (s.loseDie (die % 4))

end Sys2Proof.Machine
end

