-- ==== Sys2Proof/Machine/Loader.lean ====
section
/-! DEFINITION. The loader of the boot processor: Lomsen files, their checks (R41-R44, R46), the variant that is selected,
and where its code and images come to stand (R395). -/
namespace Sys2Proof.Machine

/-! ### The file's tables (R41-R43) -/

/-- A section table entry (R42). -/
structure LSection where
  kind : Nat
  variant : Nat
  info : Nat
  off : Nat
  size : Nat
  reserved : Nat
  deriving DecidableEq, Repr

/-- A variant table entry (R43). -/
structure LVariant where
  index : Nat
  signature : Nat
  flags : Nat
  reserved : Nat
  digest : List Byte
  deriving DecidableEq, Repr

/-- A symbol table entry (R43). -/
structure LSymbol where
  index : Nat
  name : Nat
  sect : Nat
  kind : Nat
  off : Nat
  deriving DecidableEq, Repr

/-- A kernel-attribute entry with the VARIANT of its section (R44). -/
structure LAttr where
  variant : Nat
  sym : Nat
  gsize : Nat
  cbmask : Nat
  reserved : Nat
  deriving DecidableEq, Repr

/-- A file with its tables. -/
structure LFile where
  bytes : List Byte
  sections : List LSection
  variants : List LVariant
  symbols : List LSymbol
  deriving DecidableEq, Repr

/-- VARIANT of what all variants share. -/
def lShared : Nat := 0xFFFF

/-- The tables of a file, as its header places them. -/
def lFile (bs : List Byte) : LFile where
  bytes := bs
  sections := (List.range (fieldAt bs 0x0A 2)).map (fun i =>
    let o := fieldAt bs 0x10 8 + 32 * i
    ⟨fieldAt bs o 2, fieldAt bs (o + 2) 2, fieldAt bs (o + 4) 4, fieldAt bs (o + 8) 8, fieldAt bs (o + 16) 8, fieldAt bs (o + 24) 8⟩)
  variants := (List.range (fieldAt bs 0x08 2)).map (fun i =>
    let o := fieldAt bs 0x18 8 + 32 * i
    ⟨i, fieldAt bs o 8, fieldAt bs (o + 8) 4, fieldAt bs (o + 12) 4, bytesAt bs (o + 16) 16⟩)
  symbols := (List.range (fieldAt bs 0x0C 4)).map (fun i =>
    let o := fieldAt bs 0x20 8 + 16 * i
    ⟨i, fieldAt bs o 4, fieldAt bs (o + 4) 2, fieldAt bs (o + 6) 2, fieldAt bs (o + 8) 8⟩)

/-- The data of a section. -/
def LFile.data (f : LFile) (x : LSection) : List Byte := bytesAt f.bytes x.off x.size

/-- A section or symbol of a variant serves another: it is the variant's own, or shared. -/
def lServes (own v : Nat) : Bool := own == v || own == lShared

/-- PFREE (R43). -/
def LVariant.pfree (v : LVariant) : Bool := v.flags.testBit 0

/-- The VARIANT of the section in which a symbol stands. -/
def LFile.symVariant (f : LFile) (y : LSymbol) : Nat := ((f.sections[y.sect]?).map (·.variant)).getD lShared

/-- The kernel-attribute entries (R44). -/
def LFile.attrs (f : LFile) : List LAttr :=
  (f.sections.filter (·.kind == 5)).flatMap (fun x =>
    (List.range (x.size / 16)).map (fun i =>
      let o := x.off + 16 * i
      ⟨x.variant, fieldAt f.bytes o 4, fieldAt f.bytes (o + 4) 2, fieldAt f.bytes (o + 6) 2, fieldAt f.bytes (o + 8) 8⟩))

/-- The constant images of a kernel that a variant sees: section and bank. -/
def LFile.images (f : LFile) (v sym : Nat) : List (LSection × Nat) :=
  (f.sections.filter (fun x => x.kind == 2 && lServes x.variant v && x.info / 65536 == sym)).map (fun x => (x, x.info % 16))

/-- The kernel symbols that a variant sees. -/
def LFile.kernels (f : LFile) (v : Nat) : List LSymbol :=
  f.symbols.filter (fun y => y.kind == 1 && lServes (f.symVariant y) v)

/-! ### The checks (R46) -/

/-- MAGIC, VERSION, ARCH, NVAR and FILESIZE, the file digest, and the tables within the file. -/
def lHeaderOk (bs : List Byte) : Bool :=
  decide (64 ≤ bs.length) && fieldAt bs 0 4 == 0x4E534D4C && fieldAt bs 4 2 == 1 && fieldAt bs 6 2 == 1 &&
    decide (1 ≤ fieldAt bs 8 2) && decide (fieldAt bs 8 2 ≤ 64) && fieldAt bs 0x28 8 == bs.length &&
    shake256 (putBytes bs 0x30 (List.replicate 16 0#8)) 16 == bytesAt bs 0x30 16 &&
    decide (fieldAt bs 0x10 8 + 32 * fieldAt bs 0x0A 2 ≤ bs.length) &&
    decide (fieldAt bs 0x18 8 + 32 * fieldAt bs 0x08 2 ≤ bs.length) &&
    decide (fieldAt bs 0x20 8 + 16 * fieldAt bs 0x0C 4 ≤ bs.length)

/-- A placement entry (R43). -/
def lPlacementOk (e : List Byte) : Bool :=
  let kind := fieldAt e 0 1
  let value := fieldAt e 2 2
  let cluster := fieldAt e 4 2
  decide (1 ≤ kind) && decide (kind ≤ 3) && decide (fieldAt e 1 1 ≤ 3) && decide (value < if kind = 2 then 256 else 64) &&
    (if kind = 3 then decide (cluster < 64) else cluster == 0) && fieldAt e 6 2 == 0

/-- The placement entries of a section. -/
def LFile.placements (f : LFile) (x : LSection) : List (List Byte) :=
  (List.range (x.size / 8)).map (fun i => bytesAt f.bytes (x.off + 8 * i) 8)

/-- A section entry and its size (R42). -/
def LFile.sectionOk (f : LFile) (x : LSection) : Bool :=
  decide (1 ≤ x.kind) && decide (x.kind ≤ 5) && (decide (x.variant < f.variants.length) || x.variant == lShared) &&
    decide (x.off + x.size ≤ f.bytes.length) && x.reserved == 0 &&
    (match x.kind with
     | 1 => x.info == 0 && x.size % 12 == 0
     | 2 => bits x.info 4 12 == 0 && decide (x.size ≤ 1024) &&
         (match f.symbols[x.info / 65536]? with
          | some y => y.kind == 1
          | none => false)
     | 3 => x.info == 0 && x.size % 8 == 0 && (f.placements x).all lPlacementOk
     | 4 => x.info == 0
     | _ => x.info == 0 && x.size % 16 == 0)

/-- A variant entry: its digest, its reserved bits, its signature against PFREE. -/
def LFile.variantOk (f : LFile) (v : LVariant) : Bool :=
  let own := f.sections.filter (fun x => x.variant == v.index)
  shake256 (own.flatMap f.data) 16 == v.digest && decide (v.flags < 2) && v.reserved == 0 &&
    (if v.pfree then v.signature == 0 && own.all (fun x => x.kind != 3)
     else v.signature != 0 && f.variants.all (fun w => w.index == v.index || w.pfree || w.signature != v.signature))

/-- A byte of a name (R43). -/
def lNameByte (b : Byte) : Bool := decide (0x21 ≤ b.toNat) && decide (b.toNat ≤ 0x7E)

/-- Names to the end of the string section; `n` bytes of the name in progress have been read. -/
def lNamesOk : Nat → List Byte → Bool
  | n, [] => n == 0
  | n, b :: bs =>
    if b = 0#8 then decide (1 ≤ n) && lNamesOk 0 bs else lNameByte b && decide (n < 255) && lNamesOk (n + 1) bs

/-- The name at an offset of the string section. -/
def lName (str : List Byte) (off : Nat) : List Byte := (str.drop off).takeWhile (· != 0#8)

/-- The string section (R43): one, shared, well formed; every symbol's offset starts a name; names that must differ do. -/
def LFile.stringsOk (f : LFile) : Bool :=
  match f.sections.filter (·.kind == 4) with
  | [x] =>
    let str := f.data x
    x.variant == lShared && str.head? == some 0#8 && lNamesOk 0 (str.drop 1) &&
      f.symbols.all (fun y => decide (1 ≤ y.name) && decide (y.name < str.length) && (str[y.name - 1]?) == some 0#8) &&
      f.symbols.all (fun y => f.symbols.all (fun z =>
        decide (z.index ≤ y.index) || f.symVariant y != f.symVariant z || lName str y.name != lName str z.name ||
          (f.symVariant y == lShared && (y.kind == 3 || z.kind == 3))))
  | _ => false

/-- A symbol stands in a section, a kernel or an entry in code. -/
def LFile.symbolOk (f : LFile) (y : LSymbol) : Bool :=
  match f.sections[y.sect]? with
  | none => false
  | some x => decide (1 ≤ y.kind) && decide (y.kind ≤ 3) && decide (y.off ≤ x.size) &&
      (y.kind == 3 || (x.kind == 1 && decide (y.off < x.size)))

/-- An attribute entry names a kernel that its variant sees. -/
def LFile.attrOk (f : LFile) (a : LAttr) : Bool :=
  decide (a.gsize ≤ 1024) && a.reserved == 0 &&
    (match f.symbols[a.sym]? with
     | some y => y.kind == 1 && (a.variant == lShared || lServes (f.symVariant y) a.variant)
     | none => false)

/-- Every kernel that a variant sees has exactly one attribute entry, whose CBMASK is exactly that of its images. -/
def LFile.kernelsOk (f : LFile) (v : Nat) : Bool :=
  (f.kernels v).all (fun y =>
    match f.attrs.filter (fun a => lServes a.variant v && a.sym == y.index) with
    | [a] => (List.range 16).all (fun b =>
        (f.images v y.index).countP (fun x => x.2 == b) == (if a.cbmask.testBit b then 1 else 0))
    | _ => false)

/-- The file is not VARIANT_CORRUPT before a variant is selected (R46). -/
def lFileOk (bs : List Byte) : Bool :=
  lHeaderOk bs &&
    (let f := lFile bs
     f.sections.all f.sectionOk && f.variants.all f.variantOk && f.symbols.all f.symbolOk && f.stringsOk &&
       f.attrs.all f.attrOk && f.variants.all (fun v => f.kernelsOk v.index))

/-- The variant to load (R46). -/
def LFile.select (f : LFile) (sig : Nat) : Option LVariant :=
  match f.variants.find? (fun v => !v.pfree && v.signature == sig) with
  | some v => some v
  | none => f.variants.find? LVariant.pfree

/-- A placement entry names a unit that is fused off (R46). -/
def State.placementFused (s : State) (e : List Byte) : Bool :=
  let die := fieldAt e 1 1
  match fieldAt e 0 1 with
  | 1 => s.clusterFused (64 * die + fieldAt e 2 2)
  | 2 => s.coreFused (coreAtPos (256 * die + fieldAt e 2 2))
  | _ => s.clusterFused (64 * die + fieldAt e 4 2)

/-! ### Placement (R395) -/

/-- A page of the memory that the boot processor manages. -/
def State.loaderAlloc (s : State) : Nat × State :=
  (65536 * ((Config.loaderFrame + s.loaderPages) % 3145728), { s with loaderPages := s.loaderPages + 1 })

/-- The table that an entry names, made where there is none; none where a leaf stands in its place. -/
def State.loaderNode (s : State) (node level : Nat) (va : DWord) : Option (Nat × State) :=
  let a := node + 8 * nodeIndex va level
  let (bs, s) := s.partRead a 8
  let e : DWord := BitVec.ofNat 64 (leNat bs)
  if pteP e then (if pteLeaf e then none else some (pteFrame e, s))
  else
    let (f, s) := s.loaderAlloc
    let s := s.partWrite f (List.replicate 65536 0#8)
    some (f, s.partWrite a (leBytes (f + 1) 8))

/-- A page that nothing maps: on its way from the root an entry is absent. -/
def State.pageFree (s : State) (va : Nat) : Bool :=
  let a : DWord := BitVec.ofNat 64 va
  let entry (node level : Nat) : DWord := BitVec.ofNat 64 (leNat (s.partRead (node + 8 * nodeIndex a level) 8).1)
  match s.root with
  | none => false
  | some r =>
    let e1 := entry r 1
    let e2 := entry (pteFrame e1) 2
    let e3 := entry (pteFrame e2) 3
    !pteP e1 || (!pteLeaf e1 && (!pteP e2 || (!pteLeaf e2 && !pteP e3)))

/-- Where `n` free pages stand in a row: from the page that the boot processor comes to next, or the first such place after it;
the search ends after 4,096 places. -/
def State.loaderAt (s : State) (n : Nat) : Option Nat :=
  let at_ (k : Nat) : Nat := 65536 * ((Config.loaderPage + s.loaderPages + k) % 2 ^ 39)
  ((List.range 4096).map at_).find? (fun va => (List.range n).all (fun i => s.pageFree ((va + 65536 * i) % 2 ^ 55)))

/-- A page mapped through the package root. -/
def State.loaderMap (s : State) (va : DWord) (leaf : DWord) : Option State :=
  match s.root with
  | none => none
  | some r =>
    match s.loaderNode r 1 va with
    | none => none
    | some (n2, s) =>
      match s.loaderNode n2 2 va with
      | none => none
      | some (n3, s) => some (s.partWrite (n3 + 8 * nodeIndex va 3) (leBytes leaf.toNat 8))

/-- Leaf entry of a read-only page: executable, or not. -/
def loaderLeaf (pa : Nat) (exec : Bool) : DWord := BitVec.ofNat 64 (pa + 2 ^ 47 + 1 + (if exec then 0 else 4))

/-- Bytes placed in fresh pages from a virtual address on, 64 KiB at a time; the fuel counts pages. -/
def State.loaderPut (s : State) (va : Nat) (bs : List Byte) (exec : Bool) : Nat → Option State
  | 0 => some s
  | k + 1 =>
    if bs = [] then some s
    else
      let (pa, s) := s.loaderAlloc
      let s := s.partWrite pa (bs.take 65536 ++ List.replicate (65536 - bs.length) 0#8)
      match s.loaderMap (BitVec.ofNat 64 (va % 2 ^ 55)) (loaderLeaf pa exec) with
      | none => none
      | some s => s.loaderPut (va + 65536) (bs.drop 65536) exec k

/-- Zero bytes up to a multiple. -/
def padTo (n : Nat) (bs : List Byte) : List Byte := bs ++ List.replicate ((n - bs.length % n) % n) 0#8

/-- Sections laid out one after the other: the offset of each by its index, and the bytes. -/
def lLayout (f : LFile) : List (Nat × LSection) → List Byte → AMap Nat × List Byte
  | [], acc => ([], acc)
  | (i, x) :: xs, acc =>
    let (m, bs) := lLayout f xs (padTo 64 (acc ++ f.data x))
    (AMap.set m i acc.length, bs)

/-- The images of a kernel from its CBADDR on: bank b at 1,024 * b, zeros elsewhere. -/
def LFile.imageBytes (f : LFile) (v sym : Nat) : List Byte :=
  let im := f.images v sym
  let top := im.foldl (fun m x => max m (x.2 + 1)) 0
  (List.range top).flatMap (fun b =>
    match im.find? (fun x => x.2 == b) with
    | some x => padTo 1024 (f.data x.1 ++ (if x.1.size = 0 then List.replicate 1024 0#8 else []))
    | none => List.replicate 1024 0#8)

/-- The images of kernels one after the other: the offset of each kernel that has one, by its symbol, and the bytes. -/
def lImages (f : LFile) (v : Nat) : List LSymbol → List Byte → AMap Nat × List Byte
  | [], acc => ([], acc)
  | y :: ys, acc =>
    let im := f.imageBytes v y.index
    let (m, bs) := lImages f v ys (acc ++ im)
    (if im = [] then m else AMap.set m y.index acc.length, bs)

/-- A symbol record of the result block. -/
def lRecord (f : LFile) (v : Nat) (code : Nat) (codeOff : AMap Nat) (image : Nat) (imageOff : AMap Nat) (y : LSymbol) :
    List Byte :=
  let a := f.attrs.find? (fun a => lServes a.variant v && a.sym == y.index)
  let kernel : Bool := y.kind == 1
  leBytes y.index 4 ++ leBytes y.kind 2 ++ leBytes (if kernel then (a.map (·.gsize)).getD 0 else 0) 2 ++
    leBytes (code + AMap.getD codeOff y.sect 0 + y.off) 8 ++
    leBytes (if kernel then ((AMap.get? imageOff y.index).map (image + ·)).getD 0 else 0) 8 ++
    leBytes (if kernel then (a.map (·.cbmask)).getD 0 else 0) 2 ++ List.replicate 6 0#8

/-- The first 16 bytes of a result block. -/
def lResultHead (c : Code) (n sig : Nat) : List Byte := leBytes (codeNum c) 4 ++ leBytes n 4 ++ leBytes sig 8

/-- Bytes of HBM or of a weight store of one die in service. -/
def State.loaderRange (s : State) (pa n : Nat) : Bool :=
  match placeOf pa, placeOf (pa + (n - 1)) with
  | .hbm d, .hbm e | .ws d, .ws e => d == e && s.backed pa && decide (pa + n < 2 ^ 46)
  | _, _ => false

/-- A request ends: its status is published last (R395). -/
def State.loaderDone (s : State) (c : Code) : State :=
  { s with pcb := { s.pcb with ldcmd := 0#32, ldstat := BitVec.ofNat 32 (2 ^ 31 + codeNum c) } }

/-- A request fails: it writes the first 16 bytes of the block, where there is one. -/
def State.loaderFail (s : State) (c : Code) : State :=
  let res := s.pcb.ldres.toNat
  (if s.loaderRange res 16 then s.partWrite res (lResultHead c 0 0) else s).loaderDone c

/-- A selected variant is placed and the block written; none where there is no room for it. -/
def State.loaderPlace (s : State) (f : LFile) (v : LVariant) : Option State :=
  let syms := f.symbols.filter (fun y => y.kind != 3 && lServes (f.symVariant y) v.index)
  let res := s.pcb.ldres.toNat
  if !s.loaderRange res (64 + 32 * syms.length) then none
  else
    let codes := (f.sections.zipIdx.filter (fun x => x.1.kind == 1 && lServes x.1.variant v.index)).map (fun x => (x.2, x.1))
    let (codeOff, code) := lLayout f codes []
    let (imageOff, image) := lImages f v.index (f.kernels v.index) []
    let pages (bs : List Byte) : Nat := bs.length / 65536 + 1
    (s.loaderAt (pages code)).bind (fun codeVa =>
      (s.loaderPut codeVa code true (pages code)).bind (fun s =>
        (s.loaderAt (pages image)).bind (fun imageVa =>
          (s.loaderPut imageVa image false (pages image)).map (fun s =>
            (s.partWrite res (lResultHead .ok syms.length v.signature ++ List.replicate 48 0#8 ++
              syms.flatMap (lRecord f v.index codeVa codeOff imageVa imageOff))).loaderDone .ok))))

/-- LOADER_REQUEST: the boot processor serves LDCMD (R46, R395). -/
def execLoaderRequest (s : State) : Out :=
  .next (
    let p := s.pcb
    if p.ldcmd = 0#32 then s
    else if s.awaitsDie p.ldfile.toNat || s.awaitsDie p.ldres.toNat then s
    else if p.ldlen ≠ 0#64 ∧ s.loaderRange p.ldfile.toNat p.ldlen.toNat = false then s.loaderFail .protection
    else
      let (bs, s) := if p.ldlen = 0#64 then ([], s) else s.partRead p.ldfile.toNat p.ldlen.toNat
      if !lFileOk bs then s.loaderFail .variantCorrupt
      else
        let f := lFile bs
        match f.select p.defsig.toNat with
        | none => s.loaderFail .variantNone
        | some v =>
          let fused := !v.pfree && f.sections.any (fun x =>
            x.kind == 3 && lServes x.variant v.index && (f.placements x).any s.placementFused)
          if fused then s.loaderFail .variantCorrupt
          else
            match s.loaderPlace f v with
            | none => s.loaderFail .protection
            | some s => s)

end Sys2Proof.Machine
end

