-- ==== Sys2Proof/Machine/Boot.lean ====
section
/-! DEFINITION. The boot processor and the power arbiter: keys (R394), attestation (R392, R393), power and temperature
(R384-R386), bring-up (R388-R391, R395, R396). -/
namespace Sys2Proof.Machine

/-! ### Keys (R394) -/

/-- A key command ends: its OP reads zero again, KEYSTAT holds its code. -/
def State.keyDone (s : State) (c : Code) : State :=
  { s with pcb := { s.pcb with keycmd := s.pcb.keycmd &&& 0xFF#32, keystat := codeWord c } }

/-- KEY_LOAD: the slot takes KEYDATA, which then holds zero. -/
def execKeyLoad (s : State) : Out :=
  .next (
    let p := s.pcb
    let slot := bits p.keycmd.toNat 0 8
    if bits p.keycmd.toNat 8 2 ≠ 1 then s
    else if slot = 0 ∨ p.keydata.extractLsb' 0 256 = p.keydata.extractLsb' 256 256 then s.keyDone .illegalOperand
    else
      let s := { s with keys := AMap.set s.keys slot p.keydata, pcb := { p with keydata := 0#512 } }
      s.keyDone .ok)

/-- Every dirty line of every L1 and L2 is written back and invalidated. -/
def State.flushDirty (s : State) : State :=
  let s := [0, 1, 2, 3].foldl State.needDie s
  let s := s.l1FlushIf (fun _ l => l.dirty != 0#128)
  [0, 1, 2, 3].foldl (fun s d =>
    (((s.die d).l2.filter (fun p => !p.2.lease && p.2.dirty != 0#2)).map (·.1)).foldl (fun s ln => s.l2Evict d ln) s) s

/-- KEY_CLEAR: dirty lines go home, translations are dropped, the slot is erased. -/
def execKeyClear (s : State) : Out :=
  .next (
    let slot := bits s.pcb.keycmd.toNat 0 8
    if bits s.pcb.keycmd.toNat 8 2 ≠ 2 then s
    else if slot = 0 then s.keyDone .illegalOperand
    else
      let s := s.flushDirty.dropTlb (fun _ => true)
      { s with keys := AMap.erase s.keys slot }.keyDone .ok)

/-! ### Attestation (R392, R393) -/

/-- ATTEST_REQUEST: the report, signed, is written; then DONE. -/
def execAttestRequest (s : State) : Out :=
  .next (
    let p := s.pcb
    if p.attcmd = 0#32 then s
    else
      let bytes := p.attFields ++ ed448Sign identity p.attFields ++ List.replicate 14 0#8
      { s with pcb := { p with
          report := bytes.zipIdx.foldl (fun (m : AMap Byte) x => cellSet m 0#8 x.2 x.1) []
          attcmd := 0#32, attstat := BitVec.ofNat 32 (2 ^ 31) } })

/-! ### Power and temperature (R384) -/

/-- A clock that the arbiter may set. -/
def clockOk (mhz : Nat) : Bool := decide (425 ≤ mhz) && decide (mhz ≤ 850) && (mhz - 425) % 25 == 0

/-- POWER_ARBITER: at a boundary the dies receive their grants, within PWRCAP, and their clocks; 425 MHz in reduced
service and while HOT. Before stage 2 nothing runs on the dies (R388), and nothing is granted. -/
def execPowerArbiter (watts mhz : List Nat) (s : State) : Out :=
  .next (
    if 2 ≤ s.pcb.stage.toNat ∧ watts.length = 4 ∧ mhz.length = 4 ∧ watts.sum ≤ s.pcb.pwrcap.toNat ∧ mhz.all clockOk = true then
      [0, 1, 2, 3].foldl (fun s d => s.modDie d (fun x => { x with
        watts := (watts[d]?).getD 0
        clockMhz := if s.pcb.hot || s.pcb.reduced then 425 else (mhz[d]?).getD 425
        throttled := !s.pcb.hot && !s.pcb.reduced && decide ((mhz[d]?).getD 425 < 850) })) s
    else s)

/-- THERMAL_CRIT: every throughput core stops issue as a HALT stops it (R177); a stopped thread whose task is reclaimed exits
(R352). -/
def execThermalCrit (s : State) : Out :=
  .next (
    let s := { s with pcb := { s.pcb with crit := true, hot := true } }.mapDies (fun d => { d with clockMhz := 425, throttled := false })
    let s := (AMap.keys s.groups).foldl State.withdrawGroup s
    (AMap.keys s.threads).foldl State.reclaimThread s)

/-- TEMPERATURE_CROSSES_THROTTLE_LIMIT: above it clocks are held at 425 MHz; below it issue resumes, as after a
HALT.resume: sets that have not fired are withdrawn, and their signers sign afresh (R200). -/
def execTemperatureCrossesThrottleLimit (above : Bool) (s : State) : Out :=
  .next (
    if above then
      ({ s with pcb := { s.pcb with hot := true } }).mapDies (fun d => { d with clockMhz := 425, throttled := false })
    else
      let was := s.pcb.crit
      let s := { s with pcb := { s.pcb with hot := false, crit := false } }
      if was then
        let s := (AMap.keys s.groups).foldl State.withdrawGroup s
        ((AMap.keys s.threads).filter (fun t => !threadOnLC t && !(s.core (coreOfThread t)).halted)).foldl State.unhalt s
      else s)

/-- A die may enter a low-power state (R385). -/
def State.dieIdle (s : State) (d : Nat) : Bool :=
  s.groups.all (fun p => dieOfCore p.2.core != d) && (s.die d).queues.all (fun q => q.2.isEmpty) &&
    (s.die d).saved.isEmpty && (s.die d).records.isEmpty

/-- A die enters a state; from state 2 on its slices sleep, each with the THAWGEN it records (R376). -/
def State.enterPower (s : State) (st d : Nat) : State :=
  s.modDie d (fun x => { x with
    power := BitVec.ofNat 2 st
    asleep := if 2 ≤ st then (List.range 64).map (fun i => (i, s.pcb.thawgen)) else x.asleep })

/-- POWER_STATE_ENTER: an idle die enters the deepest state allowed; state 3 takes every die at once. -/
def execPowerStateEnter (die : Nat) (s : State) : Out :=
  .next (
    let d := die % 4
    let st := deepest s.pcb.lattol
    let up := [0, 1, 2, 3].filter s.dieUp
    if !s.dieUp d || !s.dieIdle d || decide (st ≤ (s.die d).power.toNat) then s
    else if st = 3 then
      if up.all s.dieIdle then up.foldl (fun s e => if (s.die e).power.toNat < 2 then s.enterPower 3 e
        else s.modDie e (fun x => { x with power := 3#2 })) s
      else if (s.die d).power.toNat < 2 then s.enterPower 2 d else s
    else s.enterPower st d)

/-- POWER_STATE_WAKE: a die wakes; no other die stays in state 3 (R385). -/
def execPowerStateWake (die : Nat) (s : State) : Out :=
  .next (s.wakeDie (die % 4))

/-! ### Bring-up (R388-R391) -/

/-- Streams from this number on arrive at spines. -/
def firstSpineStream : Nat := 8192 * 8192

/-- RESET: the boot ROM runs. The fused counter stands, and so do what memory holds and the spines, with their groups and
their ends of the streams (R406). -/
def execReset (s : State) : Out :=
  .next { State.reset with
    mem := s.mem, rollback := s.rollback, agenda := s.agenda, choices := s.choices, free := s.free
    hostReplies := s.hostReplies, cgroups := s.cgroups, lostSpines := s.lostSpines
    recvChans := s.recvChans.filter (fun c => decide (4 * firstSpineStream ≤ c.1))
    peerIncs := s.peerIncs.filter (fun c => decide (firstSpineStream ≤ c.1))
    endedIncs := s.endedIncs.filter (fun c => decide (firstSpineStream ≤ c.1)) }

/-- The firmware image's header is well formed (R391). -/
def firmwareWellFormed (image : List Byte) : Bool :=
  decide (0x100 ≤ image.length) && fieldAt image 0 4 == 0x4D464854 && fieldAt image 4 4 == 1 &&
    fieldAt image 0x10 8 == image.length && (bytesAt image 0xC3 61).all (· == 0#8)

/-- The 64-byte digest of a firmware image. -/
def firmwareDigest (image : List Byte) : List Byte := shake256 (image.drop 0x100) 64

/-- PUBKEY is the fused one, and SIG verifies. -/
def firmwareSigned (image : List Byte) : Bool :=
  let key := bytesAt image 0x18 57
  leNat (shake256 key 32) == Config.fusedKeyHash.toNat &&
    ed448Verify key (firmwareDigest image) (bytesAt image 0x51 114)

/-- Bring-up fails for a reason (R388, R390). -/
def State.bootFails (s : State) (reason : Nat) : State :=
  { s with pcb := { s.pcb with stage := 7#3, reason := BitVec.ofNat 8 reason } }

/-- FIRMWARE_VERIFY: the boot processor reads the firmware image and checks it (R391). -/
def execFirmwareVerify (image : List Byte) (s : State) : Out :=
  .next (
    if s.pcb.stage ≠ 0#3 then s
    else if !firmwareWellFormed image then s.bootFails 3
    else if !firmwareSigned image then s.bootFails 1
    else if fieldAt image 8 8 < s.rollback.toNat then s.bootFails 2
    else { s with
      pcb := { s.pcb with stage := 1#3 }
      fwDigest := BitVec.ofNat 256 (leNat ((firmwareDigest image).take 32))
      fwRollback := BitVec.ofNat 64 (fieldAt image 8 8) })

/-- Pages of 64 KiB of the structures that the boot processor reserves in a die's memory: trap areas, fault queue, spill
rings, latency-core frames (R396), and the defect map, which stands on die 0 (R45). -/
def bootSizes : List Nat := [1024, 2, 4096, 1, 1]

/-- Ranges, each with its length, have nothing in common. -/
def apart : List (Nat × Nat) → Bool
  | [] => true
  | p :: ps => ps.all (fun q => decide (p.1 + p.2 ≤ q.1) || decide (q.1 + q.2 ≤ p.1)) && apart ps

/-- The first page of each structure in a die: those that the boot processor chose where they lie apart, else one after the
other. -/
def bootPages (d : Nat) : List Nat :=
  let wanted := ([Config.trapArea d, Config.faultQueue d, Config.spillArea d, Config.lcTrapArea d, Config.defectMapPage].zip
    bootSizes).map (fun x => (x.1 % (3145728 - x.2), x.2))
  if apart wanted then wanted.map (·.1) else [0, 1024, 1026, 5122, 5123]

/-- The physical address of a structure of `bootSizes` on a die. -/
def bootArea (d i : Nat) : Nat := 2 ^ 38 * d + 65536 * (((bootPages d)[i]?).getD 0)

/-- A range of memory is zeroed before anything runs. -/
def State.bootZero (s : State) (pa n : Nat) : State :=
  { s with mem := s.mem.filter (fun (c : Host.Cell) => !(decide (pa ≤ c.1) && decide (c.1 < pa + n))) }

/-- The structures of R396 and the defect map: reserved, zeroed, published. -/
def State.publishTables (s : State) : State :=
  let table (i : Nat) : AMap DWord := [0, 1, 2, 3].map (fun d => (d, BitVec.ofNat 64 (bootArea d i)))
  let tab := table 0
  let fq := table 1
  let spill := table 2
  let lc := table 3
  let map := bootArea 0 4
  let zero (n : Nat) (m : AMap DWord) (s : State) : State := m.foldl (fun s p => s.bootZero p.2.toNat n) s
  let s := zero 67108864 tab (zero 65600 fq (zero 268435456 spill (zero 8192 lc (s.bootZero map 16544))))
  let s := { s with pcb := { s.pcb with
    tabbase := tab, fqbase := fq, spillbase := spill, lctabbase := lc, defmap := BitVec.ofNat 64 map } }
  s.publishDefects

/-- A supervisor context starts at its entry word, which has SUP = 1, with its frame written (R310). DESIGN CHOICE: a configured
entry word with SUP = 0, or one that cannot be fetched, starts no context, and its OPC, its BUD and its other fields are not
checked; R52 and R310 say neither. -/
def State.startSupervisor (s : State) (lc ctx : Nat) : State :=
  let entry := Config.supervisorEntry (4 * (lc - 1024) + ctx)
  if entry = 0#64 then s
  else
    match s.fetchWord true lc entry true with
    | (.word w, s) =>
      let e := Entry.ofNat w.toNat
      if e.sup then
        (s.initLcFrame (lc - 1024) ctx).setThread (lcThreadKey (lc - 1024) ctx)
          (Thread.start none 0 ctx (entryBudget e) (entry + 12#64) 1#32 true (s.lcFrame (lc - 1024) ctx))
      else s
    | (.fails _ _, s) | (.miss _, s) => s

/-- The supervisor contexts of a die start. -/
def State.startSupervisors (s : State) (d : Nat) : State :=
  ((List.range 16).flatMap (fun n => [1, 2, 3].map (fun c => (1024 + 16 * d + n, c)))).foldl
    (fun s p => s.startSupervisor p.1 p.2) s

/-- REDUCED_SERVICE: die 0 is trained, or bring-up fails; the defects found are published, what the firmware image holds is
loaded, the root is set, and die 0 runs, at 425 MHz (R45, R280, R388, R389, R396, R397). A die that has failed before stays
failed (R369). -/
def execReducedService (trained : Bool) (s : State) : Out :=
  .next (
    if s.pcb.stage ≠ 1#3 then s
    else if !trained || s.dieStat 0 == 3 then s.bootFails 4
    else
      let s := { s.mapDies (fun d => { d with clockMhz := 425, throttled := false }) with
        clusterOff := s.clusterOff ||| Config.fusedClusters, coreOff := Config.fusedCores, device := Config.deviceNumber
        laneOff := ((List.range 1024).map (fun c => (c, Config.fusedLanes c))).filter (fun p => p.2 != 0#128)
        root := some (65536 * (Config.bootRoot % 2 ^ 30))
        pcb := { s.pcb with stage := 2#3, reduced := true, dieState := s.pcb.dieState ||| 1#16 } }
      let s := s.publishTables
      let s := Config.bootMemory.foldl (fun s c => s.partWrite c.1 [c.2]) s
      s.startSupervisors 0)

/-- Stage 3 begins: the device takes its incarnation, and its streams start anew (R388, R402, R406). -/
def State.train (s : State) : State :=
  let i := Config.randomIncarnation s.free
  { s with
    incarnation := if i = 0#48 then 1#48 else i, free := s.free + 1, sendChans := []
    recvChans := s.recvChans.filter (fun c => decide (4 * firstSpineStream ≤ c.1))
    pcb := { s.pcb with stage := 3#3 } }

/-- DIESTAT's die fields as training leaves them: a die that failed stays failed, the others that came up are in service. -/
def State.trainedDies (s : State) (diesUp : BitVec 4) : Nat :=
  [0, 1, 2, 3].foldl (fun n d =>
    n + (if s.dieStat d = 3 then 3 else if d = 0 ∨ diesUp.getLsbD d = true then 2 else 0) * 16 ^ d) 0

/-- FULL_SERVICE: bring-up goes on to stage 3, and from there, with what trained, to full service: the links, the other dies
and the ports (R388, R389, R397). A die that did not train, or that no live link reaches, leaves service (R369). -/
def execFullService (diesUp linksUp : BitVec 4) (portsUp : BitVec 18) (s : State) : Out :=
  .next (
    if s.pcb.stage = 2#3 then s.train
    else if s.pcb.stage ≠ 3#3 then s
    else
      let s := { s with
        rollback := if s.rollback.toNat ≤ s.fwRollback.toNat then s.fwRollback else s.rollback
        ports := s.ports.zipIdx.map (fun (x : Port × Nat) =>
          if portsUp.getLsbD x.2 then { x.1 with up := true, spare := true, active := 4#3, lanes := 15#5 } else x.1)
        pcb := { s.pcb with
          stage := 4#3, reduced := false, fullsvc := true, links := linksUp
          dieState := BitVec.ofNat 16 (s.trainedDies diesUp) } }
      let s := [0, 1, 2, 3].foldl (fun s d => if s.dieStat d = 2 ∧ s.dieCut d = false then s else s.loseDie d) s
      let s := [1, 2, 3].foldl (fun s d => if s.dieUp d then s.startSupervisors d else s) s
      s.retryOutside)

end Sys2Proof.Machine
end

