-- ==== Sys2Proof/Machine/Special.lean ====
section
/-! DEFINITION. The special functions of R111, correctly rounded: each value is enclosed between two fixed-point
bounds, both are rounded, and where they differ the precision doubles. Fixed-point numbers at precision `p` are
multiples of 2^-p. -/
namespace Sys2Proof.Machine

/-- An enclosure: the value lies within `err` of `v`, in units of 2^e, with a sign. -/
structure Bound where
  neg : Bool
  v : Nat
  err : Nat
  e : Int
  deriving DecidableEq, Repr

/-- Both ends of an enclosure rounded: the lower one, and whether they agree. -/
def Bound.round (f : FFmt) (b : Bound) : Nat × Bool :=
  let lo := f.round .rn 0 (.fin b.neg (b.v - b.err) b.e false)
  let hi := f.round .rn 0 (.fin b.neg (b.v + b.err) b.e false)
  (lo, lo == hi)

/-- A function's value, rounded to nearest: the first precision that decides it. -/
def roundBound (f : FFmt) (g : Nat → Bound) : Nat :=
  let a := (g 224).round f
  if a.2 then a.1
  else
    let b := (g 448).round f
    if b.2 then b.1 else ((g 896).round f).1

/-- The error allowed for at every precision: 2^40 units, far above what the series below lose. -/
def slack : Nat := 2 ^ 40

/-! ### Series -/

/-- The sum of t·z^k/(2k+1) from `k` on: atanh, with z the square of its argument. -/
def atanhSum (p z : Nat) : Nat → Nat → Nat → Nat
  | 0, _, _ => 0
  | n + 1, k, t => t / (2 * k + 1) + atanhSum p z n (k + 1) (t * z / 2 ^ p)

/-- The alternating sum of arctan(1/q). -/
def atanSum (q : Nat) : Nat → Nat → Nat → Nat
  | 0, _, _ => 0
  | n + 1, k, t => t / (2 * k + 1) - atanSum q n (k + 1) (t / (q * q))

/-- The exponential sum from its k-th term `t` on, for an argument below 1. -/
def expSum (p x : Nat) : Nat → Nat → Nat → Nat
  | 0, _, _ => 0
  | n + 1, k, t => t + expSum p x n (k + 1) (t * x / 2 ^ p / (k + 1))

/-- The sine sum from its term `t` of order 2k+1 on; `z` is the square of the argument. -/
def sinSum (p z : Nat) : Nat → Nat → Nat → Nat
  | 0, _, _ => 0
  | n + 1, k, t => t - sinSum p z n (k + 1) (t * z / 2 ^ p / ((2 * k + 2) * (2 * k + 3)))

/-- ln 2 = 2 atanh(1/3). -/
def ln2Fix (p : Nat) : Nat := 2 * atanhSum p (2 ^ p / 9) (p / 3 + 4) 0 (2 ^ p / 3)

/-- π = 16 arctan(1/5) − 4 arctan(1/239). -/
def piFix (p : Nat) : Nat := 16 * atanSum 5 (p / 4 + 4) 0 (2 ^ p / 5) - 4 * atanSum 239 (p / 15 + 4) 0 (2 ^ p / 239)

/-- ln y for 1 ≤ y < 2. -/
def lnFix (p y : Nat) : Nat :=
  let z := (y - 2 ^ p) * 2 ^ p / (y + 2 ^ p)
  2 * atanhSum p (z * z / 2 ^ p) (p / 3 + 4) 0 z

/-- e^x for 0 ≤ x < 1. -/
def expFix (p x : Nat) : Nat := expSum p x (p / 3) 0 (2 ^ p)

/-- sin x for 0 ≤ x ≤ π/2. -/
def sinFix (p x : Nat) : Nat := sinSum p (x * x / 2 ^ p) (p / 3) 0 x

/-- m·2^e in units of 2^-p, rounded down. -/
def toFix (p m : Nat) (e : Int) : Nat :=
  let k := e + p
  if 0 ≤ k then m * 2 ^ k.toNat else m / 2 ^ (-k).toNat

/-- e^-x for a fixed-point x ≥ 0, as g·2^-n with g in [1, 2]: g and n. -/
def expNeg (p x : Nat) : Nat × Nat :=
  let l := ln2Fix p
  let n := x / l + 1
  (expFix p (n * l - x), n)

/-! ### The functions -/

/-- A value too small for any format, of a sign. -/
def tiny (neg : Bool) : Ex := .fin neg 1 (-4000) true

/-- 1/√x, to 90 bits and a sticky bit. -/
def rsqrtEx (x : Ex) : Ex :=
  match x with
  | .nan => .nan
  | .inf n => if n then .nan else .fin false 0 0 false
  | .fin n m e _ =>
    if m = 0 then .inf n
    else if n then .nan
    else
      let odd := (e % 2).toNat
      let m := m * 2 ^ odd
      let k := 90 + Nat.log2 m
      let r := isqrt (4 ^ k / m) (k + 1) 0
      .fin false r (-((e - odd) / 2) - k) (r * r * m != 4 ^ k)

/-- FEXP2. -/
def exp2Round (f : FFmt) (x : Ex) : Nat :=
  match x with
  | .nan => f.nan
  | .inf n => if n then 0 else f.inf false
  | .fin n m e _ =>
    if m = 0 then f.round .rn 0 (.fin false 1 0 false)
    else if 12 ≤ (Nat.log2 m : Int) + e then (if n then f.round .rn 0 (tiny false) else f.inf false)
    else if 0 ≤ e then
      let k : Int := m * 2 ^ e.toNat
      f.round .rn 0 (.fin false 1 (if n then -k else k) false)
    else if m % 2 ^ (-e).toNat = 0 then
      let k : Int := (m / 2 ^ (-e).toNat : Nat)
      f.round .rn 0 (.fin false 1 (if n then -k else k) false)
    else
      roundBound f (fun p =>
        let x := toFix p m e
        let fr := if n then 2 ^ p - x % 2 ^ p else x % 2 ^ p
        let k : Int := if n then -((x / 2 ^ p : Nat) + 1 : Int) else (x / 2 ^ p : Nat)
        ⟨false, expFix p (fr * ln2Fix p / 2 ^ p), slack, k - p⟩)

/-- FLOG2. -/
def log2Round (f : FFmt) (x : Ex) : Nat :=
  match x with
  | .nan => f.nan
  | .inf n => if n then f.nan else f.inf false
  | .fin n m e _ =>
    if m = 0 then f.inf true
    else if n then f.nan
    else
      let k := Nat.log2 m
      let E : Int := k + e
      if m = 2 ^ k then f.round .rn 0 (.ofInt E)
      else
        roundBound f (fun p =>
          let l := lnFix p (toFix p m (-(k : Int))) * 2 ^ p / ln2Fix p
          let v : Int := E * (2 ^ p : Nat) + l
          ⟨decide (v < 0), v.natAbs, slack, -(p : Int)⟩)

/-- sin(π r) for 0 ≤ r ≤ 1/2 in units of 2^-p. -/
def sinPiFix (p r : Nat) : Nat := sinFix p (r * piFix p / 2 ^ p)

/-- FSINPI. -/
def sinpiRound (f : FFmt) (x : Ex) : Nat :=
  match x with
  | .nan | .inf _ => f.nan
  | .fin n m e _ =>
    if m = 0 ∨ 0 ≤ e then f.signBit n
    else
      let u := 2 ^ (-e).toNat
      if m % u = 0 then f.signBit n
      else if (Nat.log2 m : Int) + e < -60 then
        -- π x less than one part in 2^110
        roundBound f (fun p => ⟨n, m * piFix p, m * (piFix p / 2 ^ 110 + slack), e - p⟩)
      else
        -- |x| mod 1, and whether |x| mod 2 is above 1
        let r := m % u
        let neg := n != (m / u % 2 == 1)
        let r := if u < 2 * r then u - r else r
        roundBound f (fun p => ⟨neg, sinPiFix p (toFix p r e), slack, -(p : Int)⟩)

/-- FCOSPI. -/
def cospiRound (f : FFmt) (x : Ex) : Nat :=
  match x with
  | .nan | .inf _ => f.nan
  | .fin _ m e _ =>
    if 1 ≤ e then f.round .rn 0 (.fin false 1 0 false)
    else if e = 0 then f.round .rn 0 (.fin (m % 2 == 1) 1 0 false)
    else
      let u := 2 ^ (-e).toNat
      -- |x| mod 2 folded to [0, 1]
      let r := m % (2 * u)
      let r := if u < r then 2 * u - r else r
      if 2 * r = u then 0
      else
        -- cos(π r) = sin(π (1/2 − r))
        let neg := decide (u < 2 * r)
        let q := if neg then 2 * r - u else u - 2 * r
        roundBound f (fun p => ⟨neg, sinPiFix p (toFix p q (e - 1)), slack, -(p : Int)⟩)

/-- FTANH. -/
def tanhRound (f : FFmt) (x : Ex) : Nat :=
  match x with
  | .nan => f.nan
  | .inf n => f.round .rn 0 (.fin n 1 0 false)
  | .fin n m e st =>
    if m = 0 then f.signBit n
    else if (Nat.log2 m : Int) + e < -12 then f.round .rn 0 (.fin n m e st)
    else if 6 ≤ (Nat.log2 m : Int) + e then f.round .rn 0 (.fin n 1 0 false)
    else
      roundBound f (fun p =>
        let (g, k) := expNeg p (toFix p m (e + 1))
        let u := g / 2 ^ k
        ⟨n, (2 ^ p - u) * 2 ^ p / (2 ^ p + u), slack, -(p : Int)⟩)

/-- FSIGM. -/
def sigmRound (f : FFmt) (x : Ex) : Nat :=
  match x with
  | .nan => f.nan
  | .inf n => if n then 0 else f.round .rn 0 (.fin false 1 0 false)
  | .fin n m e _ =>
    if m = 0 then f.round .rn 0 (.fin false 1 (-1) false)
    else if 12 ≤ (Nat.log2 m : Int) + e then (if n then f.round .rn 0 (tiny false) else f.round .rn 0 (.fin false 1 0 false))
    else
      roundBound f (fun p =>
        let (g, k) := expNeg p (toFix p m e)
        let den := 2 ^ p + g / 2 ^ k
        if n then ⟨false, g * 2 ^ p / den, slack, -(k : Int) - p⟩ else ⟨false, 2 ^ (2 * p) / den, slack, -(p : Int)⟩)

end Sys2Proof.Machine
end

