-- ==== Sys2Proof/Machine/Cvt.lean ====
section
/-! DEFINITION. Class 0x2: conversions, packing, the special functions and the block-scale accumulate (R103-R112). -/
namespace Sys2Proof

/-- The source is read 64 bits wide. -/
def CvtMod.src64 (m : CvtMod) : Bool := m.sf.bits == 64 || (m.x2 && m.sf.bits == 32)

/-- The elements of a register value (R104): one, or two of 16 bits in a register or of 32 bits in a pair. -/
def Fmt.elems (f : Fmt) (x2 : Bool) (v : Nat) : List Nat :=
  if x2 then [v % 2 ^ f.bits, v / 2 ^ f.bits % 2 ^ f.bits] else [v % 2 ^ f.bits]

/-- An element's bits as a 32-bit or wider result (R104): a narrow signed integer is sign-extended. -/
def Fmt.widen (f : Fmt) (x : Nat) : Nat :=
  if f.signed ∧ f.bits < 32 ∧ 2 ^ (f.bits - 1) ≤ x then x + (2 ^ 32 - 2 ^ f.bits) else x

/-- A result of one element, or of two side by side (R104). -/
def Fmt.result (f : Fmt) (xs : List Nat) : QWord :=
  match xs with
  | [x] => BitVec.ofNat 128 (f.widen x)
  | [x, y] => BitVec.ofNat 128 (x + y * 2 ^ f.bits)
  | _ => 0#128

/-- A conversion that draws under `.rs` (R70, R105): a rounding to a floating-point format, and no exact decode. -/
def CvtMod.draws (m : CvtMod) : Bool := m.df.isFloat && !m.sf.isTapered

end Sys2Proof

namespace Sys2Proof.Machine

/-- What operand 0x300 reads as an element of class 0x2 (R26, R103): the value in both elements of a pair. -/
def immAs (f : Fmt) (o : Opnds) : DWord :=
  match f with
  | .f32 => BitVec.ofNat 64 (fimmBits o + fimmBits o * 2 ^ 32)
  | .f64 | .f16 | .bf16 => fimmAs (fmtIeee f) o
  | .i8 | .i16 | .i32 | .i64 | .n8 | .n16 | .n32 | .n64 | .t8 | .t6 | .e8 => (o.imm.setWidth 20).signExtend 64

/-- An element operand of class 0x2. -/
def State.readC (s : State) (t : Nat) (f : Fmt) (w64 : Bool) (o : Opnds) (x : Operand) : DWord × State :=
  s.read t w64 f.signed (immAs f o) x

/-- A control operand of class 0x2: 0x300 reads IMM20 sign-extended. -/
def State.readC20 (s : State) (t : Nat) (o : Opnds) (x : Operand) : Word × State :=
  let (v, s) := s.read t false false ((o.imm.setWidth 20).signExtend 64) x
  (v.setWidth 32, s)

/-! ### CVT (R105-R108) -/

/-- An infinite result made the largest finite one (R105). -/
def satFloat (f : FFmt) (sat : Bool) (x : Nat) : Nat :=
  if sat && x == f.inf false then f.maxFin false else if sat && x == f.inf true then f.maxFin true else x

/-- One conversion, with the draw of `.rs` (R105). -/
def convert (m : CvtMod) (draw : Nat) (x : Nat) : Nat :=
  let v := fmtValue m.sf m.ftz x
  match m.df with
  | .f16 | .bf16 | .f32 | .f64 =>
    let f := fmtIeee m.df
    f.flush m.ftz (satFloat f m.sat (f.round m.rnd draw v))
  | .t8 => roundTapered v 8
  | .t6 => roundTapered v 6
  | .e8 => if m.sf = .e8 then x % 256 else toE8 m.rnd v
  | .i8 | .i16 | .i32 | .i64 | .n8 | .n16 | .n32 | .n64 =>
    let w := m.df.bits
    if m.sf.isInt then
      let a : Int := if m.sf.signed then (BitVec.ofNat m.sf.bits x).toInt else (x % 2 ^ m.sf.bits : Nat)
      (fit w m.df.signed m.sat a).toNat
    else (BitVec.ofInt w (v.toInt w m.df.signed m.rnd)).toNat

/-- CVT on its elements, in order. -/
def convertAll (m : CvtMod) (seed : Word) : List Nat → List Nat × Word
  | [] => ([], seed)
  | x :: xs =>
    let (d, seed) := if m.draws then drawIf m.rnd seed else (0, seed)
    let (ys, seed) := convertAll m seed xs
    (convert m d x :: ys, seed)

/-- CVT (R104-R108). -/
def execCvt (m : CvtMod) (o : Opnds) (s : State) : Out :=
  onThread s (fun t th =>
    let (a, s1) := s.readC t m.sf m.src64 o o.a
    let (ys, seed) := convertAll m th.seed (m.sf.elems m.x2 a.toNat)
    let s2 := s1.modThread t (fun th => { th with seed := seed })
    s.retire s2 t o m.dstRegs (m.df.result ys))

/-! ### Packing (R109, R110) -/

/-- One code of PACKT. -/
def packCode (m : CvtMod) (k : Int) (x : Nat) : Nat :=
  let y := (fmtValue m.sf m.ftz x).scale k
  match m.df with
  | .t8 => roundTapered y 8
  | .t6 => roundTapered y 6
  | .i8 => (BitVec.ofInt 8 (y.toInt 8 true m.rnd)).toNat
  | .n8 | .i16 | .i32 | .i64 | .n16 | .n32 | .n64 | .f16 | .bf16 | .f32 | .f64 | .e8 =>
    (BitVec.ofInt 8 (y.toInt 8 false m.rnd)).toNat

/-- Codes side by side, `w` bits each. -/
def joinCodes (w : Nat) : List Nat → Nat
  | [] => 0
  | x :: xs => x + 2 ^ w * joinCodes w xs

/-- PACKT (R109). -/
def execPackt (m : CvtMod) (o : Opnds) (s : State) : Out :=
  onThread s (fun t _ =>
    let w64 := m.sf == .f32
    let (a, s1) := s.readC t m.sf w64 o o.a
    let (b, s2) := s1.readC t m.sf w64 o o.b
    let (c, s3) := s2.readC20 t o o.c
    let xs := m.sf.elems true a.toNat ++ m.sf.elems true b.toNat
    s.retire s3 t o 1 (BitVec.ofNat 128 (joinCodes m.df.bits (xs.map (packCode m c.toInt)))))

/-- UNPACKT (R110). -/
def execUnpackt (m : CvtMod) (o : Opnds) (s : State) : Out :=
  onThread s (fun t _ =>
    let (a, s1) := s.readC t m.sf false o o.a
    let (b, s2) := s1.readC20 t o o.b
    let f := fmtIeee m.df
    let w := m.sf.bits
    let xs := (List.range 4).map (fun i => (fmtValue m.sf false (bits a.toNat (w * i) w)).scale b.toInt)
    let (ys, s3) := s2.roundAll t f m.rnd m.ftz xs
    s.retire s3 t o (if m.df = .f32 then 4 else 2) (BitVec.ofNat 128 (joinCodes f.width ys)))

/-! ### The special functions (R111) -/

/-- A special function: one element, or the two of a packed register. -/
def special (s : State) (m : CvtMod) (o : Opnds) (fn : FFmt → Ex → Nat) : Out :=
  onThread s (fun t _ =>
    let (a, s1) := s.readC t m.sf false o o.a
    let f := fmtIeee m.df
    let one (x : Nat) : Nat := f.flush m.ftz (fn f (fmtValue m.sf m.ftz x))
    s.retire s1 t o 1 (m.df.result ((m.sf.elems m.x2 a.toNat).map one)))

/-- FRCP: correctly rounded division (R111). -/
def execFrcp (m : CvtMod) (o : Opnds) (s : State) : Out :=
  special s m o (fun f x => f.round .rn 0 ((Ex.fin false 1 0 false).div x))

/-- FRSQ. -/
def execFrsq (m : CvtMod) (o : Opnds) (s : State) : Out := special s m o (fun f x => f.round .rn 0 (rsqrtEx x))

/-- FEXP2. -/
def execFexp2 (m : CvtMod) (o : Opnds) (s : State) : Out := special s m o exp2Round

/-- FLOG2. -/
def execFlog2 (m : CvtMod) (o : Opnds) (s : State) : Out := special s m o log2Round

/-- FSINPI. -/
def execFsinpi (m : CvtMod) (o : Opnds) (s : State) : Out := special s m o sinpiRound

/-- FCOSPI. -/
def execFcospi (m : CvtMod) (o : Opnds) (s : State) : Out := special s m o cospiRound

/-- FTANH. -/
def execFtanh (m : CvtMod) (o : Opnds) (s : State) : Out := special s m o tanhRound

/-- FSIGM. -/
def execFsigm (m : CvtMod) (o : Opnds) (s : State) : Out := special s m o sigmRound

/-! ### SACC (R112) -/

/-- The scales and operands of SACC; none where the result is NaN without a rounding. -/
def saccValue (r : Rnd) (p c : Ex) (b : Word) : Option Ex :=
  let sa := bits b.toNat 0 8
  let sb := bits b.toNat 8 8
  if sa = 255 ∨ sb = 255 ∨ p.isNan ∨ c.isNan then none else some (c.add r (p.scale ((sa : Int) + sb - 254)))

/-- A value is finite. -/
def Ex.isFin : Ex → Bool
  | .fin _ _ _ _ => true
  | .nan | .inf _ => false

/-- SACC (R112). -/
def execSacc (m : CvtMod) (o : Opnds) (s : State) : Out :=
  onThread s (fun t _ =>
    let (a, s1) := s.readC t m.sf false o o.a
    let (b, s2) := s1.readC20 t o o.b
    let (c, s3) := s2.readC t .f32 false o o.c
    match saccValue m.rnd (fmtValue m.sf m.ftz a.toNat) (fmtValue .f32 m.ftz c.toNat) b with
    | none => s.retire s3 t o 1 (BitVec.ofNat 128 fF32.nan)
    | some x =>
      let (ys, s4) := s3.roundAll t fF32 m.rnd m.ftz [x]
      let d := satFloat fF32 (m.sat && x.isFin) (ys.headD 0)
      s.retire s4 t o 1 (BitVec.ofNat 128 d))

end Sys2Proof.Machine
end

