-- ==== Sys2Proof/Machine/Matrix.lean ====
section
/-! DEFINITION. Class 0x9: the matrix engine of a cluster (R228-R243) and the order of summation of a pass (R73, R74). -/
namespace Sys2Proof

/-- Bytes of one element; of a group of four for .t6 (R232). -/
def MFmt.bytes : MFmt → Nat
  | .t8 | .i8 | .n8 => 1
  | .bf16 | .f16 => 2
  | .t6 => 3

/-- Bytes of a row of `k` elements (R232). -/
def MFmt.rowBytes (f : MFmt) (k : Nat) : Nat :=
  match f with
  | .t6 => (k + 3) / 4 * 3
  | .t8 | .i8 | .n8 | .bf16 | .f16 => k * f.bytes

/-- Integer formats. -/
def MFmt.isInt : MFmt → Bool
  | .i8 | .n8 => true
  | .t8 | .t6 | .bf16 | .f16 => false

/-- The element format of a matrix format. -/
def MFmt.fmt : MFmt → Fmt
  | .t8 => .t8
  | .t6 => .t6
  | .bf16 => .bf16
  | .f16 => .f16
  | .i8 => .i8
  | .n8 => .n8

/-- Formats that may meet in a pass (R238). -/
def MFmt.pairs (a b : MFmt) : Bool := a == b || (a.isInt && b.isInt)

/-- The code of element `k` of a row (R64). -/
def MFmt.element (f : MFmt) (row : List Byte) (k : Nat) : Nat :=
  match f with
  | .t6 => Machine.bits (Machine.fieldAt row (3 * (k / 4)) 3) (6 * (k % 4)) 6
  | .t8 | .i8 | .n8 | .bf16 | .f16 => Machine.fieldAt row (k * f.bytes) f.bytes

end Sys2Proof

namespace Sys2Proof.Machine

/-! ### Ownership and checks at issue (R229, R232) -/

/-- The first row of a run outside the launch's allocations, as its tied offset. -/
def State.rowsOutside (s : State) (launch cl row rows : Nat) : Option Nat :=
  ((List.range rows).find? (fun r => (s.spadOutside launch cl (2048 * (row + r)) 1).isSome)).map
    (fun r => 2048 * (row + r))

/-- Entries that a core holds in the reservation table. -/
def Cluster.matricesOf (c : Cluster) (core : Nat) : List MatOp := c.matq.filter (fun o => o.core == core)

/-- What an instruction asks for, with its checks: step 1, step 2 with its address, step 3. -/
structure MatAsk where
  kind : MatKind
  illegal : Bool
  misaligned : Option Nat
  outside : Option Nat

/-- Issue of a class 0x9 instruction (R232). TRAPVA of MISALIGNED is the first misaligned value among the operands of check 2,
the stride itself where it alone is misaligned: R232 gives none. DESIGN CHOICE (log 163). -/
def issueMatrix (s : State) (bar : BitVec 6) (o : Opnds) (ask : State → Nat → Group → MatAsk × State) : Out :=
  onThread s (fun t th =>
    match th.group, s.groupOf t with
    | some gk, some g =>
      let cl := clusterOfCore g.core
      if 8 ≤ ((s.cluster cl).matricesOf g.core).length then { s with retry := true }
      else
        let (q, s1) := ask s t g
        if g.bars.length ≤ bar.toNat ∨ q.illegal then s.takeTrap t .illegalOperand 0#64
        else
          match q.misaligned, q.outside, engineBarFault g bar.toNat with
          | some a, _, _ => s.takeTrap t .misaligned (BitVec.ofNat 64 a)
          | none, some a, _ => s.takeTrap t .protection (BitVec.ofNat 64 a)
          | none, none, some c => s.takeTrap t c 0#64
          | none, none, none =>
            let s1 := match destReg o.d with
              | some r => s1.modThread t (·.pend r 1)
              | none => s1
            let op : MatOp := ⟨s1.nextOp, g.core, t, gk, g.launch, g.prio, th.pc, th.sup, q.kind, bar.toNat, destReg o.d,
              false, false, 0, [], .ok, 0, false, none⟩
            (({ s1 with nextOp := s1.nextOp + 1 }.engineBegin gk bar.toNat).modCluster cl (fun c =>
              { c with matq := c.matq ++ [op] })).advance t o.len
    | _, _ => s.takeTrap t .unsupportedOnLc 0#64)

/-- The first of some values that is no multiple of a size. -/
def unaligned (z : Nat) (l : List Nat) : Option Nat := l.find? (fun a => a % z != 0)

/-- MLOAD (R236). The checks of R232 name no code for a stride below the bytes of a source row: the layout of R236 then
gives rows that overlap (DEDUCED). -/
def execMload (bar : BitVec 6) (fmt : MFmt) (tr sp : Bool) (k1 n1 : BitVec 8) (o : Opnds) (s : State) : Out :=
  issueMatrix s bar o (fun s t g =>
    let (a, s) := s.read64 t o.a
    let (b, s) := s.read32 t o.b
    let k := k1.toNat + 1
    let n := n1.toNat + 1
    let row := fmt.rowBytes (if tr then k else n)
    let rows := if tr then n else k
    let src := if sp then a.toNat % 2 ^ 21 else a.toNat
    (⟨.load fmt tr sp (BitVec.ofNat 64 src) b.toNat k n, false, unaligned fmt.bytes [src, b.toNat],
      if sp then s.spadOutside g.launch (clusterOfCore g.core) src ((rows - 1) * b.toNat + row) else none⟩, s))

/-- MSWAP (R237). -/
def execMswap (bar : BitVec 6) (o : Opnds) (s : State) : Out :=
  issueMatrix s bar o (fun s _ _ => (⟨.swap, false, none, none⟩, s))

/-- MSTREAM (R238). PROTECTION names its scratchpad offset before its rows. DESIGN CHOICE (log 164). -/
def execMstream (bar : BitVec 6) (fmt : MFmt) (ow : Bool) (rows : BitVec 11) (o : Opnds) (s : State) : Out :=
  issueMatrix s bar o (fun s t g =>
    let (a, s) := s.read64 t o.a
    let (b, s) := s.read32 t o.b
    let (c, s) := s.read32 t o.c
    let cl := clusterOfCore g.core
    let src := a.toNat % 2 ^ 21
    (⟨.stream fmt ow (BitVec.ofNat 64 src) b.toNat c.toNat rows.toNat,
      decide (1024 ≤ b.toNat) || decide (1024 < b.toNat + rows.toNat), unaligned fmt.bytes [src, c.toNat],
      (s.spadOutside g.launch cl src 1).orElse (fun _ => s.rowsOutside g.launch cl b.toNat rows.toNat)⟩, s))

/-- MGATHER (R239). The offsets of its lists are taken modulo 2 MiB (DESIGN CHOICE, log 166), and PROTECTION names the gather
list before the scatter list (DESIGN CHOICE, log 164). -/
def execMgather (bar : BitVec 6) (fmt : MFmt) (ow : Bool) (rows : BitVec 11) (o : Opnds) (s : State) : Out :=
  issueMatrix s bar o (fun s t g =>
    let (a, s) := s.read64 t o.a
    let (b, s) := s.read32 t o.b
    let (c, s) := s.read32 t o.c
    let cl := clusterOfCore g.core
    let src := a.toNat % 2 ^ 21
    let gl := b.toNat % 2 ^ 21
    let sl := c.toNat % 2 ^ 21
    (⟨.gather fmt ow (BitVec.ofNat 64 src) gl sl rows.toNat, false,
      ((unaligned fmt.bytes [src]).orElse (fun _ => unaligned 4 [gl])).orElse (fun _ => unaligned 2 [sl]),
      (s.spadOutside g.launch cl gl (4 * rows.toNat)).orElse (fun _ => s.spadOutside g.launch cl sl (2 * rows.toNat))⟩, s))

/-- Bytes of a row of `c` converted elements, and of one element or .t6 group (R240). -/
def outBytes (f : Fmt) (c : Nat) : Nat := match f with
  | .t6 => (c + 3) / 4 * 3
  | .i8 | .i16 | .i32 | .i64 | .n8 | .n16 | .n32 | .n64 | .f16 | .bf16 | .f32 | .f64 | .t8 | .e8 => c * (f.bits / 8)

/-- Row and columns of MREAD and MACCLD: first row, columns, and whether a reserved bit is set (R231). -/
def rowCols (x : Word) : Nat × Nat × Bool := (bits x.toNat 0 10, bits x.toNat 10 8 + 1, decide (2 ^ 18 ≤ x.toNat))

/-- MREAD (R240). PROTECTION names its scratchpad range before its rows. DESIGN CHOICE (log 164). -/
def execMread (bar : BitVec 6) (m : MreadMod) (o : Opnds) (s : State) : Out :=
  issueMatrix s bar o (fun s t g =>
    let (a, s) := s.read64 t o.a
    let (b, s) := s.read32 t o.b
    let (c, s) := s.read32 t o.c
    let cl := clusterOfCore g.core
    let (row, cols, bad) := rowCols b
    let dst := if m.dsp then a.toNat % 2 ^ 21 else a.toNat
    let rows := m.rows.toNat
    (⟨.read m (BitVec.ofNat 64 dst) row cols c.toNat,
      bad || decide (1024 < row + rows) || decide (192 < cols) || (m.ofmt == .t6 && cols % 4 != 0),
      unaligned (outBytes m.ofmt (if m.ofmt == .t6 then 4 else 1)) [dst, c.toNat],
      (if m.dsp then s.spadOutside g.launch cl dst ((rows - 1) * c.toNat + outBytes m.ofmt cols) else none).orElse
        (fun _ => s.rowsOutside g.launch cl row rows)⟩, s))

/-- MZERO (R241). -/
def execMzero (bar : BitVec 6) (rows : BitVec 11) (o : Opnds) (s : State) : Out :=
  issueMatrix s bar o (fun s t g =>
    let (b, s) := s.read32 t o.b
    (⟨.zero b.toNat rows.toNat, decide (1024 ≤ b.toNat) || decide (1024 < b.toNat + rows.toNat), none,
      s.rowsOutside g.launch (clusterOfCore g.core) b.toNat rows.toNat⟩, s))

/-- MACCLD (R241). PROTECTION names its scratchpad range before its rows. DESIGN CHOICE (log 164). -/
def execMaccld (bar : BitVec 6) (rows : BitVec 11) (ssp : Bool) (o : Opnds) (s : State) : Out :=
  issueMatrix s bar o (fun s t g =>
    let (a, s) := s.read64 t o.a
    let (b, s) := s.read32 t o.b
    let (c, s) := s.read32 t o.c
    let cl := clusterOfCore g.core
    let (row, cols, bad) := rowCols b
    let src := if ssp then a.toNat % 2 ^ 21 else a.toNat
    (⟨.accld ssp (BitVec.ofNat 64 src) row cols c.toNat rows.toNat,
      bad || decide (1024 < row + rows.toNat) || decide (192 < cols), unaligned 4 [src, c.toNat],
      (if ssp then s.spadOutside g.launch cl src ((rows.toNat - 1) * c.toNat + 4 * cols) else none).orElse
        (fun _ => s.rowsOutside g.launch cl row rows.toNat)⟩, s))

/-! ### The arbiter (R234) -/

/-- The load lane runs MLOAD, the array lane every other operation. -/
def MatOp.isLoad (o : MatOp) : Bool :=
  match o.kind with
  | .load _ _ _ _ _ _ _ => true
  | .swap | .stream _ _ _ _ _ _ | .gather _ _ _ _ _ _ | .read _ _ _ _ _ | .zero _ _ | .accld _ _ _ _ _ _ => false

/-- An MSWAP. -/
def MatOp.isSwap (o : MatOp) : Bool :=
  match o.kind with
  | .swap => true
  | .load _ _ _ _ _ _ _ | .stream _ _ _ _ _ _ | .gather _ _ _ _ _ _ | .read _ _ _ _ _ | .zero _ _ | .accld _ _ _ _ _ _ =>
    false

/-- The heads of the cores' queues: the first operation of each that has not started. -/
def Cluster.matHeads (c : Cluster) (cl : Nat) : List MatOp :=
  (List.range 4).filterMap (fun i => c.matq.find? (fun o => o.core == 4 * cl + i && !o.granted))

/-- The head that the arbiter prefers: most urgent level, then oldest. -/
def preferred : List MatOp → Option MatOp
  | [] => none
  | o :: os =>
    match preferred os with
    | none => some o
    | some p => if o.prio < p.prio ∨ (o.prio = p.prio ∧ o.id < p.id) then some o else some p

/-- A lane is granted, if it is idle and a head belongs to it. -/
def Cluster.grantLane (c : Cluster) (cl : Nat) (load : Bool) : Cluster :=
  let busy := c.matq.any (fun o => o.granted && o.isLoad == load)
  let swapping := c.matq.any (fun o => o.granted && o.isSwap)
  if busy || (load && swapping) then c
  else
    match preferred ((c.matHeads cl).filter (fun o => o.isLoad == load)) with
    | none => c
    | some p => { c with matq := c.matq.map (fun o => if o.id = p.id then { o with granted := true } else o) }

/-- MATRIX_GRANT: the arbiter grants the idle lanes (R234). Where both are idle the array lane is granted first, so an MLOAD
beside an MSWAP waits: R234 does not order the two grants. DESIGN CHOICE (log 165). -/
def execMatrixGrant (cl : Nat) (s : State) : Out :=
  .next (s.modCluster cl (fun c => (c.grantLane cl false).grantLane cl true))

/-! ### Passes (R73, R74, R238) -/

/-- Slices of 32. -/
def slices32 {α : Type} (l : List α) : Nat → List (List α)
  | 0 => []
  | k + 1 => if l.isEmpty then [] else l.take 32 :: slices32 (l.drop 32) k

/-- One output of a pass: the accumulator after the products of an activation row with a plane column (R73, R74). -/
def passValue (af wf : MFmt) (acc : Nat) (ps : List (Nat × Nat)) : Nat :=
  let prods := ps.map (fun p => (fmtValue af.fmt false p.1).mul (fmtValue wf.fmt false p.2))
  if af.isInt then
    (acc + ((ps.map (fun p => intValue af p.1 * intValue wf p.2)).sum % (2 ^ 32 : Nat)).toNat) % 2 ^ 32
  else
    (slices32 prods (prods.length / 32 + 1)).foldl (fun acc sl =>
      let v := fF32.round .rn 0 (sumTerms .rn sl)
      fF32.round .rn 0 ((fF32.decode acc).add .rn (fF32.decode v))) acc
where
  /-- An integer element. -/
  intValue (f : MFmt) (x : Nat) : Int := if f == .i8 then (BitVec.ofNat 8 x).toInt else ((x % 256 : Nat) : Int)

/-- The row an operation notes first, with its code (R233, R238). -/
def MatOp.noteRow (o : MatOp) (row : Nat) : MatOp := if o.code = .ok then { o with code := .matrixDataError, row := row } else o

/-- A row is poisoned. -/
def Cluster.poisoned (c : Cluster) (row : Nat) : Bool := c.poison.getLsbD row

/-- Set or clear a row's poison. -/
def Cluster.setPoison (c : Cluster) (row : Nat) (b : Bool) : Cluster :=
  let m := BitVec.ofNat 1024 (2 ^ row)
  { c with poison := if b then c.poison ||| m else c.poison &&& ~~~m }

/-- Columns of a row replaced by words, from column 0. -/
def Cluster.setRow (c : Cluster) (row : Nat) (ws : List Word) : Cluster :=
  { c with acc := ws.zipIdx.foldl (fun m p => cellSet m 0#32 (192 * row + p.2) p.1) c.acc }

/-- The first columns of a row. -/
def Cluster.rowWords (c : Cluster) (row n : Nat) : List Word :=
  (List.range n).map (fun j => cellGet c.acc 0#32 (192 * row + j))

/-- What the engine's own checks find on a row: 1 an uncorrectable or residue error, 2 a corrected one (R242). -/
def State.rowCheck (s : State) (cl : Nat) : Bool × State :=
  let (k, s) := s.choose 3
  if k = 2 then (false, (List.range 4).foldl (fun s i => s.pmc (4 * cl + i) 0x30 1 none) s) else (k == 1, s)

/-- One row of a pass (R238). -/
def State.passRow (s : State) (cl : Nat) (op : MatOp) (fmt : MFmt) (ow : Bool) (row : Nat) (act : List Byte) : MatOp × State :=
  let c := s.cluster cl
  if !ow && c.poisoned row then (op.noteRow row, s)
  else
    let p := c.stationary
    let xs := (List.range p.kext).map (fmt.element act)
    let ws := (List.range p.next).map (fun n =>
      let start := if ow then 0 else (cellGet c.acc 0#32 (192 * row + n)).toNat
      let ys := (List.range p.kext).map (fun k => (cellGet p.elems 0#16 (192 * k + n)).toNat)
      BitVec.ofNat 32 (passValue fmt p.fmt start (xs.zip ys)))
    let (bad, s) := s.rowCheck cl
    if bad then (op.noteRow row, s.modCluster cl (·.setPoison row true))
    else
      (op, s.modCluster cl (fun c =>
        let c := c.setRow row ws
        if ow && p.next == 192 then c.setPoison row false else c))

/-- Why a pass cannot use the stationary plane (R238). -/
def planeFault (p : Plane) (launch : Nat) (fmt : MFmt) : Option Code :=
  match p.owner with
  | none => some .matrixFormat
  | some l => if l ≠ launch then some .protection else if fmt.pairs p.fmt then none else some .matrixFormat

/-- The matrix formats that end with MATRIX_FORMAT in reduced service (R389). -/
def State.reducedBars (s : State) (f : MFmt) : Bool :=
  s.pcb.reduced && (match f with
    | .t8 | .t6 | .i8 | .n8 => true
    | .bf16 | .f16 => false)

/-- Why a pass does not run (R238, R389). -/
def State.passFault (s : State) (cl : Nat) (op : MatOp) (fmt : MFmt) : Option Code :=
  if s.reducedBars fmt then some .matrixFormat else planeFault (s.cluster cl).stationary op.launch fmt

/-- Rows of an MSTREAM from the r-th: the fuel counts rows. -/
def State.streamRows (s : State) (cl : Nat) (op : MatOp) (fmt : MFmt) (ow : Bool) (addr row stride r : Nat) : Nat → MatOp × State
  | 0 => (op, s)
  | k + 1 =>
    let n := fmt.rowBytes (s.cluster cl).stationary.kext
    let off := (addr + r * stride) % 2 ^ 21
    if (s.spadOutside op.launch cl off n).isSome then ({ op with code := .protection, row := row + r }, s)
    else
      let (op, s) := s.passRow cl op fmt ow (row + r) ((s.cluster cl).spadRead off n)
      s.streamRows cl op fmt ow addr row stride (r + 1) k

/-- Entries of an MGATHER in list order (R239). -/
def State.gatherRows (s : State) (cl : Nat) (op : MatOp) (fmt : MFmt) (ow : Bool) (addr : Nat) :
    Nat → List (Nat × Nat) → MatOp × State
  | _, [] => (op, s)
  | i, (g, row) :: rest =>
    let n := fmt.rowBytes (s.cluster cl).stationary.kext
    let off := (addr + g) % 2 ^ 21
    if off % fmt.bytes ≠ 0 then ({ op with code := .misaligned, row := i }, s)
    else if (s.spadOutside op.launch cl off n).isSome || decide (1024 ≤ row) ||
        (s.rowsOutside op.launch cl row 1).isSome then ({ op with code := .protection, row := i }, s)
    else
      let (op, s) := s.passRow cl op fmt ow row ((s.cluster cl).spadRead off n)
      s.gatherRows cl op fmt ow addr (i + 1) rest

/-! ### Landing (R233) -/

/-- An operation leaves the table: its completion value, then its arrival. -/
def State.landMatrix (s : State) (cl : Nat) (op : MatOp) : State :=
  let s := s.modCluster cl (fun c => { c with matq := c.matq.filter (fun o => o.id != op.id) })
  let s := s.deliverOpt op.thread op.tok [BitVec.ofNat 32 (codeNum op.code + op.row * 65536)]
  s.engineArrive (.reg op.group op.bar) 1 op.code

/-- An operation that goes on standing in the table. -/
def State.keepMatrix (s : State) (cl : Nat) (op : MatOp) : State :=
  s.modCluster cl (fun c => { c with matq := c.matq.map (fun o => if o.id = op.id then op else o) })

/-- An operation ends with a code that concerns no row. -/
def MatOp.endWith (op : MatOp) (c : Code) : MatOp := { op with code := c, row := 0 }

/-- A fault of an access: the operation parks with a record, or ends (R236, R240, R302). -/
def State.matrixFault (s : State) (cl : Nat) (op : MatOp) (va : DWord) (kind : Access) (c : Code) (level : Nat)
    (e : DWord) (land : State → State) : State :=
  if parks c && !s.launchGone op.launch then
    (s.keepMatrix cl { op with parked := true }).fileFault (cl / 64)
      (s.engineFault (.matrix cl op.id) cl 4 op.thread op.pc va kind c level e)
  else land s

/-- For whom an operation works: through the matrix buffer (`ws`) or as a copy does. -/
def MatOp.agent (op : MatOp) (cl : Nat) (ws na : Bool) : Agent :=
  ⟨op.core, op.thread, op.sup, if ws then .matrix cl else .copy cl, na, .matrix cl op.id⟩

/-- Bytes of one line of a source: of scratchpad, of a weight-store page through the matrix buffer (`ws`), or of global
memory (R236, R241). -/
def State.matLine (s : State) (cl : Nat) (op : MatOp) (sp ws : Bool) (a n : Nat) : Eng (List Byte) × State :=
  let g := op.agent cl ws false
  let va : DWord := BitVec.ofNat 64 a
  if sp then (.ok ((s.cluster cl).spadRead a n), s)
  else
    match s.engXlate g va .read with
    | (.ok (e, _), s) =>
      if ws && !pteWs e then (.fault va .read .protection (s.hitLevel g.buf va) e, s) else s.engLine g va n
    | (.fault va k c l e, s) => (.fault va k c l e, s)
    | (.wait, s) => (.wait, s)

/-- The unit of a source of rows of `n` bytes that byte `pos` of the rows in order lies in: address and length to the end
of its row and line. -/
def rowUnit (a stride n pos : Nat) : Nat × Nat :=
  let at_ := a + pos / n * stride + pos % n
  (at_, min (n - pos % n) (128 - at_ % 128))

/-- Units of a source of `total` bytes read in order from where the operation stands, each handed to `f`; the fuel counts
units (R217, R236, R241). -/
def State.matUnits (s : State) (cl : Nat) (sp ws : Bool) (a stride n total : Nat)
    (f : State → MatOp → List Byte → MatOp × State) (op : MatOp) : Nat → Eng Unit × MatOp × State
  | 0 => (.ok (), op, s)
  | k + 1 =>
    if total ≤ op.pos then (.ok (), op, s)
    else
      let (at_, m) := rowUnit a stride n op.pos
      match s.matLine cl op sp ws at_ m with
      | (.ok bs, s) =>
        let (op, s) := f s op bs
        s.matUnits cl sp ws a stride n total f { op with pos := op.pos + m } k
      | (.fault va kd c l e, s) => (.fault va kd c l e, op, s)
      | (.wait, s) => (.wait, op, s)

/-- The rows that bytes in order make. -/
def rowsOf (n : Nat) (bs : List Byte) (rows : Nat) : List (List Byte) :=
  (List.range rows).map (fun i => (bs.drop (n * i)).take n)

/-- The elements of a plane from its source rows (R236). -/
def planeOf (fmt : MFmt) (tr : Bool) (k n : Nat) (rows : List (List Byte)) : AMap (BitVec 16) :=
  (List.range k).foldl (fun m i => (List.range n).foldl (fun m j =>
    let row := (rows[if tr then j else i]?).getD []
    cellSet m 0#16 (192 * i + j) (BitVec.ofNat 16 (fmt.element row (if tr then i else j)))) m) []

/-- MLOAD runs, as many units as the part chooses (R236, R389). -/
def State.runLoad (s : State) (cl : Nat) (op : MatOp) (fmt : MFmt) (tr sp : Bool) (addr : DWord) (stride k n : Nat) : State :=
  let failed (s : State) (op : MatOp) (c : Code) : State :=
    (s.modCluster cl (fun x => { x with shadow := Plane.init })).landMatrix cl (op.endWith c)
  let row := fmt.rowBytes (if tr then k else n)
  let rows := if tr then n else k
  match op.result with
  | some c => failed s op c
  | none =>
    if s.reducedBars fmt then failed s op .matrixFormat
    else
      let (m, s) := s.chooseShare (rows * row - op.pos)
      match s.matUnits cl sp (!sp) addr.toNat stride row (rows * row) (fun s op bs => ({ op with got := op.got ++ bs }, s)) op m with
      | (.ok (), op, s) =>
        if op.pos < rows * row then s.keepMatrix cl op
        else (s.modCluster cl (fun x => { x with
          shadow := ⟨fmt, k, n, some op.launch, planeOf fmt tr k n (rowsOf row op.got rows)⟩ })).landMatrix cl op
      | (.wait, op, s) => s.keepMatrix cl op
      | (.fault va kd c l e, op, s) => s.matrixFault cl op va kd c l e (fun s => failed s op c)

/-- MSWAP runs (R237). -/
def State.runSwap (s : State) (cl : Nat) (op : MatOp) : State :=
  match (s.cluster cl).shadow.owner with
  | none => s.landMatrix cl (op.endWith .matrixFormat)
  | some l =>
    if l ≠ op.launch then s.landMatrix cl (op.endWith .protection)
    else (s.modCluster cl (fun x => { x with stationary := x.shadow, shadow := x.stationary })).landMatrix cl op

/-- The entries of an MGATHER's lists. -/
def Cluster.gatherList (c : Cluster) (gl sl rows : Nat) : List (Nat × Nat) :=
  (List.range rows).map (fun i => (c.spadNat (gl + 4 * i) 4, c.spadNat (sl + 2 * i) 2))

/-- Codes packed in an output format (R64, R240). -/
def packOut (f : Fmt) (xs : List Nat) : List Byte :=
  match f with
  | .t6 => ((List.range ((xs.length + 3) / 4)).map (fun i =>
      leBytes ((List.range 4).foldl (fun acc j => acc + (xs[4 * i + j]?).getD 0 % 64 * 2 ^ (6 * j)) 0) 3)).flatten
  | .i8 | .i16 | .i32 | .i64 | .n8 | .n16 | .n32 | .n64 | .f16 | .bf16 | .f32 | .f64 | .t8 | .e8 =>
    (xs.map (fun x => leBytes x (f.bits / 8))).flatten

/-- A row as MREAD writes it (R240). -/
def Cluster.readRow (c : Cluster) (m : MreadMod) (row cols : Nat) : List Byte :=
  let cv : CvtMod := ⟨m.ofmt, if m.ai then .i32 else .f32, m.rnd, false, m.sat, false⟩
  packOut m.ofmt ((c.rowWords row cols).map (fun w => convert cv 0 w.toNat))

/-- The rows that MREAD writes are checked before it writes: an error found poisons its row (R242). -/
def State.checkRows (s : State) (cl row : Nat) : Nat → State
  | 0 => s
  | k + 1 =>
    let (bad, s) := s.rowCheck cl
    (if bad then s.modCluster cl (·.setPoison row true) else s).checkRows cl (row + 1) k

/-- The units that MREAD writes, row by row: the row and the bytes of a unit. -/
def readUnits (c : Cluster) (m : MreadMod) (addr row cols stride : Nat) : List (Nat × Nat × List Byte) :=
  (List.range m.rows.toNat).flatMap (fun r =>
    if c.poisoned (row + r) then []
    else
      let a := addr + r * stride
      let bs := c.readRow m (row + r) cols
      let n := if bs = [] then 0 else (a + bs.length - 1) / 128 - a / 128 + 1
      (List.range n).map (fun i =>
        let lo := max a (128 * (a / 128 + i))
        let hi := min (a + bs.length) (128 * (a / 128 + i + 1))
        (row + r, lo, (bs.drop (lo - a)).take (hi - lo))))

/-- Units written in order, allocating in no L2 line (R278): how it ended, the units done, whether bytes of an armed object were
skipped. R183 and R217 give the skip and BARRIER_CLOBBER, which lands with row 0, to the copy engine; MREAD into scratchpad
does the same. DESIGN CHOICE (log 53). -/
def State.writeUnits (s : State) (cl : Nat) (op : MatOp) (dsp : Bool) (hit : Bool) :
    Nat → List (Nat × Nat × List Byte) → Eng Unit × Nat × Bool × State
  | i, [] => (.ok (), i, hit, s)
  | i, (_, a, bs) :: rest =>
    if dsp then
      let (h, s) := s.spadPutSkip cl a bs
      s.writeUnits cl op dsp (hit || h) (i + 1) rest
    else
      let g := op.agent cl false true
      match s.engXlate g (BitVec.ofNat 64 a) .write with
      | (.ok (e, pa), s) =>
        if pteWs e then (.fault (BitVec.ofNat 64 a) .write .wsReadonly (s.hitLevel g.buf (BitVec.ofNat 64 a)) e, i, hit, s)
        else (s.engPut g pa bs e).writeUnits cl op dsp hit (i + 1) rest
      | (.fault va k c l e, s) => (.fault va k c l e, i, hit, s)
      | (.wait, s) => (.wait, i, hit, s)

/-- Rows written whole are cleared under `.clr` (R240). A row in whose middle a fault ends MREAD is not: R240 does not say
whether it counts as written. DESIGN CHOICE (log 167). -/
def State.clearRead (s : State) (cl : Nat) (clr : Bool) (done rest : List (Nat × Nat × List Byte)) : State :=
  if !clr then s
  else
    let open_ := rest.map (·.1)
    let rows := ((done.map (·.1)).filter (fun r => !open_.contains r)).eraseDups
    s.modCluster cl (fun c => rows.foldl (fun c r => (c.setRow r (List.replicate 192 0#32)).setPoison r false) c)

/-- MREAD runs (R240): a poisoned row writes no byte and is noted. -/
def State.runRead (s : State) (cl : Nat) (op : MatOp) (m : MreadMod) (addr : DWord) (row cols stride : Nat) : State :=
  let s := if op.begun then s else s.checkRows cl row m.rows.toNat
  let op := if op.begun then op
    else (List.range m.rows.toNat).foldl (fun (o : MatOp) r =>
      if (s.cluster cl).poisoned (row + r) then o.noteRow (row + r) else o) { op with begun := true }
  let us := readUnits (s.cluster cl) m addr.toNat row cols stride
  let stop (s : State) (i : Nat) (op : MatOp) : State := (s.clearRead cl m.clr (us.take i) (us.drop i)).landMatrix cl op
  match op.result with
  | some c => stop s op.pos (op.endWith c)
  | none =>
    let (k, s) := s.chooseShare (us.length - op.pos)
    match s.writeUnits cl op m.dsp false op.pos ((us.drop op.pos).take k) with
    | (.ok (), i, hit, s) =>
      let op := if hit && op.code == .ok then op.endWith .barrierClobber else op
      if i < us.length then s.keepMatrix cl { op with pos := i } else stop s i op
    | (.wait, i, _, s) => s.keepMatrix cl { op with pos := i }
    | (.fault va k c l e, i, _, s) =>
      let op := { op with pos := i }
      s.matrixFault cl op va k c l e (fun s => stop s i (op.endWith c))

/-- Words of a source unit enter a row of the accumulators from a column on; the row's poison is cleared once all 192
columns are in. -/
def Cluster.putWords (c : Cluster) (row col : Nat) (bs : List Byte) : Cluster :=
  let words := (List.range (bs.length / 4)).map (fun j => BitVec.ofNat 32 (fieldAt bs (4 * j) 4))
  let c := { c with acc := words.zipIdx.foldl (fun m p => cellSet m 0#32 (192 * row + col + p.2) p.1) c.acc }
  if col + bs.length / 4 = 192 then c.setPoison row false else c

/-- MACCLD runs, as many units as the part chooses (R241). -/
def State.runAccld (s : State) (cl : Nat) (op : MatOp) (sp : Bool) (addr : DWord) (row cols stride rows : Nat) : State :=
  let n := 4 * cols
  let put (s : State) (op : MatOp) (bs : List Byte) : MatOp × State :=
    (op, s.modCluster cl (·.putWords (row + op.pos / n) (op.pos % n / 4) bs))
  match op.result with
  | some c => s.landMatrix cl (op.endWith c)
  | none =>
    let (m, s) := s.chooseShare (rows * n - op.pos)
    match s.matUnits cl sp false addr.toNat stride n (rows * n) put op m with
    | (.ok (), op, s) => if op.pos < rows * n then s.keepMatrix cl op else s.landMatrix cl op
    | (.wait, op, s) => s.keepMatrix cl op
    | (.fault va k c lv e, op, s) => s.matrixFault cl op va k c lv e (fun s => s.landMatrix cl (op.endWith c))

/-- A granted operation runs. -/
def State.stepMatrix (s : State) (cl : Nat) (op : MatOp) : State :=
  match op.kind with
  | .load fmt tr sp a stride k n => s.runLoad cl op fmt tr sp a stride k n
  | .swap => if (s.cluster cl).matq.any (fun o => o.granted && o.isLoad) then s else s.runSwap cl op
  | .stream fmt ow a row stride rows =>
    match s.passFault cl op fmt with
    | some c => s.landMatrix cl (op.endWith c)
    | none =>
      let (m, s) := s.chooseShare (rows - op.pos)
      let (x, s) := s.streamRows cl op fmt ow a.toNat row stride op.pos m
      if x.code ≠ .protection ∧ op.pos + m < rows then s.keepMatrix cl { x with pos := op.pos + m } else s.landMatrix cl x
  | .gather fmt ow a gl sl rows =>
    match s.passFault cl op fmt with
    | some c => s.landMatrix cl (op.endWith c)
    | none =>
      let (op, s) := s.gatherRows cl op fmt ow a.toNat 0 ((s.cluster cl).gatherList gl sl rows)
      s.landMatrix cl op
  | .read m a row cols stride => s.runRead cl op m a row cols stride
  | .zero row rows =>
    (s.modCluster cl (fun c => (List.range rows).foldl (fun c r =>
      (c.setRow (row + r) (List.replicate 192 0#32)).setPoison (row + r) false) c)).landMatrix cl op
  | .accld sp a row cols stride rows => s.runAccld cl op sp a row cols stride rows

/-- MATRIX_LANDS: a granted operation runs to its landing, or to where it has to park or wait; MLOAD, MSTREAM, MREAD and
MACCLD also stop between rows and units as the part chooses. -/
def execMatrixLands (cl id : Nat) (s : State) : Out :=
  .next (match (s.cluster cl).matq.find? (fun o => o.id == id) with
    | none => s
    | some op => if op.parked || !op.granted then s else s.stepMatrix cl op)

end Sys2Proof.Machine
end

