-- ==== Sys2Proof/Machine/Cycle.lean ====
section
/-! DEFINITION. What happens of itself on cores and in the memory system: issue cycles (R14, R133, R154-R157), page walks
(R283, R300), and the moves of buffers, clocks and slices (R289, R291, R295, R373, R376). -/
namespace Sys2Proof.Machine

/-! ### Candidates of a quarter -/

/-- The unit that a word needs at a lane position (R79, R156): 0 the SFU, 1 the memory port, 2 the engine port, each single
in a quarter; 32 + lane the integer unit, 64 + lane the float unit. Control instructions and LDK need none. -/
def wordUnit (w : BitVec 96) (lane : Nat) : Option Nat :=
  let opc := (w.extractLsb' 84 12).toNat
  let cls := opc / 256
  if opc = 0x007 ∨ opc = 0x008 ∨ opc = 0x10C ∨ opc = 0x10D ∨ (0x203 ≤ opc ∧ opc ≤ 0x20A) then some 0
  else if cls = 0 ∨ cls = 3 then some (32 + lane)
  else if cls = 1 ∨ cls = 2 then some (64 + lane)
  else if cls = 5 ∨ cls = 6 then (if opc = 0x502 then none else some 1)
  else if 7 ≤ cls ∧ cls ≤ 13 then some 2
  else none

/-- A single unit of the quarter (R156). -/
def singleUnit (u : Nat) : Bool := decide (u < 32)

/-- Quarter cycles for which a word's unit stays busy (R79). The table gives none for the ports: 1. DESIGN CHOICE. -/
def wordOccupancy (w : BitVec 96) : Nat :=
  let opc := (w.extractLsb' 84 12).toNat
  let wide := decide (w.extractLsb' 31 3 = 2#3 ∨ w.extractLsb' 31 3 = 3#3)
  let f64 := decide (w.extractLsb' 32 2 = 1#2)
  let cvt64 := decide (w.extractLsb' 30 4 = 0xB#4 ∨ w.extractLsb' 26 4 = 0xB#4)
  match opc / 256 with
  | 0 =>
    if opc = 0x007 ∨ opc = 0x008 then (if wide then 16 else 8)
    else if opc = 0x004 ∨ opc = 0x005 ∨ opc = 0x006 then (if wide then 4 else 1)
    else if wide then 2 else 1
  | 1 => if opc = 0x10C ∨ opc = 0x10D then (if f64 then 16 else 4) else if f64 then 8 else 1
  | 2 =>
    if 0x203 ≤ opc ∧ opc ≤ 0x20A then (if w.getLsbD 20 then 8 else 4)
    else if opc = 0x200 ∧ cvt64 then 8 else 1
  | _ => 1

/-- A thread that is ready in a quarter cycle. -/
structure Candidate where
  thread : Nat
  lane : Nat
  pc : DWord
  unit : Option Nat
  /-- quarter cycles that its unit is then busy -/
  busy : Nat
  /-- its unit takes an issue -/
  free : Bool
  wait : Nat
  /-- creation order of its group, and TID -/
  age : Nat
  tid : Nat
  deriving DecidableEq, Repr

/-- Older by creation order (R154). -/
def Candidate.older (a b : Candidate) : Bool := decide (a.age < b.age) || (a.age == b.age && decide (a.tid < b.tid))

/-- Aged (R154). -/
def Candidate.aged (a : Candidate) : Bool := decide (64 ≤ a.wait)

/-- The best of a list by an order. -/
def bestBy {α : Type} (better : α → α → Bool) : List α → Option α
  | [] => none
  | x :: xs => some (xs.foldl (fun b y => if better y b then y else b) x)

/-- Largest wait count first, then the oldest. -/
def Candidate.urgent (a b : Candidate) : Bool := decide (b.wait < a.wait) || (a.wait == b.wait && a.older b)

/-- The oldest of a list. -/
def oldest (l : List Candidate) : Option Candidate := bestBy Candidate.older l

/-- The most urgent of a list. -/
def mostUrgent (l : List Candidate) : Option Candidate := bestBy Candidate.urgent l

/-- The PC that most threads hold; ties go to the PC of the oldest thread. A list in which each thread counts its peers
is ranked. -/
def commonest (l : List Candidate) : Option Candidate :=
  let n (x : Candidate) : Nat := (l.filter (fun y => y.pc == x.pc)).length
  bestBy (fun a b => decide (n b < n a) || (n a == n b && a.older b)) l

/-- PA and PB of a quarter cycle, each by a thread that holds it (R155, R156). -/
def choosePcs (l : List Candidate) : Option Candidate × Option Candidate :=
  let aged := l.filter Candidate.aged
  match (if aged = [] then commonest l else mostUrgent aged) with
  | none => (none, none)
  | some a =>
    let rest := l.filter (fun x => x.pc != a.pc)
    let agedRest := rest.filter Candidate.aged
    let b := if agedRest = [] then commonest rest else mostUrgent agedRest
    (some a, match b with
      | none => none
      | some b => if b.unit.any singleUnit && b.unit == a.unit then none else some b)

/-- pick (R155). -/
def pickAt (l : List Candidate) (pc : DWord) : Option Nat :=
  let x := l.filter (fun y => y.pc == pc)
  let aged := x.filter Candidate.aged
  (if aged = [] then oldest x else mostUrgent aged).map (·.thread)

/-- The threads of a quarter that issue, those at PA before those at PB, each in lane order (R155, R185); the flag says that
both PCs issue. -/
def issueOf (l : List Candidate) : List Nat × Bool :=
  match choosePcs l with
  | (none, _) => ([], false)
  | (some a, b) =>
    let lanes := (List.range 32).map (fun j => l.filter (fun x => x.lane == j))
    let atB (x : List Candidate) : Option Nat :=
      match b with
      | some b => if x.any (fun y => y.pc == a.pc) then none else pickAt x b.pc
      | none => none
    (lanes.filterMap (fun x => pickAt x a.pc) ++ lanes.filterMap atB, lanes.any (fun x => (atB x).isSome))

/-! ### A quarter cycle -/

/-- The word at a thread's PC and the literal word it reads, if it reads one and takes no trap without it, by the buffer
alone (R27, R33): the word, or the PC and what fails. -/
def State.nextWord (s : State) (t : Nat) (th : Thread) : Except Fetched (BitVec 96) × State :=
  match s.fetchWord false (coreOfThread t) th.pc th.sup with
  | (.word w, s) =>
    match wordReadsLiteral w, decode (th.ctx t) w (some 0#64) with
    | true, .ok _ =>
      match s.fetchWord false (coreOfThread t) (th.pc + 12#64) th.sup with
      | (.word _, s) => (.ok w, s)
      | (f, s) => (.error f, s)
    | _, _ => (.ok w, s)
  | (f, s) => (.error f, s)

/-- A PC at which a thread traps before any fetch (R33). -/
def Thread.pcTraps (th : Thread) : Bool := th.pc.extractLsb' 0 2 != 0#2 || th.pc.extractLsb' 55 9 != 0#9

/-- The registers on whose pending writes the word of a thread waits (R23): those it names, if its guard holds. -/
def Thread.awaited (th : Thread) (t : Nat) (w : BitVec 96) : List Nat :=
  match decode (th.ctx t) w (some 0#64) with
  | .ok d => if th.guardHolds d.g then d.instr.regsNamed.filter (th.pending.contains ·) else []
  | .bad _ => []

/-- What comes before a thread is a candidate (R154): its word is fetched, or its walk begins, or it parks; a RECONV hold
begins, as long as the part chooses; a scoreboard wait begins. The target of a branch is checked first (R30). -/
def State.prepare (s : State) (t : Nat) : State :=
  match s.thread? t with
  | none => s
  | some th =>
    if !s.mayIssue t th || th.pcTraps then s
    else match s.nextWord t th with
      | (.ok w, s) =>
        if th.calling.isSome then s
        else if reconvBit w && !th.reconvDone then
          let (k, s) := s.choose 17
          s.modThread t (fun th => { th with hold := k, reconvDone := true })
        else if th.awaited t w ≠ [] then s.modThread t (fun x => { x with status := .scoreboard (th.awaited t w) })
        else s
      | (.error f, s) => s.fetchFails t th.pc th.sup f

/-- The entries of its core that an engine instruction needs are there (R211, R232, R245). Of class 0xA, SCDESC, SCAN and SCANC
need one. -/
def State.engineOpen (s : State) (core : Nat) (w : BitVec 96) : Bool :=
  match (w.extractLsb' 84 12).toNat / 256 with
  | 8 => !s.copyShareFull core
  | 9 => decide (((s.cluster (clusterOfCore core)).matricesOf core).length < 8)
  | 10 => decide (2 < (w.extractLsb' 84 12).toNat % 256) || !s.scanFull core
  | _ => true

/-- A thread that may issue, with the word at its PC fetched, as a candidate; `q` is its quarter. -/
def State.candidate (s : State) (q t : Nat) (th : Thread) : Option Candidate :=
  let core := coreOfThread t
  let lane := th.tid % 32
  let make (unit : Option Nat) (busy : Nat) (free : Bool) : Candidate :=
    ⟨t, lane, th.pc, unit, busy, free, th.waitCount, (s.groupOf t).elim 0 (·.age), th.tid⟩
  if !s.mayIssue t th then none
  else if th.pcTraps then some (make none 0 true)
  else match (s.nextWord t th).1 with
    | .ok w =>
      let u := wordUnit w lane
      some (make u (wordOccupancy w)
        ((u != some 1 || !(s.core core).portHeld q) && s.engineOpen core w &&
          u.all (fun u => AMap.getD (s.core core).busy (128 * q + u) 0 == 0)))
    | .error _ => none

/-- A quarter cycle passes for the units of a quarter. -/
def Core.tickUnits (c : Core) (q : Nat) : Core :=
  { c with busy := (c.busy.map (fun p => if p.1 / 128 = q then (p.1, p.2 - 1) else p)).filter (fun p => p.2 != 0) }

/-- A candidate issues: its unit is busy (R79). -/
def Core.occupy (c : Core) (q : Nat) (x : Candidate) : Core :=
  match x.unit with
  | some u => { c with busy := AMap.set c.busy (128 * q + u) x.busy }
  | none => c

/-- Time passes for a thread of a unit whose cycle it is: STALL counts and holds run, a YIELD ends. A thread that may
issue waits. -/
def State.tickThread (s : State) (ready : List Nat) (t : Nat) : State :=
  s.modThread t (fun th =>
    let th := { th with stall := th.stall - 1, hold := th.hold - 1 }
    let th := if th.status = .yielded then th.resume else th
    if ready.contains t then { th with waitCount := th.waitCount + 1 } else th)

/-- CONV holds that have nobody left to wait for end (R133). -/
def State.endConv (s : State) (t : Nat) : State :=
  match s.thread? t with
  | none => s
  | some th =>
    if th.conv && th.hold != 0 && (s.quarterMates t th).all (fun m => s.heldAt m th.pc) then
      s.modThread t (fun x => { x with hold := 0 })
    else s

/-- The timebase advances by as much as the part chooses (R54). -/
def State.passTime (s : State) : State :=
  let (k, s) := s.choose 65536
  { s with timebase := s.timebase + BitVec.ofNat 64 k }

/-- The candidates of a list of threads. -/
def State.candidates (s : State) (q : Nat) (ts : List Nat) : List Candidate :=
  ts.filterMap (fun t => match s.thread? t with
    | some th => s.candidate q t th
    | none => none)

/-- One cycle of a quarter of a throughput core. -/
def State.quarterCycle (s : State) (core q : Nat) : State :=
  let ts := ((s.threadsOnCore core).filter (fun p => quarterOf p.2.tid == q)).map (·.1)
  let s := ts.foldl State.endConv s.passTime
  let s := if q = 0 then (s.pmc core 0x01 1 none).serveBanks core else s
  let s := ts.foldl State.prepare (s.modCore core (fun c => (c.tickUnits q).closeIssue q))
  let cs := s.candidates q ts
  let (go, two) := issueOf (cs.filter (·.free))
  let s := ts.foldl (fun s t => s.tickThread (cs.map (·.thread)) t) (if two then s.pmc core 0x03 1 none else s)
  let s := s.modCore core (fun c => (cs.filter (fun x => go.contains x.thread)).foldl (·.occupy q) c)
  { s with issue := s.issue ++ go }.settleHalts core

/-- One cycle of a latency core. Which of its ready contexts issue is the part's choice, four bits of which hold contexts
back; one that has waited 128 cycles is not held back. The watchdog counts (R310, R323). -/
def State.lcCycle (s : State) (lc : Nat) : State :=
  let ts := (List.range 4).map (lcThreadKey lc)
  let s := (s.passTime.pmc (1024 + lc) 0x01 1 none)
  let s := ts.foldl State.prepare s
  let ready := s.candidates 0 ts
  let parked := (s.thread? (lcThreadKey lc 0)).any (fun th => th.status == .faultParked || th.status == .migParked)
  let s := if (s.perch lc).entered && !parked then s.modPerch lc (fun p => { p with cycles := p.cycles + 1 }) else s
  let (back, s) := s.choose 16
  let go := (ready.filter (fun p => bits back ((p.thread - lcThreadBase) % 4) 1 == 0 || decide (128 ≤ p.wait))).map (·.thread)
  let s := ts.foldl (fun s t => s.tickThread (ready.map (·.thread)) t) s
  { s with issue := s.issue ++ go }

/-- ISSUE_CYCLE: one cycle of a unit: quarter q of throughput core c is 4c + q, a latency core 4,096 + its number. The
quarters of a core take their cycles in turn, 0 first; nothing happens out of turn. -/
def execIssueCycle (unit : Nat) (s : State) : Out :=
  .next (
    let core := unit / 4
    let q := unit % 4
    if 4096 ≤ unit then s.lcCycle (unit - 4096)
    else if (s.core core).turn ≠ q then s
    else (s.modCore core (fun c => { c with turn := (q + 1) % 4 })).quarterCycle core q)

/-! ### Page walks (R283, R300) -/

/-- What becomes of a party whose walk has been made: it goes on, waits for a die, or is parked under migration. -/
inductive WalkEnd where | done | waits | parked
  deriving DecidableEq, Repr

/-- A fault of a walk is kept for the party that asked (R300). -/
def State.keepWalked (s : State) (k : Walk) (w : Walker) (c : Code) (l : Nat) (e : DWord) : State :=
  { s with walked := s.walked ++ [⟨w.who, w.va.toNat / 65536, k.kind, c, l, e⟩] }

/-- A thread's walk ends: the thread goes on, its instruction takes the fault, or it traps or parks. -/
def State.walkThread (s : State) (k : Walk) (w : Walker) (t : Nat) (th : Thread) : WalkEnd × State :=
  let core := coreOfThread t
  let b : Buf := match k.kind with
    | .fetch => .fetch core
    | .read | .write => .data core
  let go (s : State) : State :=
    s.modThread t (fun x => { x with
      status := if isPerchCtx t && !(s.perch ((t - lcThreadBase) / 4)).entered then .idle else .ready })
  if th.status ≠ .walking then (.done, s)
  else match s.walkFill b ⟨w.va, k.kind, w.clean, w.sup, 8, false, core, false, w.classify⟩ with
    | (.ok _ _ _, s) => (.done, go s)
    | (.fault c l e, s) =>
      if w.probe then (.done, go (s.keepWalked k w c l e))
      else if c = .wsReadonly then (.done, (go s).takeTrap t .wsReadonly w.va)
      else (.done, (go s).parkThread t w.va th.pc c k.kind l e)
    | (.mig, s) =>
      let s := (go s).parkMig t
      (if (s.thread? t).any (fun th => th.status == .migParked) then .parked else .done, s)
    | (.wait, s) => (.waits, s)

/-- An engine operation still stands in its queue. -/
def State.engineStands (s : State) (p : Party) : Bool :=
  match p with
  | .thread _ => false
  | .copy cl id => (s.cluster cl).copyq.any (fun o => o.id == id)
  | .matrix cl id => (s.cluster cl).matq.any (fun o => o.id == id)

/-- An engine operation's walk ends: it goes on from its unit, or meets the fault there (R217, R300). -/
def State.walkEngine (s : State) (k : Walk) (w : Walker) (cl : Nat) : WalkEnd × State :=
  if !s.engineStands w.who then (.done, s)
  else match s.walkFill (if w.mtlb then .matrix cl else .copy cl) (engReq w.core w.va k.kind w.sup) with
    | (.ok _ _ _, s) => (.done, s)
    | (.fault c l e, s) => (.done, s.keepWalked k w c l e)
    | (.mig, s) => (.parked, s)
    | (.wait, s) => (.waits, s)

/-- A party's walk ends. -/
def State.walkParty (s : State) (k : Walk) (w : Walker) : WalkEnd × State :=
  match w.who with
  | .copy cl _ | .matrix cl _ => s.walkEngine k w cl
  | .thread t =>
    match s.thread? t with
    | none => (.done, s)
    | some th => s.walkThread k w t th

/-- The parties of a walk in order: those that go on waiting, and those parked under migration. -/
def State.walkParties (s : State) (k : Walk) : List Walker → List Walker × List Walker × State
  | [] => ([], [], s)
  | w :: ws =>
    let (r, s) := s.walkParty k w
    let (waits, parked, s) := s.walkParties k ws
    match r with
    | .done => (waits, parked, s)
    | .waits => (w :: waits, parked, s)
    | .parked => (waits, w :: parked, s)

/-- PAGE_WALK: the oldest walk of a walker's queue that is not parked. -/
def execPageWalk (walker : Nat) (s : State) : Out :=
  .next (match (s.cluster walker).walkq.find? (fun k => !k.parked) with
    | none => s
    | some k =>
      let s := s.modCluster walker (fun c => { c with walkq := c.walkq.erase k })
      let (waits, parked, s) := s.walkParties k k.parties
      s.modCluster walker (fun c => { c with walkq := c.walkq ++
        (if waits = [] then [] else [{ k with parties := waits }]) ++
        (if parked = [] then [] else [{ k with parties := parked, parked := true }]) }))

/-! ### Buffers, clocks and slices -/

/-- WC_ENTRY_SEND: an entry of a core's write-combining buffer goes to its line's home (R289). -/
def execWcEntrySend (core : Nat) (entry : Nat) (s : State) : Out :=
  .next (if entry < (s.core core).wc.length then s.wcSend core entry else s)

/-- REGION_MERGE: two halves of one former region merge (R291). -/
def execRegionMerge (die : Nat) (region : Nat) (s : State) : Out := .next (s.mergeRegions die region)

/-- FORWARDED_STORE_ACK: a forwarded store is performed at its home and acknowledged, after those sent before it between
the same dies (R368, R373). -/
def execForwardedStoreAck (store : Nat) (s : State) : Out :=
  .next (match s.forwarded[store]? with
    | none => s
    | some f => match homeDie (128 * f.line) with
      | none => s
      | some h => s.ackCount (f.die, h) ((s.forwarded.take (store + 1)).filter (·.onPair (f.die, h))).length)

/-- LTIME_TICK: a core's lease clock advances after 1,024 core cycles without another advance (R373, R375). -/
def execLtimeTick (core : Nat) (s : State) : Out :=
  .next (
    let s := if (s.core core).ltime = 0xFFFFFF#24 then s.thaw none else s
    s.modCore core (fun c => { c with ltime := c.ltime + 1#24 }))

/-- SLICE_WAKE: a slice leaves retention sleep (R376). -/
def execSliceWake (die : Nat) (slice : Nat) (s : State) : Out :=
  .next (s.modDie die (fun x => x.wakeSlice s.pcb.thawgen slice))

/-- REFRESH_SLOT: the package timebase reaches the next refresh slot (R295). -/
def execRefreshSlot (s : State) : Out :=
  .next { s with timebase := BitVec.ofNat 64 ((s.timebase.toNat / 425 + 1) * 425) }

end Sys2Proof.Machine
end

