-- ==== Sys2Proof/Machine/Fabric.lean ====
section
/-! DEFINITION. The fabric domain (R399-R410, R418): packets of other devices, answers to this one's, streams that give up
or restart, and the lanes of its ports. -/
namespace Sys2Proof.Machine

/-! ### Answers (R400, R404, R418) -/

/-- A remote access that its target refused, or that cannot be delivered, ends its group (R400). -/
def State.failRemote (s : State) (r : Remote) (c : Code) (write : Bool) : State :=
  match s.thread? r.thread with
  | none => s
  | some _ => s.fatalThread r.thread r.va r.pc c (if write then .write else .read) 0 0#64

/-- A future of another device on an after-list has resolved: OK counts towards admission, anything else cancels the
dependent; the after references go when it is admitted or resolves (R331, R341, R356). -/
def State.afterAnswer (s : State) (dep h : DWord) (c : Code) : State :=
  match s.futEntry dep with
  | none => s
  | some f =>
    if !f.after.contains h ∨ f.state ≠ .waiting then s
    else if c = .ok then (s.modFut dep (fun f => { f with ready := h :: f.ready })).futDo [.settle dep]
    else match f.launch with
      | none => s
      | some l => (s.modFut dep (fun f => { f with after := [] })).futDo
          (.resolve dep .futureCancelled zeroResults :: .ended l :: f.after.map (fun a => FutWork.drop a 1))

/-- The answer to a future operation of a thread that is held for it (R345). Where the thread is held no more, what the
operation took is dropped again. -/
def State.futureAnswer (s : State) (t : Nat) (op : FutOp) (d : Option Nat) (len : Nat) (c : Code) (v : QWord) : State :=
  let key := s.taskKey t
  if (s.thread? t).map (·.status) != some .asking then
    let s := match op with
      | .adopt h | .drop h _ => if (s.thread? t).isSome then s.trimPlace key h else s
      | _ => s
    match op with
    | .add h | .adopt h => if c = .ok then s.futDo [.drop h 1] else s
    | _ => s
  else
    let s := (s.modThread t (fun th => { th with status := .ready })).heldAnswer key op (c == .ok)
    if c ≠ .ok then s.takeTrap t c 0#64
    else
      (match op, d with
       | .set _ _, some r | .finish _ _ _, some r => s.modThread t (·.setReg r (v.setWidth 32))
       | _, _ => s).advance t len

/-- What an FSPAWN took before it failed is given back (R344). -/
def State.giveBack (s : State) (t : Nat) (q : AskedSpawn) : State :=
  if q.fault.isSome then s
  else
    let key := s.taskKey t
    let s := if (s.thread? t).isSome then s.setHoldings key ((s.holdings key).eraseP (fun p => p.1 == 0#64)) else s
    s.futDo ((q.taken ++ q.after.filter (fun h => !s.remoteHandle h)).map (fun h => FutWork.drop h 1))

/-- What another device answers about one of an FSPAWN's after handles; with the last answer the FSPAWN goes on, or takes its
fault (R344). -/
def State.spawnAnswer (s : State) (r : Remote) (q : AskedSpawn) (h : DWord) (c : Code) : State :=
  let t := r.thread
  let q := { q with
    taken := if c = .ok then h :: q.taken else q.taken
    code := if c = .ok ∨ q.code = .handleStale ∨ q.code = .fabricUnreachable then q.code else c }
  let mine (x : Remote) : Bool := x.thread == t && (match x.kind with
    | .spawn _ _ => true
    | _ => false)
  if s.remotes.any mine then
    { s with remotes := s.remotes.map (fun x => if mine x then { x with kind := match x.kind with
      | .spawn _ y => .spawn q y
      | k => k } else x) }
  else if (s.thread? t).map (·.status) != some .asking then s.giveBack t q
  else
    let s := s.modThread t (fun th => { th with status := .ready })
    if q.code = .handleStale then (s.giveBack t q).takeTrap t .handleStale 0#64
    else if q.code = .fabricUnreachable then (s.giveBack t q).failRemote r .fabricUnreachable false
    else match q.fault with
      | some f => s.takeTrap t f 0#64
      | none => if q.code ≠ .ok then (s.giveBack t q).takeTrap t .illegalOperand 0#64 else s.spawnHeld t q.record q.after q.d q.len

/-- The bytes that an instruction loaded are at hand. -/
def State.gathered (s : State) (t : Nat) (use : GatherUse) (bs : List Byte) : State :=
  match use with
  | .devices gid o => s.rgrpGathered t gid o bs
  | .spawn o => s.spawnGathered s t o bs

/-- An answer about the entry at HEAD of a die's ring (R336). -/
def State.hostAnswer (s : State) (die : Nat) (h : DWord) (c : Code) : State :=
  s.modDie die (fun d => { d with
    subAsk := d.subAsk.map (fun a => { a with waiting := a.waiting - 1, answers := a.answers ++ [(h, c)] }) })

/-- What an answer to a request does where it lands. -/
def State.landAnswer (s : State) (r : Remote) (c : Code) (v : QWord) : State :=
  let t := r.thread
  let core := coreOfThread t
  match r.kind with
  | .load reg z _ edge =>
    if c = .ok then
      ((s.deliverOpt t reg (loadWords z v.toNat)).pmc core 0x15 z.bytes (s.whoOf t)).acquireEdge core edge
    else s.failRemote r c false
  | .store => if c = .ok then s else s.failRemote r c true
  | .atom reg w64 _ sys =>
    if c = .ok then
      let s := (s.deliverOpt t reg (wordsOf v.toNat (rn w64))).pmc core 0x15 (if w64 then 8 else 4) (s.whoOf t)
      if sys then s.acquireSys core else s
    else s.failRemote r c true
  | .ship q => s.landShip q c .ok noWords
  | .mcast _ _ _ => s
  | .fpoll reg =>
    if c = .ok then
      let s := if v.getLsbD 31 then (s.clockPkg core).acquireSys core else s
      s.deliverOpt t reg [v.setWidth 32]
    else s.failRemote r c false
  | .fwait h d tok len =>
    if (s.thread? t).any (·.awaits h) then
      if c = .handleStale ∧ v = 0#128 ∧ (s.thread? t).any (·.fwaiting) = false then
        (s.modThread t (fun th => { th with status := .ready })).takeTrap t .handleStale 0#64
      else (s.acquireSys core).landFwait t d tok len c (if c = .ok then wordsOf v.toNat 4 else zeroResults)
    else s
  | .future op d len => s.futureAnswer t op d len c v
  | .after dep h => s.afterAnswer dep h c
  | .spawn q h => s.spawnAnswer r q h c
  | .host die h => s.hostAnswer die h c
  | .note a => if c = .handleStale ∨ c = .fabricUnreachable then s else s.writeNote a c (wordsOf v.toNat 4)
  | .gather use got rest n =>
    if (s.thread? t).map (·.status) != some .asking then s
    else if c = .ok then
      (s.modThread t (fun th => { th with status := .ready })).gather t use (got ++ leBytes v.toNat n)
        (fun bs s => s.gathered t use bs) rest
    else s.failRemote r c false
  | .red reg tok n =>
    (s.deliverOpt t reg (List.replicate n 0#32)).deliver t tok [codeWord c]
  | .rgrp reg _ _ => s.deliverCode t reg c

/-- The answer to the request of a tag lands once. One of the copies of an MCAST only leaves its code (R415). -/
def State.landReply (s : State) (tag : Nat) (c : Code) (v : QWord) : State :=
  match s.remotes.find? (fun r => r.tag == tag) with
  | none => s
  | some r =>
    match r.kind with
    | .mcast reg gid first =>
      { s with remotes := s.remotes.map (fun x =>
        if x.tag = tag then { x with kind := .mcast reg gid (if first = .ok then c else first) } else x) }
    | _ =>
      { s with remotes := s.remotes.filter (fun x => x.tag != tag) }.landAnswer r c v

/-- REMOTE_ACCESS_REPLY: the answer to a request lands (R400). -/
def execRemoteAccessReply (tag : Nat) (code : Code) (v : QWord) (s : State) : Out := .next (s.landReply tag code v)

/-! ### Sequence streams (R402-R406) -/

/-- A sequence number comes before another, modulo 2^32. -/
def seqBefore (a b : Nat) : Bool :=
  let d := (b + 2 ^ 32 - a) % 2 ^ 32
  decide (0 < d) && decide (d < 2 ^ 31)

/-- The delivery floor: the lowest number neither acknowledged nor given up (R405). -/
def SendChan.refloor (c : SendChan) : SendChan := { c with floor := (c.unacked.head?.map (·.seq)).getD c.next }

/-- What a stream's number below a floor becomes: skipped (R405). -/
def RecvChan.raise (c : RecvChan) (floor : Nat) : RecvChan :=
  if seqBefore c.expected floor then
    { c with expected := floor, reorder := c.reorder.filter (fun p => !seqBefore p.seq floor) }
  else c

/-- An answer to a packet; none while the stream to its source is full. -/
def State.respond (s : State) (p : Packet) (c : Code) (v : QWord) : Option State :=
  if s.linkRoom p.src 1 then some (s.sendPacket p.src 1 p.tag (.response p.tag c v)) else none

/-- A request of another device performed (R400, R415, R418); none while it has to wait. A store that is performed is
answered by its acknowledgement. -/
def State.performRequest (s : State) (p : Packet) : Option State :=
  let wait (pa : Nat) : Bool := s.awaitsDie pa || !s.linkRoom p.src 1
  match p.op with
  | .load pa n =>
    if wait pa then none
    else
      let (c, bs, s) := s.outLoad pa n
      s.respond p c (BitVec.ofNat 128 (leNat bs))
  | .store pa n v =>
    if wait pa then none
    else match s.outStore pa (leBytes v.toNat n) with
      | (.ok, s) => some s
      | (c, s) => s.respond p c 0#128
  | .atom op w64 pa v =>
    if wait pa then none
    else
      let n := if w64 then 8 else 4
      let (c, old, s) := s.outAtomic pa n (fun old => some (atomNat op n old v.toNat))
      s.respond p c (BitVec.ofNat 128 old)
  | .cas w64 pa cmp new =>
    if wait pa then none
    else
      let (c, old, s) := s.outAtomic pa (if w64 then 8 else 4) (fun old => if old = cmp.toNat then some new.toNat else none)
      s.respond p c (BitVec.ofNat 128 old)
  | .ship entry lockPa lockVa args sup prio launch =>
    if wait lockPa then none
    else match perchKey lockPa with
      | some lc =>
        if s.backed lockPa && !inWeightStore lockPa then
          let r : ShipReq := ⟨s.nextOp, entry, lockVa, lockPa, args, sup, prio, launch, none, none, 0, false,
            some (p.src, p.tag), 1024 + lc, none, true⟩
          some ({ s with nextOp := s.nextOp + 1 }.sendShip lc r)
        else some (s.sendPacket p.src 1 p.tag (.shipResult p.tag .sectionFault .protection noWords))
      | none => some (s.sendPacket p.src 1 p.tag (.shipResult p.tag .sectionFault .protection noWords))
  | .future op =>
    if !s.linkRoom p.src 1 then none
    else match s.futServe op with
      | (some (c, v), s) => s.respond p c v
      | (none, s) =>
        match op with
        | .wait h => some { s with futWaits := s.futWaits ++ [(p.src, p.tag, h)] }
        | .add _ | .addLoose _ _ | .adopt _ | .drop _ _ | .dropLoose _ | .poll _ | .check _ _ _ | .set _ _ | .bind _ _
        | .finish _ _ _ | .ended _ | .reclaim _ => some s
  | .shipResult _ _ _ _ | .response _ _ _ | .red _ _ _ _ | .rgrp _ _ => some s

/-- An answer of another device lands. -/
def State.performResponse (s : State) (p : Packet) : State :=
  match p.op with
  | .response tag c v => s.landReply tag c v
  | .shipResult tag c under words =>
    match s.remotes.find? (fun r => r.tag == tag) with
    | none => s
    | some r =>
      match r.kind with
      | .ship q => { s with remotes := s.remotes.filter (fun x => x.tag != tag) }.landShip q c under words
      | _ => s
  | .load _ _ | .store _ _ _ | .atom _ _ _ _ | .cas _ _ _ _ | .ship _ _ _ _ _ _ _ | .red _ _ _ _ | .rgrp _ _ | .future _ => s

/-- The effect of a packet in its place in sequence; class 2 is the spines', class 3 the links' (R402). -/
def State.performPacket (s : State) (p : Packet) : Option State :=
  if 8192 ≤ p.dst then some (if p.cls = 2 then s.performCollective p else s)
  else if p.cls = 0 then s.performRequest p
  else if p.cls = 1 then some (s.performResponse p)
  else some s

/-- The name of a stream where it arrives: its source, and for one to a spine the spine too. -/
def streamOf (p : Packet) : Nat := if p.dst < 8192 then p.src else 8192 * p.dst + p.src

/-- The packets of a stream whose turn has come are performed, in order; the fuel counts those held. -/
def State.drainStream (s : State) (peer cls : Nat) : Nat → State
  | 0 => s
  | k + 1 =>
    let c := s.recvChan peer cls
    match c.reorder.find? (fun p => p.seq == c.expected) with
    | none => s
    | some p =>
      match s.performPacket p with
      | none => s
      | some s => (s.modRecv peer cls (fun c => { c with
          expected := (c.expected + 1) % 2 ^ 32, reorder := c.reorder.filter (fun q => q.seq != p.seq) })).drainStream peer cls k

/-- Everything of a stream that may be performed is. -/
def State.drainAll (s : State) (peer cls : Nat) : State := s.drainStream peer cls ((s.recvChan peer cls).reorder.length)

/-- A source has restarted: its streams begin anew, packets of its old incarnation that stand undelivered are discarded
(R406). -/
def State.newSource (s : State) (peer inc : Nat) : State :=
  let old := (AMap.get? s.peerIncs peer).toList
  let s := { s with
    peerIncs := AMap.set s.peerIncs peer inc
    endedIncs := if old = [] then s.endedIncs else AMap.set s.endedIncs peer (AMap.getD s.endedIncs peer [] ++ old) }
  [0, 1, 2, 3].foldl (fun s cls => s.modRecv peer cls (fun _ => RecvChan.init)) s

/-- A packet of the source's incarnation in force: floor, duplicate, reorder buffer, delivery in order (R402-R405). -/
def State.acceptPacket (s : State) (p : Packet) : State :=
  let peer := streamOf p
  let s := s.modRecv peer p.cls (fun c => if c.begun then c.raise p.floor else { c with begun := true, expected := p.floor })
  let c := s.recvChan peer p.cls
  let s :=
    if seqBefore p.seq c.expected then
      if p.dst < 8192 then { s with pcb := { s.pcb with fabdup := s.pcb.fabdup + 1#64 } } else s
    else if c.reorder.any (fun q => q.seq == p.seq) || decide (16384 ≤ (p.seq + 2 ^ 32 - c.expected) % 2 ^ 32) then s
    else s.modRecv peer p.cls (fun c => { c with reorder := c.reorder ++ [p] })
  s.drainAll peer p.cls

/-- Where a packet arrives, if it does: at this device, unless it names another incarnation of it (R406), or at a live spine,
of this device only what it has sent and has not seen acknowledged. -/
def State.arrives (s : State) (p : Packet) : Bool :=
  decide (p.cls < 4) &&
    (if p.dst < 8192 then p.dst == s.device.toNat && (p.dstInc == 0 || p.dstInc == s.incarnation.toNat)
     else s.spineLive p.dst && (p.src != s.device.toNat || (s.sendChan p.dst p.cls).unacked.contains p))

/-- FABRIC_PACKET_DELIVER: a packet reaches this device or a spine (R402, R403, R405, R406). One from an incarnation of its
source that has ended is discarded. -/
def execFabricPacketDeliver (p : Packet) (s : State) : Out :=
  .next (
    if !s.arrives p || (AMap.getD s.endedIncs (streamOf p) []).contains p.srcInc then s
    else if AMap.get? s.peerIncs (streamOf p) = some p.srcInc then s.acceptPacket p
    else (s.newSource (streamOf p) p.srcInc).acceptPacket p)

/-- FLOOR_NOTICE: a source's floor reaches this device in a notice (R405). -/
def execFloorNotice (peer cls floor : Nat) (s : State) : Out :=
  .next (
    if (s.recvChan peer cls).begun then (s.modRecv peer cls (fun c => c.raise (floor % 2 ^ 32))).drainAll peer cls else s)

/-- An acknowledgement up to a number may come: a spine acknowledges only what it has performed. -/
def State.mayAck (s : State) (peer cls upTo : Nat) : Bool :=
  decide (peer < 8192) || seqBefore upTo (s.recvChan (8192 * peer + s.device.toNat) cls).expected

/-- FABRIC_ACK: every packet of a stream up to a number has been performed (R402); the stores among them are done. It carries
the peer's incarnation, which later packets to it name; one of another incarnation than they do acknowledges nothing
(R406). -/
def execFabricAck (source : Peer) (cls upTo : Nat) (s : State) : Out :=
  .next (
    let peer := source.peer
    let inc := source.inc
    let known := (s.sendChan peer cls).peerInc
    if !s.mayAck peer cls upTo || (known != 0 && known != inc) then s
    else
      let done (p : Packet) : Bool := !seqBefore upTo p.seq
      let acked := (s.sendChan peer cls).unacked.filter done
      let s := [0, 1, 2, 3].foldl (fun s k => s.modSend peer k (fun c => { c with peerInc := inc })) s
      let s := (s.modSend peer cls (fun c => { c with unacked := c.unacked.filter (fun p => !done p) }.refloor)).sendWaiting peer cls
      if cls = 0 then
        { s with remotes := s.remotes.filter (fun r => !(r.kind == .store && acked.any (fun p => p.tag == r.tag))) }
      else s)

/-- FABRIC_RESEND: a packet that is not acknowledged is sent again (R403). -/
def execFabricResend (peer cls seq : Nat) (s : State) : Out :=
  .next (
    if (s.sendChan peer cls).unacked.any (fun p => p.seq == seq) then
      { s with pcb := { s.pcb with fabresend := s.pcb.fabresend + 1#64 } }
    else s)

/-- What becomes of a request that was given up (R404). -/
def State.requestLost (s : State) (p : Packet) : State :=
  if p.cls ≠ 0 ∧ p.cls ≠ 2 then s
  else match s.remotes.find? (fun r => r.tag == p.tag) with
    | none => s
    | some r =>
      let gone : State := { s with remotes := s.remotes.filter (fun x => x.tag != p.tag) }
      match r.kind with
      | .fwait h _ _ _ =>
        if (s.thread? r.thread).any (·.awaits h) then gone.failRemote r .fabricUnreachable false else gone
      | .future _ _ _ => gone.failRemote r .fabricUnreachable false
      | _ => s.landReply p.tag .fabricUnreachable 0#128

/-- FABRIC_UNDELIVERABLE: a packet is given up, and the floor passes it (R404, R405). -/
def execFabricUndeliverable (peer cls seq : Nat) (s : State) : Out :=
  .next (match (s.sendChan peer cls).unacked.find? (fun p => p.seq == seq) with
    | none => s
    | some p =>
      ((s.modSend peer cls (fun c =>
        { c with unacked := c.unacked.filter (fun q => q.seq != seq) }.refloor)).sendWaiting peer cls).requestLost p)

/-- INCARNATION_CHANGE: a peer has restarted (R406). As a source, its streams to this device begin anew; as a destination,
every packet to it that is not acknowledged is given up, and numbers to it start at 0 again. -/
def execIncarnationChange (peer : Nat) (ofSource : Bool) (inc : Nat) (floors : List Nat) (s : State) : Out :=
  .next (
    if ofSource then
      if AMap.get? s.peerIncs peer = some inc ∨ (AMap.getD s.endedIncs peer []).contains inc then s
      else
        let s := s.newSource peer inc
        (floors.zipIdx.filter (fun x => decide (x.2 < 4))).foldl (fun s x =>
          s.modRecv peer x.2 (fun c => { c with begun := true, expected := x.1 % 2 ^ 32 })) s
    else
      let lost := [0, 1, 2, 3].flatMap (fun cls => (s.sendChan peer cls).unacked)
      let s := [0, 1, 2, 3].foldl (fun s cls => (s.modSend peer cls (fun c =>
        { SendChan.init with peerInc := inc, waiting := c.waiting })).sendWaiting peer cls) s
      lost.foldl State.requestLost s)

/-! ### Lanes (R409, R410) -/

/-- A lane is weak by its sample. -/
def laneWeak (errors margin : Nat) : Bool := decide (1024 < errors) || decide (margin < 16)

/-- The spare lane of a port that has one: the lane that carries no data. -/
def Port.spareLane (p : Port) : BitVec 5 := if p.spare then ~~~p.lanes else 0#5

/-- A weak lane is replaced by the spare, or dropped; below three lanes the port goes down. -/
def Port.loseLane (p : Port) (lane : Nat) : Port :=
  let rest := p.lanes &&& ~~~(1#5 <<< lane)
  if p.spare then { p with lanes := rest ||| p.spareLane, spare := false }
  else if p.active = 4#3 then { p with lanes := rest, active := 3#3 }
  else { p with lanes := 0#5, active := 0#3, up := false }

/-- LANE_SAMPLE: the active lanes of a port are sampled; lists give the corrected errors and the eye margin of each
physical lane. -/
def execLaneSample (port : Nat) (errors margins : List Nat) (s : State) : Out :=
  .next (match s.ports[port]? with
    | none => s
    | some p =>
      if !p.up || errors.length != 5 || margins.length != 5 then s
      else
        let active := (List.range 5).filter (fun i => p.lanes.getLsbD i)
        let at_ (l : List Nat) (i : Nat) : Nat := (l[i]?).getD 0
        let p1 := { p with
          corr := BitVec.ofNat 32 ((active.map (at_ errors)).sum)
          margin := BitVec.ofNat 8 (active.foldl (fun m i => min m (at_ margins i)) 255) }
        let weak := active.filter (fun i => laneWeak (at_ errors i) (at_ margins i))
        let p2 := weak.foldl (fun (q : Port) i => if q.up && q.lanes.getLsbD i then q.loseLane i else q) p1
        { s with ports := s.ports.set port p2 })

/-- PORT_RETRAIN: a port that is down comes up with the lanes that train, four active and one spare. -/
def execPortRetrain (port : Nat) (lanes : BitVec 5) (s : State) : Out :=
  .next (match s.ports[port]? with
    | none => s
    | some p =>
      let ok := (List.range 5).filter (fun i => lanes.getLsbD i)
      if p.up || decide (ok.length < 3) then s
      else
        let used := ok.take 4
        let p1 := { p with
          up := true, spare := decide (4 < ok.length), active := BitVec.ofNat 3 used.length
          lanes := used.foldl (fun (m : BitVec 5) i => m ||| (1#5 <<< i)) 0#5 }
        { s with ports := s.ports.set port p1 })

end Sys2Proof.Machine
end

