-- ==== Sys2Proof/Machine/Move.lean ====
section
/-! DEFINITION. Class 0x3: moves, predicates and special registers (R113-R119). -/
namespace Sys2Proof.Machine

/-- An element operand of class 0x3: a bit type (R20, R26). -/
def State.readB (s : State) (t : Nat) (w64 : Bool) (o : Opnds) (x : Operand) : DWord × State :=
  s.read t w64 false (imm24 o) x

/-- MOV (R114). -/
def execMov (w64 : Bool) (o : Opnds) (s : State) : Out :=
  onThread s (fun t _ =>
    let (a, s1) := s.readB t w64 o o.a
    s.retire s1 t o (rn w64) (a.setWidth 128))

/-- IMM24 inserted at 24-bit position `n` (R115). -/
def insert24 (a : DWord) (n : Nat) (v : BitVec 24) : DWord :=
  let m : DWord := BitVec.ofNat 64 ((2 ^ 24 - 1) * 2 ^ (24 * n))
  (a &&& ~~~m) ||| BitVec.ofNat 64 (v.toNat * 2 ^ (24 * n))

/-- MOVI (R115). -/
def execMovi (w64 : Bool) (n : BitVec 2) (o : Opnds) (s : State) : Out :=
  onThread s (fun t _ =>
    let (a, s1) := s.read t w64 false 0#64 o.a
    s.retire s1 t o (rn w64) ((insert24 a n.toNat o.imm).setWidth 128))

/-- SEL (R116). -/
def execSel (w64 : Bool) (o : Opnds) (s : State) : Out :=
  onThread s (fun t _ =>
    let (a, s1) := s.readB t w64 o o.a
    let (b, s2) := s1.readB t w64 o o.b
    let (c, s3) := s2.readCtl t o o.c
    s.retire s3 t o (rn w64) ((if c = 0#32 then b else a).setWidth 128))

/-- The truth table applied to each bit (R117). -/
def plopBits (tt : BitVec 8) (a b c : DWord) : DWord :=
  let k (i : Nat) : DWord := if tt.getLsbD i then BitVec.allOnes 64 else 0#64
  (k 7 &&& a &&& b &&& c) ||| (k 6 &&& a &&& b &&& ~~~c) ||| (k 5 &&& a &&& ~~~b &&& c) |||
    (k 4 &&& a &&& ~~~b &&& ~~~c) ||| (k 3 &&& ~~~a &&& b &&& c) ||| (k 2 &&& ~~~a &&& b &&& ~~~c) |||
    (k 1 &&& ~~~a &&& ~~~b &&& c) ||| (k 0 &&& ~~~a &&& ~~~b &&& ~~~c)

/-- PLOP (R117). -/
def execPlop (w64 : Bool) (tt : BitVec 8) (o : Opnds) (s : State) : Out :=
  onThread s (fun t _ =>
    let (a, s1) := s.readB t w64 o o.a
    let (b, s2) := s1.readB t w64 o o.b
    let (c, s3) := s2.readB t w64 o o.c
    let r := plopBits tt a b c
    s.retire s3 t o (rn w64) (if w64 then r.setWidth 128 else (r.setWidth 32).setWidth 128))

/-- The predicates as PMOV.get gives them: p7 reads 1 (R118). -/
def Thread.predBits (th : Thread) : Word := (1#1 ++ th.preds).setWidth 32

/-- PMOV.get (R118). -/
def execPmovGet (o : Opnds) (s : State) : Out := onThread s (fun t th => s.retire s t o 1 (th.predBits.setWidth 128))

/-- PMOV.set (R118). -/
def execPmovSet (o : Opnds) (s : State) : Out :=
  onThread s (fun t th =>
    let (a, s1) := s.read32 t o.a
    let m := o.imm.setWidth 7
    let ps := (th.preds &&& ~~~m) ||| (a.setWidth 7 &&& m)
    let s2 := s1.modThread t (fun th => { th with preds := ps })
    s.retire s2 t o 1 (({ th with preds := ps } : Thread).predBits.setWidth 128))

/-- The checks of SREAD and SWRITE on an index (R119). -/
def sregIndexFault (sup : Bool) (write : Bool) (a : Word) : Option Code :=
  let idx := bits a.toNat 0 6
  if 64 ≤ a.toNat ∨ (23 ≤ idx ∧ idx ≤ 31) then some .illegalOperand
  else if 32 ≤ idx ∧ sup = false then some .privilege
  else if sregReserved (BitVec.ofNat 6 idx) then some .illegalOperand
  else if write && !sregWritable (BitVec.ofNat 6 idx) then some .illegalOperand
  else none

/-- SREAD (R119). -/
def execSread (o : Opnds) (s : State) : Out :=
  onThread s (fun t th =>
    let (a, s1) := s.read32 t o.a
    match sregIndexFault th.sup false a with
    | some c => s.takeTrap t c 0#64
    | none =>
      let n := bits a.toNat 0 6
      -- the index's own reading of CLOCKLO comes first (R54)
      let v := match s1.thread? t with
        | some th => s1.sreg t th n
        | none => 0#32
      s.retire (s1.readShadow t n) t o 1 (v.setWidth 128))

/-- SWRITE (R119). -/
def execSwrite (o : Opnds) (s : State) : Out :=
  onThread s (fun t th =>
    let (a, s1) := s.read32 t o.a
    let (b, s2) := s1.read32 t o.b
    match sregIndexFault th.sup true a with
    | some c => s.takeTrap t c 0#64
    | none =>
      let n := bits a.toNat 0 6
      if sregRefuses n b then s.takeTrap t .illegalOperand 0#64
      else s.retire (s2.writeSreg t n b) t o 1 (b.setWidth 128))

end Sys2Proof.Machine
end

