-- ==== Sys2Proof/Machine/Submit.lean ====
section
/-! DEFINITION. Host submission (R335-R337): a die's dispatcher consumes its submission ring. -/
namespace Sys2Proof.Machine

/-- The thread number under which the host's requests to other devices go: none of the package's. -/
def hostThread : Nat := 2 ^ 40

/-! ### The ring (R335) -/

/-- A ring's header: HEAD, TAIL, SIZE, and whether it keeps the form of R335. -/
structure RingHeader where
  head : Nat
  tail : Nat
  size : Nat
  ok : Bool
  deriving DecidableEq, Repr

/-- A header read from its bytes: SIZE a power of two from 64 to 65,536, no more entries than SIZE, reserved bytes zero. -/
def ringHeader (bs : List Byte) : RingHeader :=
  let h := fieldAt bs 0 8
  let t := fieldAt bs 8 8
  let n := fieldAt bs 16 4
  let sizes := (List.range 11).map (fun i => 2 ^ (6 + i))
  ⟨h, t, n, sizes.contains n && decide ((t + 2 ^ 64 - h) % 2 ^ 64 ≤ n) && (bs.drop 20).all (· == 0#8)⟩

/-- The entry at HEAD of a die's ring: its bytes, with the ring's base and HEAD; an entry in progress is finished whatever
ENABLE and BASE have become (R396). A ring that is not as R335 says is disabled. -/
def State.ringEntry (s : State) (die : Nat) : Option (List Byte × DWord × Nat) × State :=
  let base := AMap.getD s.pcb.subringBase die 0#64
  if !s.dieUp die then (none, s)
  else match (s.die die).subAsk with
  | some a => (some (a.entry, a.base, a.head), s)
  | none =>
  if !s.pcb.subringEnable.getLsbD die then (none, s)
  else match s.partGet .read base 64 [] 2 with
    | (.fault _, s) | (.later, s) => (none, s)
    | (.bytes hb, s) =>
      let h := ringHeader hb
      if !h.ok then (none, s.pcbSet (0xE88 + 16 * die) 0)
      else if h.head = h.tail then (none, s)
      else match s.partGet .read (base + BitVec.ofNat 64 (64 + 128 * (h.head % h.size))) 128 [] 2 with
        | (.bytes e, s) => (some (e, base, h.head), s)
        | (.fault _, s) | (.later, s) => (none, s)

/-! ### Entries (R336) -/

/-- KIND of an entry. -/
def entryKind (e : List Byte) : Nat := fieldAt e 0x40 1
/-- NAFTER of an entry. -/
def entryNafter (e : List Byte) : Nat := fieldAt e 0x41 1
/-- NOTE of an entry. -/
def entryNote (e : List Byte) : DWord := BitVec.ofNat 64 (fieldAt e 0x48 8)
/-- The first handles of AFTER. -/
def entryAfter (e : List Byte) (n : Nat) : List DWord :=
  (List.range n).map (fun i => BitVec.ofNat 64 (fieldAt e (0x50 + 8 * i) 8))

/-- A reserved byte, KIND or NAFTER is out of range, or the note block is misaligned (R336). -/
def entryBad (e : List Byte) : Bool :=
  decide (4 < entryKind e) || decide (4 < entryNafter e) || (entryKind e != 2 && entryNafter e != 0) ||
    fieldAt e 0x42 6 != 0 || fieldAt e 0x70 16 != 0 || (entryNote e).toNat % 64 != 0

/-- What an entry came to: a handle and ACCEPT, and the future whose resolution its note block receives. -/
structure Accepted where
  handle : DWord
  code : Code
  future : Option DWord
  deriving DecidableEq, Repr

/-- A refused entry. -/
def refused (c : Code) : Accepted := ⟨0#64, c, none⟩

/-- An entry is consumed: its note block is written, and HEAD moves on; a future that has resolved by then writes its
results (R335, R337). -/
def State.consume (s : State) (e : List Byte) (base : DWord) (head : Nat) (a : Accepted) : State :=
  let note := entryNote e
  let s := if note = 0#64 then s else s.partPutVa note (leBytes a.handle.toNat 8 ++ leBytes (codeNum a.code) 4)
  let s := match a.future with
    | none => s
    | some h =>
      if note = 0#64 then s
      else match s.futEntry h with
        | none => if s.remoteHandle h then s.sendRequest hostThread (handleDevice h) 0 0#64 (.note note) (.future (.wait h)) else s
        | some f =>
          if f.state = FutState.resolved then s.writeNotes [note] f.status f.words
          else s.modFut h (fun f => { f with notes := f.notes ++ [note] })
  s.partPutVa base (leBytes (head + 1) 8)

/-- Other devices are asked about the futures that an entry names, which is in progress from then on; `s` where a stream
takes no packet. `due` is the refusal that the entry has met already (R336). -/
def State.subAsks (s : State) (die : Nat) (x : List Byte × DWord × Nat) (due : Option Code) (ops : List (DWord × FutOp)) : State :=
  if !s.linkSpace (ops.map (·.1)) then s
  else
    let s := s.modDie die (fun d => { d with subAsk := some ⟨x.1, x.2.1, x.2.2, due, ops.length, []⟩ })
    ops.foldl (fun s x => s.sendRequest hostThread (handleDevice x.1) 0 0#64 (.host die x.1) (.future x.2)) s

/-- An entry in progress is so no more. -/
def State.subDone (s : State) (die : Nat) : State := s.modDie die (fun d => { d with subAsk := none })

/-- What another device answers about the one future that an entry names (R336): asked once, none while the answer is
missing. -/
def State.subAnswer (s : State) (die : Nat) (x : List Byte × DWord × Nat) (op : DWord × FutOp) : Option Code × State :=
  match (s.die die).subAsk with
  | some a => if a.waiting = 0 then ((a.answers.head?.map (·.2)), s.subDone die) else (none, s)
  | none => (none, s.subAsks die x none [op])

/-- An event of a KIND: the entry at HEAD, if it is of that KIND, is refused or acted on; it waits where `act` answers
nothing, and while the ring or its note block does not translate. A KIND out of range is consumed as one that does
nothing. -/
def submission (s : State) (die kind : Nat) (act : List Byte × DWord × Nat → State → Option Accepted × State) : Out :=
  .next (match s.ringEntry die with
    | (none, s) => s
    | (some x, s) =>
      let (e, base, head) := x
      let s := s.needDie die
      let k := if 4 < entryKind e then 0 else entryKind e
      if k ≠ kind ∨ s.partLater base = true ∨ (entryNote e ≠ 0#64 ∧ s.partLater (entryNote e) = true) then s
      else if entryBad e then s.consume e base head (refused .illegalOperand)
      else match act x s with
        | (some a, s) => s.consume e base head a
        | (none, s) => s)

/-- SUBMISSION_SKIP: KIND 0 (R336). -/
def execSubmissionSkip (die : Nat) (s : State) : Out := submission s die 0 (fun _ s => (some ⟨0#64, .ok, none⟩, s))

/-- A KIND 1 entry's record is admitted with a future, or none; `s0` is left, and the entry waits, where its level is full
(R330, R336). -/
def State.admitEntry (s0 s : State) (record : List Byte) (h : DWord) : Option Accepted × State :=
  let (l, s) := s.addLaunch record h
  if !(s.launch? l).any s.queueRoom then (none, s0)
  else
    let s := s.modFut h (fun f => { f with launch := some l, taskEnded := false, state := .queued })
    (some ⟨h, .ok, if h = 0#64 then none else some h⟩, s.pushLaunch l)

/-- SUBMISSION_LAUNCH: KIND 1 (R336): the record is admitted and binds an UNBOUND future, of this device or of another. -/
def execSubmissionLaunch (die : Nat) (s : State) : Out :=
  submission s die 1 (fun x s =>
    let record := x.1.take 64
    let h : DWord := BitVec.ofNat 64 (fieldAt record 0x10 8)
    if h = 0#64 then s.admitEntry s record h
    else if s.remoteHandle h then
      match s.subAnswer die x (h, .bind h s.device.toNat) with
      | (none, s) => (none, s)
      | (some .ok, s') => s.admitEntry s' record h
      | (some c, s) => (some (refused (if c = .handleStale then .handleStale else .illegalOperand)), s)
    else match s.future h with
      | none => (some (refused .handleStale), s)
      | some f => if f.state = .unbound then s.admitEntry s record h else (some (refused .illegalOperand), s))

/-- A new entry of a die's table, the part's choice; a freed one is for the FSPAWNs that wait (R344). -/
def State.newEntry (s : State) (die : Nat) : Option Nat × State :=
  let (k, s) := s.choose 65536
  (if (s.die die).spawns = [] then (s.die die).freeFrom k else none, s)

/-- A KIND 2 entry whose after references are taken creates its future, or gives them back and is refused (R336). -/
def State.spawnEntry (s : State) (die : Nat) (record : List Byte) (after : List DWord) : Option Accepted × State :=
  match s.newEntry die with
  | (none, s) => (some (refused .budgetExceeded), s.futDo (after.map (fun h => FutWork.drop h 1)))
  | (some idx, s) =>
    let (h, s) := s.createTask die idx record after true hostThread
    (some ⟨h, .ok, some h⟩, s)

/-- A KIND 2 entry with every answer of other devices: what was due when they were asked, a stale handle first; a refusal
gives back the references that were taken (R336). -/
def State.spawnAnswered (s : State) (die : Nat) (a : SubAsk) (after : List DWord) : Option Accepted × State :=
  let codes := a.answers.map (·.2)
  let taken := after.filter (fun h => !s.remoteHandle h) ++ (a.answers.filter (fun x => x.2 == .ok)).map (·.1)
  let refuse (c : Code) : Option Accepted × State := (some (refused c), s.futDo (taken.map (fun h => FutWork.drop h 1)))
  match a.due with
  | some c => (some (refused (if codes.contains .handleStale then .handleStale else c)), s)
  | none =>
    if codes.contains .handleStale then refuse .handleStale
    else if codes.any (· != .ok) then refuse .illegalOperand
    else s.spawnEntry die (a.entry.take 64) after

/-- SUBMISSION_SPAWN: KIND 2 (R336). -/
def execSubmissionSpawn (die : Nat) (s : State) : Out :=
  submission s die 2 (fun x s =>
    let after := entryAfter x.1 (entryNafter x.1)
    match (s.die die).subAsk with
    | some a => if a.waiting = 0 then (s.subDone die).spawnAnswered die a after else (none, s)
    | none =>
      let fault := s.afterFault after
      if fault = some .handleStale then (some (refused .handleStale), s)
      else
        let due : Option Code := if (s.newEntry die).1.isNone then some .budgetExceeded else fault
        let far := after.filter s.remoteHandle
        match far, due with
        | [], some c => (some (refused c), s)
        | [], none => (s.takeAfters after).spawnEntry die (x.1.take 64) after
        | _ :: _, some c => (none, s.subAsks die x due (far.map (fun h => (h, .check h false c))))
        | _ :: _, none => if s.linkSpace far then (none, (s.takeAfters after).subAsks die x due (far.map (fun h => (h, .add h)))) else (none, s))

/-- SUBMISSION_UNBOUND: KIND 3 (R336): an UNBOUND future with one host reference. -/
def execSubmissionUnbound (die : Nat) (s : State) : Out :=
  submission s die 3 (fun _ s =>
    match s.newEntry die with
    | (none, s) => (some (refused .budgetExceeded), s)
    | (some idx, s) =>
      let gen := ((AMap.get? (s.die die).futures idx).map (·.gen)).getD 1#16
      let f : Fut := { Fut.init with live := true, gen := gen, count := 1, loose := 1 }
      let h := s.mkHandle die idx gen
      (some ⟨h, .ok, some h⟩, s.modDie die (fun d => { d with futures := AMap.set d.futures idx f })))

/-- SUBMISSION_DROP: KIND 4 (R336): a host reference is dropped as FREFD.out drops one; one of another device is dropped
there. -/
def execSubmissionDrop (die : Nat) (s : State) : Out :=
  submission s die 4 (fun x s =>
    let h := (entryAfter x.1 1).headD 0#64
    let answer (c : Code) : Accepted := ⟨0#64, if c = .ok ∨ c = .handleStale then c else .illegalOperand, none⟩
    if s.remoteHandle h then
      match s.subAnswer die x (h, .dropLoose h) with
      | (none, s) => (none, s)
      | (some c, s) => (some (answer c), s)
    else match s.futServe (.dropLoose h) with
      | (some (c, _), s) => (some (answer c), s)
      | (none, s) => (some (refused .illegalOperand), s))

end Sys2Proof.Machine
end

