-- ==== Sys2Proof/Machine/Dispatch.lean ====
section
/-! DEFINITION. The meaning of every row of the opcode table: one arm per constructor of `Instr`. -/
namespace Sys2Proof.Machine

/-- What an instruction or event does. -/
def exec (i : Instr) (s : State) : Host.Outcome State Fault Refusal :=
  match i with
  | .iadd x0 x1 x2 => Sys2Proof.Machine.execIadd x0 x1 x2 s
  | .isub x0 x1 x2 => Sys2Proof.Machine.execIsub x0 x1 x2 s
  | .iaddc x0 x1 x2 => Sys2Proof.Machine.execIaddc x0 x1 x2 s
  | .isubb x0 x1 x2 => Sys2Proof.Machine.execIsubb x0 x1 x2 s
  | .imul x0 x1 x2 => Sys2Proof.Machine.execImul x0 x1 x2 s
  | .imulh x0 x1 => Sys2Proof.Machine.execImulh x0 x1 s
  | .imad x0 x1 x2 => Sys2Proof.Machine.execImad x0 x1 x2 s
  | .idiv x0 x1 => Sys2Proof.Machine.execIdiv x0 x1 s
  | .irem x0 x1 => Sys2Proof.Machine.execIrem x0 x1 s
  | .iabs x0 x1 x2 => Sys2Proof.Machine.execIabs x0 x1 x2 s
  | .ineg x0 x1 x2 => Sys2Proof.Machine.execIneg x0 x1 x2 s
  | .imin x0 x1 => Sys2Proof.Machine.execImin x0 x1 s
  | .imax x0 x1 => Sys2Proof.Machine.execImax x0 x1 s
  | .icmp x0 x1 x2 => Sys2Proof.Machine.execIcmp x0 x1 x2 s
  | .land x0 x1 => Sys2Proof.Machine.execLand x0 x1 s
  | .lor x0 x1 => Sys2Proof.Machine.execLor x0 x1 s
  | .lxor x0 x1 => Sys2Proof.Machine.execLxor x0 x1 s
  | .landn x0 x1 => Sys2Proof.Machine.execLandn x0 x1 s
  | .lnot x0 x1 => Sys2Proof.Machine.execLnot x0 x1 s
  | .shl x0 x1 => Sys2Proof.Machine.execShl x0 x1 s
  | .shr x0 x1 => Sys2Proof.Machine.execShr x0 x1 s
  | .sar x0 x1 => Sys2Proof.Machine.execSar x0 x1 s
  | .rotl x0 x1 => Sys2Proof.Machine.execRotl x0 x1 s
  | .popc x0 x1 => Sys2Proof.Machine.execPopc x0 x1 s
  | .clz x0 x1 => Sys2Proof.Machine.execClz x0 x1 s
  | .ctz x0 x1 => Sys2Proof.Machine.execCtz x0 x1 s
  | .brev x0 x1 => Sys2Proof.Machine.execBrev x0 x1 s
  | .bfx x0 x1 => Sys2Proof.Machine.execBfx x0 x1 s
  | .bfi x0 x1 => Sys2Proof.Machine.execBfi x0 x1 s
  | .lea x0 x1 x2 => Sys2Proof.Machine.execLea x0 x1 x2 s
  | .idot4 x0 x1 x2 x3 => Sys2Proof.Machine.execIdot4 x0 x1 x2 x3 s
  | .fadd x0 x1 x2 x3 => Sys2Proof.Machine.execFadd x0 x1 x2 x3 s
  | .fsub x0 x1 x2 x3 => Sys2Proof.Machine.execFsub x0 x1 x2 x3 s
  | .fmul x0 x1 x2 x3 => Sys2Proof.Machine.execFmul x0 x1 x2 x3 s
  | .ffma x0 x1 x2 x3 => Sys2Proof.Machine.execFfma x0 x1 x2 x3 s
  | .fmin x0 x1 x2 x3 => Sys2Proof.Machine.execFmin x0 x1 x2 x3 s
  | .fmax x0 x1 x2 x3 => Sys2Proof.Machine.execFmax x0 x1 x2 x3 s
  | .fabs x0 x1 x2 => Sys2Proof.Machine.execFabs x0 x1 x2 s
  | .fneg x0 x1 x2 => Sys2Proof.Machine.execFneg x0 x1 x2 s
  | .fcmp x0 x1 x2 x3 => Sys2Proof.Machine.execFcmp x0 x1 x2 x3 s
  | .fclass x0 x1 => Sys2Proof.Machine.execFclass x0 x1 s
  | .frnd x0 x1 x2 x3 => Sys2Proof.Machine.execFrnd x0 x1 x2 x3 s
  | .fscale x0 x1 x2 x3 => Sys2Proof.Machine.execFscale x0 x1 x2 x3 s
  | .fdiv x0 x1 x2 x3 => Sys2Proof.Machine.execFdiv x0 x1 x2 x3 s
  | .fsqrt x0 x1 x2 x3 => Sys2Proof.Machine.execFsqrt x0 x1 x2 x3 s
  | .fdot2 x0 x1 x2 x3 => Sys2Proof.Machine.execFdot2 x0 x1 x2 x3 s
  | .cvt x0 x1 => Sys2Proof.Machine.execCvt x0 x1 s
  | .packt x0 x1 => Sys2Proof.Machine.execPackt x0 x1 s
  | .unpackt x0 x1 => Sys2Proof.Machine.execUnpackt x0 x1 s
  | .frcp x0 x1 => Sys2Proof.Machine.execFrcp x0 x1 s
  | .frsq x0 x1 => Sys2Proof.Machine.execFrsq x0 x1 s
  | .fexp2 x0 x1 => Sys2Proof.Machine.execFexp2 x0 x1 s
  | .flog2 x0 x1 => Sys2Proof.Machine.execFlog2 x0 x1 s
  | .fsinpi x0 x1 => Sys2Proof.Machine.execFsinpi x0 x1 s
  | .fcospi x0 x1 => Sys2Proof.Machine.execFcospi x0 x1 s
  | .ftanh x0 x1 => Sys2Proof.Machine.execFtanh x0 x1 s
  | .fsigm x0 x1 => Sys2Proof.Machine.execFsigm x0 x1 s
  | .sacc x0 x1 => Sys2Proof.Machine.execSacc x0 x1 s
  | .mov x0 x1 => Sys2Proof.Machine.execMov x0 x1 s
  | .movi x0 x1 x2 => Sys2Proof.Machine.execMovi x0 x1 x2 s
  | .sel x0 x1 => Sys2Proof.Machine.execSel x0 x1 s
  | .plop x0 x1 x2 => Sys2Proof.Machine.execPlop x0 x1 x2 s
  | .pmovGet x0 => Sys2Proof.Machine.execPmovGet x0 s
  | .pmovSet x0 => Sys2Proof.Machine.execPmovSet x0 s
  | .sread x0 => Sys2Proof.Machine.execSread x0 s
  | .swrite x0 => Sys2Proof.Machine.execSwrite x0 s
  | .bra x0 => Sys2Proof.Machine.execBra x0 s
  | .brx x0 => Sys2Proof.Machine.execBrx x0 s
  | .brxEntry x0 => Sys2Proof.Machine.execBrxEntry x0 s
  | .call x0 => Sys2Proof.Machine.execCall x0 s
  | .callx x0 => Sys2Proof.Machine.execCallx x0 s
  | .ret x0 => Sys2Proof.Machine.execRet x0 s
  | .exit x0 => Sys2Proof.Machine.execExit x0 s
  | .loop x0 => Sys2Proof.Machine.execLoop x0 s
  | .lbrk x0 => Sys2Proof.Machine.execLbrk x0 s
  | .trap x0 => Sys2Proof.Machine.execTrap x0 s
  | .yield x0 => Sys2Proof.Machine.execYield x0 s
  | .conv x0 x1 => Sys2Proof.Machine.execConv x0 x1 s
  | .nop x0 => Sys2Proof.Machine.execNop x0 s
  | .entryWordNop x0 => Sys2Proof.Machine.execEntryWordNop x0 s
  | .literalWordReached x0 => Sys2Proof.Machine.execLiteralWordReached x0 s
  | .ld x0 x1 => Sys2Proof.Machine.execLd x0 x1 s
  | .loadLands x0 => Sys2Proof.Machine.execLoadLands x0 s
  | .st x0 x1 => Sys2Proof.Machine.execSt x0 x1 s
  | .ldk x0 x1 => Sys2Proof.Machine.execLdk x0 x1 s
  | .pref x0 x1 => Sys2Proof.Machine.execPref x0 x1 s
  | .drain x0 x1 => Sys2Proof.Machine.execDrain x0 x1 s
  | .discard x0 x1 => Sys2Proof.Machine.execDiscard x0 x1 s
  | .clean x0 x1 => Sys2Proof.Machine.execClean x0 x1 s
  | .inval x0 x1 => Sys2Proof.Machine.execInval x0 x1 s
  | .atom x0 x1 x2 => Sys2Proof.Machine.execAtom x0 x1 x2 s
  | .cas x0 x1 => Sys2Proof.Machine.execCas x0 x1 s
  | .fence x0 x1 => Sys2Proof.Machine.execFence x0 x1 s
  | .acqr x0 x1 => Sys2Proof.Machine.execAcqr x0 x1 s
  | .barinit x0 x1 => Sys2Proof.Machine.execBarinit x0 x1 s
  | .bararv x0 x1 x2 => Sys2Proof.Machine.execBararv x0 x1 x2 s
  | .barwait x0 x1 => Sys2Proof.Machine.execBarwait x0 x1 s
  | .barsync x0 x1 => Sys2Proof.Machine.execBarsync x0 x1 s
  | .barstat x0 x1 => Sys2Proof.Machine.execBarstat x0 x1 s
  | .barstatClr x0 x1 => Sys2Proof.Machine.execBarstatClr x0 x1 s
  | .barstatX x0 => Sys2Proof.Machine.execBarstatX x0 s
  | .barinv x0 x1 => Sys2Proof.Machine.execBarinv x0 x1 s
  | .shfl x0 x1 x2 x3 x4 => Sys2Proof.Machine.execShfl x0 x1 x2 x3 x4 s
  | .lred x0 x1 x2 x3 x4 => Sys2Proof.Machine.execLred x0 x1 x2 x3 x4 s
  | .vote x0 x1 x2 => Sys2Proof.Machine.execVote x0 x1 x2 s
  | .spawn x0 => Sys2Proof.Machine.execSpawn x0 s
  | .spawnW x0 => Sys2Proof.Machine.execSpawnW x0 s
  | .spawnWPlaced x0 => Sys2Proof.Machine.execSpawnWPlaced x0 s
  | .cp x0 x1 x2 => Sys2Proof.Machine.execCp x0 x1 x2 s
  | .cptLd x0 x1 x2 x3 x4 => Sys2Proof.Machine.execCptLd x0 x1 x2 x3 x4 s
  | .cptSt x0 x1 x2 x3 x4 => Sys2Proof.Machine.execCptSt x0 x1 x2 x3 x4 s
  | .cpg x0 x1 x2 => Sys2Proof.Machine.execCpg x0 x1 x2 s
  | .cpfill x0 x1 x2 x3 x4 => Sys2Proof.Machine.execCpfill x0 x1 x2 x3 x4 s
  | .shchk x0 x1 => Sys2Proof.Machine.execShchk x0 x1 s
  | .copyLands x0 x1 => Sys2Proof.Machine.execCopyLands x0 x1 s
  | .mload x0 x1 x2 x3 x4 x5 x6 => Sys2Proof.Machine.execMload x0 x1 x2 x3 x4 x5 x6 s
  | .mswap x0 x1 => Sys2Proof.Machine.execMswap x0 x1 s
  | .mstream x0 x1 x2 x3 x4 => Sys2Proof.Machine.execMstream x0 x1 x2 x3 x4 s
  | .mgather x0 x1 x2 x3 x4 => Sys2Proof.Machine.execMgather x0 x1 x2 x3 x4 s
  | .mread x0 x1 x2 => Sys2Proof.Machine.execMread x0 x1 x2 s
  | .mzero x0 x1 x2 => Sys2Proof.Machine.execMzero x0 x1 x2 s
  | .maccld x0 x1 x2 x3 => Sys2Proof.Machine.execMaccld x0 x1 x2 x3 s
  | .matrixGrant x0 => Sys2Proof.Machine.execMatrixGrant x0 s
  | .matrixLands x0 x1 => Sys2Proof.Machine.execMatrixLands x0 x1 s
  | .scdesc x0 x1 => Sys2Proof.Machine.execScdesc x0 x1 s
  | .scan x0 x1 => Sys2Proof.Machine.execScan x0 x1 s
  | .scanc x0 x1 x2 x3 x4 => Sys2Proof.Machine.execScanc x0 x1 x2 x3 x4 s
  | .scanLands x0 => Sys2Proof.Machine.execScanLands x0 s
  | .chopen x0 => Sys2Proof.Machine.execChopen x0 s
  | .chclose x0 => Sys2Proof.Machine.execChclose x0 s
  | .chbar x0 => Sys2Proof.Machine.execChbar x0 s
  | .chsend x0 x1 => Sys2Proof.Machine.execChsend x0 x1 s
  | .chrecv x0 x1 => Sys2Proof.Machine.execChrecv x0 x1 s
  | .mailboxEntryArrives x0 => Sys2Proof.Machine.execMailboxEntryArrives x0 s
  | .chbarComplete x0 => Sys2Proof.Machine.execChbarComplete x0 s
  | .shipW x0 x1 => Sys2Proof.Machine.execShipW x0 x1 s
  | .shipT x0 x1 => Sys2Proof.Machine.execShipT x0 x1 s
  | .perchRequestEnqueue x0 => Sys2Proof.Machine.execPerchRequestEnqueue x0 s
  | .sectionStart x0 => Sys2Proof.Machine.execSectionStart x0 s
  | .lcret x0 => Sys2Proof.Machine.execLcret x0 s
  | .sectionWatchdog x0 => Sys2Proof.Machine.execSectionWatchdog x0 s
  | .shipLands x0 => Sys2Proof.Machine.execShipLands x0 s
  | .fspawn x0 x1 => Sys2Proof.Machine.execFspawn x0 x1 s
  | .fspawnEntryGranted x0 => Sys2Proof.Machine.execFspawnEntryGranted x0 s
  | .frefa x0 => Sys2Proof.Machine.execFrefa x0 s
  | .frefaOut x0 => Sys2Proof.Machine.execFrefaOut x0 s
  | .frefaIn x0 => Sys2Proof.Machine.execFrefaIn x0 s
  | .frefd x0 => Sys2Proof.Machine.execFrefd x0 s
  | .frefdOut x0 => Sys2Proof.Machine.execFrefdOut x0 s
  | .fwait x0 x1 => Sys2Proof.Machine.execFwait x0 x1 s
  | .fwaitLands x0 => Sys2Proof.Machine.execFwaitLands x0 s
  | .fpoll x0 => Sys2Proof.Machine.execFpoll x0 s
  | .fset x0 => Sys2Proof.Machine.execFset x0 s
  | .rpoint x0 => Sys2Proof.Machine.execRpoint x0 s
  | .tret x0 => Sys2Proof.Machine.execTret x0 s
  | .tretFatal x0 => Sys2Proof.Machine.execTretFatal x0 s
  | .freplay x0 => Sys2Proof.Machine.execFreplay x0 s
  | .freplayAll x0 => Sys2Proof.Machine.execFreplayAll x0 s
  | .fcancel x0 => Sys2Proof.Machine.execFcancel x0 s
  | .fcancelAll x0 => Sys2Proof.Machine.execFcancelAll x0 s
  | .tlbinv x0 => Sys2Proof.Machine.execTlbinv x0 s
  | .tlbinvAll x0 => Sys2Proof.Machine.execTlbinvAll x0 s
  | .tlbinvRoot x0 => Sys2Proof.Machine.execTlbinvRoot x0 s
  | .wsopen x0 => Sys2Proof.Machine.execWsopen x0 s
  | .wsWindowOpen x0 => Sys2Proof.Machine.execWsWindowOpen x0 s
  | .wsclose x0 => Sys2Proof.Machine.execWsclose x0 s
  | .ctxsave x0 => Sys2Proof.Machine.execCtxsave x0 s
  | .ctxload x0 => Sys2Proof.Machine.execCtxload x0 s
  | .halt x0 => Sys2Proof.Machine.execHalt x0 s
  | .haltResume x0 => Sys2Proof.Machine.execHaltResume x0 s
  | .red x0 x1 x2 x3 => Sys2Proof.Machine.execRed x0 x1 x2 x3 s
  | .redRoundClose x0 x1 => Sys2Proof.Machine.execRedRoundClose x0 x1 s
  | .redRoundTimeout x0 => Sys2Proof.Machine.execRedRoundTimeout x0 s
  | .mcast x0 x1 => Sys2Proof.Machine.execMcast x0 x1 s
  | .mcastLands x0 x1 => Sys2Proof.Machine.execMcastLands x0 x1 s
  | .rgrp x0 x1 x2 => Sys2Proof.Machine.execRgrp x0 x1 x2 s
  | .rgrpMc x0 => Sys2Proof.Machine.execRgrpMc x0 s
  | .rgrpFree x0 => Sys2Proof.Machine.execRgrpFree x0 s
  | .issueCycle x0 => Sys2Proof.Machine.execIssueCycle x0 s
  | .pageWalk x0 => Sys2Proof.Machine.execPageWalk x0 s
  | .wcEntrySend x0 x1 => Sys2Proof.Machine.execWcEntrySend x0 x1 s
  | .regionMerge x0 x1 => Sys2Proof.Machine.execRegionMerge x0 x1 s
  | .forwardedStoreAck x0 => Sys2Proof.Machine.execForwardedStoreAck x0 s
  | .ltimeTick x0 => Sys2Proof.Machine.execLtimeTick x0 s
  | .sliceWake x0 x1 => Sys2Proof.Machine.execSliceWake x0 x1 s
  | .refreshSlot => Sys2Proof.Machine.execRefreshSlot s
  | .dispatchHead x0 x1 => Sys2Proof.Machine.execDispatchHead x0 x1 s
  | .placeGroup x0 x1 => Sys2Proof.Machine.execPlaceGroup x0 x1 s
  | .preempt x0 x1 => Sys2Proof.Machine.execPreempt x0 x1 s
  | .familyStopped x0 => Sys2Proof.Machine.execFamilyStopped x0 s
  | .groupRetire x0 => Sys2Proof.Machine.execGroupRetire x0 s
  | .submissionSkip x0 => Sys2Proof.Machine.execSubmissionSkip x0 s
  | .submissionLaunch x0 => Sys2Proof.Machine.execSubmissionLaunch x0 s
  | .submissionSpawn x0 => Sys2Proof.Machine.execSubmissionSpawn x0 s
  | .submissionUnbound x0 => Sys2Proof.Machine.execSubmissionUnbound x0 s
  | .submissionDrop x0 => Sys2Proof.Machine.execSubmissionDrop x0 s
  | .coreFusedOff x0 x1 => Sys2Proof.Machine.execCoreFusedOff x0 x1 s
  | .dieLinkFail x0 => Sys2Proof.Machine.execDieLinkFail x0 s
  | .dieFail x0 => Sys2Proof.Machine.execDieFail x0 s
  | .hostRdmaWrite x0 x1 x2 => Sys2Proof.Machine.execHostRdmaWrite x0 x1 x2 s
  | .hostRdmaRead x0 x1 x2 => Sys2Proof.Machine.execHostRdmaRead x0 x1 x2 s
  | .hostRdmaCas x0 x1 x2 x3 => Sys2Proof.Machine.execHostRdmaCas x0 x1 x2 x3 s
  | .hostRdmaFetchAdd x0 x1 x2 => Sys2Proof.Machine.execHostRdmaFetchAdd x0 x1 x2 s
  | .hostRdmaRefusedOp x0 => Sys2Proof.Machine.execHostRdmaRefusedOp x0 s
  | .pcbRegisterWrite x0 x1 x2 => Sys2Proof.Machine.execPcbRegisterWrite x0 x1 x2 s
  | .loaderRequest => Sys2Proof.Machine.execLoaderRequest s
  | .keyLoad => Sys2Proof.Machine.execKeyLoad s
  | .keyClear => Sys2Proof.Machine.execKeyClear s
  | .attestRequest => Sys2Proof.Machine.execAttestRequest s
  | .powerArbiter x0 x1 => Sys2Proof.Machine.execPowerArbiter x0 x1 s
  | .thermalCrit => Sys2Proof.Machine.execThermalCrit s
  | .powerStateEnter x0 => Sys2Proof.Machine.execPowerStateEnter x0 s
  | .powerStateWake x0 => Sys2Proof.Machine.execPowerStateWake x0 s
  | .reset => Sys2Proof.Machine.execReset s
  | .firmwareVerify x0 => Sys2Proof.Machine.execFirmwareVerify x0 s
  | .reducedService x0 => Sys2Proof.Machine.execReducedService x0 s
  | .fullService x0 x1 x2 => Sys2Proof.Machine.execFullService x0 x1 x2 s
  | .fabricPacketDeliver x0 => Sys2Proof.Machine.execFabricPacketDeliver x0 s
  | .fabricAck x0 x1 x2 => Sys2Proof.Machine.execFabricAck x0 x1 x2 s
  | .fabricResend x0 x1 x2 => Sys2Proof.Machine.execFabricResend x0 x1 x2 s
  | .fabricUndeliverable x0 x1 x2 => Sys2Proof.Machine.execFabricUndeliverable x0 x1 x2 s
  | .floorNotice x0 x1 x2 => Sys2Proof.Machine.execFloorNotice x0 x1 x2 s
  | .incarnationChange x0 x1 x2 x3 => Sys2Proof.Machine.execIncarnationChange x0 x1 x2 x3 s
  | .remoteAccessReply x0 x1 x2 => Sys2Proof.Machine.execRemoteAccessReply x0 x1 x2 s
  | .laneSample x0 x1 x2 => Sys2Proof.Machine.execLaneSample x0 x1 x2 s
  | .portRetrain x0 x1 => Sys2Proof.Machine.execPortRetrain x0 x1 s
  | .spineLost x0 x1 => Sys2Proof.Machine.execSpineLost x0 x1 s
  | .temperatureCrossesThrottleLimit x0 => Sys2Proof.Machine.execTemperatureCrossesThrottleLimit x0 s

end Sys2Proof.Machine
end

