-- ==== Sys2Proof/Machine/Issue.lean ====
section
/-! DEFINITION. Issuing one instruction of a thread: fetch, the checks of R33 in order, guard and hints (R13, R14), the
scoreboard wait (R23), latch validity (R24), then the meaning. -/
namespace Sys2Proof.Machine

/-- What stands before an instruction of a thread: at every access but a plain load, store or atomic, what its core has sent to
the banks of the scratchpad; and at every access but a plain load, or a SHIP, whose section alone stands after them, its
earlier loads (R148, R150, R210, R326). -/
def State.ordersBefore (s : State) (t : Nat) (i : Instr) : State :=
  let s := if i.settles then s.settleCore (coreOfThread t) else s
  if i.fixes then s.fixLoads (·.thread == t) else s

/-- A decoded instruction of a thread, from check 9 on (R33): the guard, the scoreboard, latch validity, its meaning,
its hints. One that could not go on, or has to stand behind an acquire whose value is under way, has not issued. -/
def issueDecoded (s : State) (t : Nat) (d : Decoded) : Out :=
  match s.thread? t with
  | none => .fault .noThread
  | some th =>
    let latch := !d.instr.latchesRead.isEmpty
    let regs := d.instr.regsNamed.filter (th.pending.contains ·)
    if th.guardHolds d.g && !regs.isEmpty then
      .next (s.modThread t (fun th => { th with status := .scoreboard regs }))
    else
      let s0 := s
      let s := (s.modThread t (·.issued latch)).pmc (coreOfThread t) 0x02 1 (some th.sup)
      if !th.guardHolds d.g then .next ((s.advance t d.instr.len).modThread t (·.hint d.h))
      else if d.instr.latchesRead.any (fun n => !(th.latch n).valid) then .next (s.takeTrap t .latchStale 0#64)
      else if d.instr.behindAcquires && s0.acquirePending t then .next { s0 with cur := t, retry := true }
      else
        match exec d.instr ({ s with cur := t, retry := false }.ordersBefore t d.instr) with
        | .next s' =>
          if s'.retry then exec d.instr ({ s0 with cur := t, retry := false }.ordersBefore t d.instr)
          else .next (s'.modThread t (·.hint d.h))
        | .fault r => .fault r
        | .refused r => .refused r

/-- The word of a thread, and the literal it reads, decoded and issued (R11, R27, R33). -/
def issueWord (s : State) (t : Nat) (th : Thread) (w : BitVec 96) : Out :=
  if wordReadsLiteral w then
    match decode (th.ctx t) w (some 0#64) with
    | .bad c => .next (s.takeTrap t c 0#64)
    | .ok _ =>
      match s.fetchWord false (coreOfThread t) (th.pc + 12#64) th.sup with
      | (.word l, s) =>
        match decode (th.ctx t) w (literalOf l) with
        | .ok d => issueDecoded s t d
        | .bad c => .next (s.takeTrap t c 0#64)
      | (f, s) => .next (s.fetchFails t th.pc th.sup f)
  else
    match decode (th.ctx t) w none with
    | .ok d => issueDecoded s t d
    | .bad c => .next (s.takeTrap t c 0#64)

/-- One thread issues (R33). A RECONV hold lasts as long as the part chooses, up to 16 quarter
cycles. -/
def issueNow (s : State) (t : Nat) : Out :=
  match s.thread? t with
  | none => .next s
  | some th =>
    if !s.mayIssue t th then .next s
    else if th.pc.extractLsb' 0 2 ≠ 0#2 then .next (s.takeTrap t .misaligned 0#64)
    else if th.pc.extractLsb' 55 9 ≠ 0#9 then .next (s.takeTrap t .protection th.pc)
    else
      match s.fetchWord false (coreOfThread t) th.pc th.sup with
      | (.word w, s) =>
        let (bad, s) := s.checkTarget t th w
        if bad then .next s
        else if reconvBit w && !th.reconvDone then
          let (k, s) := s.choose 17
          let s := s.modThread t (fun th => { th with hold := k, reconvDone := true })
          if k = 0 then issueWord s t th w else .next s
        else issueWord s t th w
      | (f, s) => .next (s.fetchFails t th.pc th.sup f)

/-- The step of a thread: it issues, and exits if that leaves it suspended with its task reclaimed (R352). -/
def issueThread (s : State) (t : Nat) : Out :=
  match issueNow s t with
  | .next s => .next (s.reclaimThread t)
  | .fault r => .fault r
  | .refused r => .refused r

end Sys2Proof.Machine
end

