-- ==== Sys2Proof/Machine/Step.lean ====
section
/-! DEFINITION. One step of the machine: a thread of the issue cycle in progress issues; else the next event of the
agenda happens; else one of the package's own events does, by the part's choice. -/
namespace Sys2Proof.Machine

/-- One step. -/
def step (s : State) : Host.Outcome State Fault Refusal :=
  match s.issue with
  | t :: rest => issueThread { s with issue := rest } t
  | [] =>
    match s.agenda with
    | e :: es => if e.isWord then .next { s with agenda := es } else exec e { s with agenda := es }
    | [] =>
      let (k, s) := s.choose s.openEvents.length
      match s.openEvents[k]? with
      | some e => exec e s
      | none => .next s

/-! ### Placing a word for the next step -/

/-- Where `State.withFetchWord` places its word: a page of 64 KiB mapped at the address of its frame. -/
def fetchBase : Nat := 0x10000

/-- The thread that runs the placed word: thread 0 of a group in slot 0 of core 0, at supervisor privilege, with the
largest budget. -/
def fetchThread : Thread :=
  { Thread.start (some 0) 0 0 240 (BitVec.ofNat 64 fetchBase) 1#32 true 0#64 with reconvDone := true }

/-- Its group. -/
def fetchGroup : Group where
  launch := 0
  core := 0
  slot := 0
  index := 0
  gsize := 1
  budget := 240
  bars := []
  spOff := 0
  spSize := 0
  family := 0
  spawned := false
  prio := 0
  age := 0
  desc := none
  descAddr := 0#64
  stop := .running
  ending := false

/-- The translation of its page: a leaf of level 3, present, executable, classified as shared. -/
def fetchTlb : TlbEntry := ⟨fetchBase, 3, pteClassed (BitVec.ofNat 64 (fetchBase + 2 ^ 47 + 1)) 2 0⟩

/-- The state with an instruction's bits in memory, bits above `nbits` zero, and a thread that issues it in the next
step: die 0 is in service, core 0 holds the translation of the page, nothing else comes first. -/
def State.withFetchWord (s : State) (nbits w : Nat) : State :=
  let s := { s with
    issue := [0]
    threads := AMap.set s.threads 0 fetchThread
    groups := AMap.set s.groups 0 fetchGroup
    launches := AMap.set s.launches 0 Launch.blank
    pcb := { s.pcb with
      crit := false, dieState := (s.pcb.dieState &&& ~~~15#16) ||| 2#16 } }
  (s.modCore 0 (fun c => { c with itlb := [fetchTlb], halted := false, icache := [] })).partWrite fetchBase (leBytes (w % 2 ^ nbits) 24)

end Sys2Proof.Machine
end

