-- ==== Sys2Proof/Safety.lean ====
section
/-! DEFINITION. What a safe step and a safe run are: no step stops. -/
namespace Sys2Proof.Machine

/-- The step from a state answers a next state. -/
def StepSafe (s : State) : Prop := ∃ s', step s = .next s'

/-- `n` steps from a state all answer next states. -/
def RunSafe : Nat → State → Prop
  | 0, _ => True
  | n + 1, s => ∃ s', step s = .next s' ∧ RunSafe n s'

end Sys2Proof.Machine
end

