-- ==== Sys2Proof/Certificates/Slice0/Obligations.lean ====
section
/-! DEFINITION. The statements for the provers. Each is a definition `Obligations.<Name>` of type Prop; the vocabulary
they share stands before them. -/
namespace Sys2Proof.Claims
open Sys2Proof.Machine

/-! ### Who acts, and how an instruction ends -/

/-- A word executes for thread `k`, whose contents are `th`. -/
def Acts (s : State) (k : Nat) (th : Thread) : Prop := s.cur = k ∧ s.thread? k = some th

/-- A thread past a word of `len` bytes that transfers nothing (R128). -/
def passed (len : Nat) (th : Thread) : Thread :=
  match th.loopBack 4 with
  | (some start, th) => { th with pc := start }
  | (none, th) => { th with pc := th.pc + BitVec.ofNat 64 len }

/-- `n` words of a result in a destination that is no special register. -/
def written (d : Dest) (n : Nat) (v : QWord) (th : Thread) : Thread :=
  match d with
  | .gpr r => th.setRegs r.toNat (wordsOf v.toNat n)
  | .pred p => th.setPred p.toNat (v.getLsbD 0)
  | .sreg _ | .none | .latch => th

/-- D is no special register. -/
def Dest.plain (d : Dest) : Bool :=
  match d with
  | .sreg _ => false
  | .gpr _ | .pred _ | .none | .latch => true

/-! ### Elements of an integer type (R76, R81) -/

/-- Bits of an element. -/
def eltBits (ty : IType) : Nat :=
  match ty with
  | .i16x2 => 16
  | .i32 | .n32 => 32
  | .i64 | .n64 => 64

/-- Elements of an operand. -/
def lanes (ty : IType) : Nat :=
  match ty with
  | .i16x2 => 2
  | .i32 | .n32 | .i64 | .n64 => 1

/-- Bits of a value of the type. -/
def valueBits (ty : IType) : Nat := eltBits ty * lanes ty

/-- Element `l` as the exact integer of its type: signed for `.i`, unsigned for `.n`. -/
def elt (ty : IType) (l : Nat) (x : DWord) : Int :=
  let u : Int := ((x.toNat / 2 ^ (eltBits ty * l) % 2 ^ eltBits ty : Nat) : Int)
  if ty.signed && decide (2 ^ (eltBits ty - 1) ≤ u) then u - 2 ^ eltBits ty else u

/-- Element `l` as an unsigned number. -/
def uelt (ty : IType) (l : Nat) (x : DWord) : Nat := x.toNat / 2 ^ (eltBits ty * l) % 2 ^ eltBits ty

/-- The limits of a type (R56). -/
def least (ty : IType) : Int := if ty.signed then -2 ^ (eltBits ty - 1) else 0
def greatest (ty : IType) : Int := if ty.signed then 2 ^ (eltBits ty - 1) - 1 else 2 ^ eltBits ty - 1

/-- `fit` (R81), as the unsigned number of the pattern it stores. -/
def fitted (ty : IType) (sat : Bool) (v : Int) : Nat :=
  ((if sat then min (max v (least ty)) (greatest ty) else v) % 2 ^ eltBits ty).toNat

/-- A value whose element `l` is the pattern `f l`, and nothing above the elements. -/
def HasElts (ty : IType) (v : DWord) (f : Nat → Nat) : Prop :=
  v.toNat < 2 ^ valueBits ty ∧ ∀ l, l < lanes ty → uelt ty l v = f l

/-- A 0-or-1 result or a count (R77): 32 bits, element `l` in the 16 bits of its place for a packed type. -/
def HasPlaces (ty : IType) (v : DWord) (f : Nat → Nat) : Prop :=
  v.toNat < 2 ^ 32 ∧ ∀ l, l < lanes ty → v.toNat / 2 ^ (16 * l) % (if lanes ty = 2 then 2 ^ 16 else 2 ^ 32) = f l

/-- An instruction of element A. -/
def One (s : State) (k : Nat) (ty : IType) (o : Opnds) (n : Nat) (i : Instr) (P : DWord → DWord → Prop) : Prop :=
  let a := s.readElem k ty o o.a
  ∃ v : DWord, P a.1 v ∧ Machine.exec i s = .next (s.retire a.2 k o n (v.setWidth 128))

/-- An instruction of elements A and B. -/
def Two (s : State) (k : Nat) (ty : IType) (o : Opnds) (n : Nat) (i : Instr) (P : DWord → DWord → DWord → Prop) : Prop :=
  let a := s.readElem k ty o o.a
  let b := a.2.readElem k ty o o.b
  ∃ v : DWord, P a.1 b.1 v ∧ Machine.exec i s = .next (s.retire b.2 k o n (v.setWidth 128))

/-- An instruction of elements A, B and C. -/
def Three (s : State) (k : Nat) (ty : IType) (o : Opnds) (n : Nat) (i : Instr)
    (P : DWord → DWord → DWord → DWord → Prop) : Prop :=
  let a := s.readElem k ty o o.a
  let b := a.2.readElem k ty o o.b
  let c := b.2.readElem k ty o o.c
  ∃ v : DWord, P a.1 b.1 c.1 v ∧ Machine.exec i s = .next (s.retire c.2 k o n (v.setWidth 128))

/-- An instruction of element A and control B. -/
def OneCtl (s : State) (k : Nat) (ty : IType) (o : Opnds) (n : Nat) (i : Instr) (P : DWord → Word → DWord → Prop) : Prop :=
  let a := s.readElem k ty o o.a
  let b := a.2.readCtl k o o.b
  ∃ v : DWord, P a.1 b.1 v ∧ Machine.exec i s = .next (s.retire b.2 k o n (v.setWidth 128))

/-- An instruction of elements A and B and control C. -/
def TwoCtl (s : State) (k : Nat) (ty : IType) (o : Opnds) (n : Nat) (i : Instr)
    (P : DWord → DWord → Word → DWord → Prop) : Prop :=
  let a := s.readElem k ty o o.a
  let b := a.2.readElem k ty o o.b
  let c := b.2.readCtl k o o.c
  ∃ v : DWord, P a.1 b.1 c.1 v ∧ Machine.exec i s = .next (s.retire c.2 k o n (v.setWidth 128))

/-- The field that BFX and BFI name in an element of `w` bits: its position and its length (R90). -/
def fieldOf (w : Nat) (ctl : Word) : Nat × Nat :=
  let pos := ctl.toNat % 256
  let len := ctl.toNat / 256 % 256
  (pos, if w ≤ pos then 0 else min len (w - pos))

end Sys2Proof.Claims

open Sys2Proof Sys2Proof.Machine Sys2Proof.Claims

/-- R82-R84: the additive operations, as exact sums of the elements, the carry and the borrow on the unsigned patterns;
the multiplies, exact before `fit`, IMULH the upper half of the exact product; quotient and remainder at every value. -/
def Obligations.IntegerArithmeticResults : Prop :=
  ∀ (s : State) (k : Nat) (th : Thread) (ty : IType) (sat co : Bool) (o : Opnds), Acts s k th →
    Two s k ty o (rn ty.is64) (.iadd ty sat o) (fun a b v => HasElts ty v (fun l => fitted ty sat (elt ty l a + elt ty l b))) ∧
    Two s k ty o (rn ty.is64) (.isub ty sat o) (fun a b v => HasElts ty v (fun l => fitted ty sat (elt ty l a - elt ty l b))) ∧
    (ty ≠ .i16x2 →
      TwoCtl s k ty o (if co then 1 else rn ty.is64) (.iaddc ty co o) (fun a b c v =>
        let x := uelt ty 0 a + uelt ty 0 b + c.toNat % 2
        v.toNat = if co then x / 2 ^ eltBits ty else x % 2 ^ eltBits ty) ∧
      TwoCtl s k ty o (if co then 1 else rn ty.is64) (.isubb ty co o) (fun a b c v =>
        let x : Int := (uelt ty 0 a : Int) - uelt ty 0 b - (c.toNat % 2 : Nat)
        (v.toNat : Int) = if co then (if x < 0 then 1 else 0) else x % 2 ^ eltBits ty)) ∧
    Two s k ty o (rn ty.is64) (.imul ty sat o) (fun a b v => HasElts ty v (fun l => fitted ty sat (elt ty l a * elt ty l b))) ∧
    Two s k ty o (rn ty.is64) (.imulh ty o) (fun a b v =>
      HasElts ty v (fun l => (elt ty l a * elt ty l b / 2 ^ eltBits ty % 2 ^ eltBits ty).toNat)) ∧
    Three s k ty o (rn ty.is64) (.imad ty sat o) (fun a b c v =>
      HasElts ty v (fun l => fitted ty sat (elt ty l a * elt ty l b + elt ty l c))) ∧
    Two s k ty o (rn ty.is64) (.idiv ty o) (fun a b v => HasElts ty v (fun l =>
      let x := elt ty l a
      let y := elt ty l b
      if y = 0 then 2 ^ eltBits ty - 1
      else if ty.signed ∧ x = least ty ∧ y = -1 then uelt ty l a
      else (x.tdiv y % 2 ^ eltBits ty).toNat)) ∧
    Two s k ty o (rn ty.is64) (.irem ty o) (fun a b v => HasElts ty v (fun l =>
      let x := elt ty l a
      let y := elt ty l b
      if y = 0 then uelt ty l a
      else if ty.signed ∧ x = least ty ∧ y = -1 then 0
      else ((x - x.tdiv y * y) % 2 ^ eltBits ty).toNat))

/-- R85, R86: absolute value, negation, the smaller and the greater, and comparison. -/
def Obligations.OrderResults : Prop :=
  ∀ (s : State) (k : Nat) (th : Thread) (ty : IType) (sat : Bool) (cc : Cond) (o : Opnds), Acts s k th →
    One s k ty o (rn ty.is64) (.iabs ty sat o) (fun a v => HasElts ty v (fun l => fitted ty sat (elt ty l a).natAbs)) ∧
    One s k ty o (rn ty.is64) (.ineg ty sat o) (fun a v => HasElts ty v (fun l => fitted ty sat (-elt ty l a))) ∧
    Two s k ty o (rn ty.is64) (.imin ty o) (fun a b v => HasElts ty v (fun l => fitted ty false (min (elt ty l a) (elt ty l b)))) ∧
    Two s k ty o (rn ty.is64) (.imax ty o) (fun a b v => HasElts ty v (fun l => fitted ty false (max (elt ty l a) (elt ty l b)))) ∧
    Two s k ty o 1 (.icmp ty cc o) (fun a b v => HasPlaces ty v (fun l =>
      let x := elt ty l a
      let y := elt ty l b
      let holds : Bool := match cc with
        | .eq => decide (x = y)
        | .ne => decide (x ≠ y)
        | .lt => decide (x < y)
        | .le => decide (x ≤ y)
        | .gt => decide (x > y)
        | .ge => decide (x ≥ y)
      if holds then 1 else 0))

/-- R87, R89: the bitwise operations and the bit counts, bit by bit. -/
def Obligations.BitwiseResults : Prop :=
  ∀ (s : State) (k : Nat) (th : Thread) (ty : IType) (o : Opnds), Acts s k th →
    let bitsAre (v : DWord) (f : Nat → Bool) : Prop := ∀ i, v.getLsbD i = (decide (i < valueBits ty) && f i)
    Two s k ty o (rn ty.is64) (.land ty o) (fun a b v => bitsAre v (fun i => a.getLsbD i && b.getLsbD i)) ∧
    Two s k ty o (rn ty.is64) (.lor ty o) (fun a b v => bitsAre v (fun i => a.getLsbD i || b.getLsbD i)) ∧
    Two s k ty o (rn ty.is64) (.lxor ty o) (fun a b v => bitsAre v (fun i => a.getLsbD i ^^ b.getLsbD i)) ∧
    Two s k ty o (rn ty.is64) (.landn ty o) (fun a b v => bitsAre v (fun i => a.getLsbD i && !b.getLsbD i)) ∧
    One s k ty o (rn ty.is64) (.lnot ty o) (fun a v => bitsAre v (fun i => !a.getLsbD i)) ∧
    One s k ty o (rn ty.is64) (.brev ty o) (fun a v => bitsAre v (fun i =>
      a.getLsbD (eltBits ty * (i / eltBits ty) + (eltBits ty - 1 - i % eltBits ty)))) ∧
    One s k ty o 1 (.popc ty o) (fun a v => HasPlaces ty v (fun l =>
      ((List.range (eltBits ty)).filter (fun i => (uelt ty l a).testBit i)).length)) ∧
    One s k ty o 1 (.clz ty o) (fun a v => HasPlaces ty v (fun l =>
      if uelt ty l a = 0 then eltBits ty else eltBits ty - 1 - Nat.log2 (uelt ty l a))) ∧
    One s k ty o 1 (.ctz ty o) (fun a v => ∃ f : Nat → Nat, HasPlaces ty v f ∧ ∀ l, l < lanes ty →
      (uelt ty l a = 0 → f l = eltBits ty) ∧
      (uelt ty l a ≠ 0 → (uelt ty l a).testBit (f l) = true ∧ uelt ty l a % 2 ^ f l = 0))

/-- R88: the shifts and the rotate; a packed type takes an amount for each element. -/
def Obligations.ShiftResults : Prop :=
  ∀ (s : State) (k : Nat) (th : Thread) (ty : IType) (o : Opnds), Acts s k th →
    let w := eltBits ty
    let amount (b : Word) (l : Nat) : Nat := if lanes ty = 2 then b.toNat / 2 ^ (16 * l) % 2 ^ 16 else b.toNat
    OneCtl s k ty o (rn ty.is64) (.shl ty o) (fun a b v => HasElts ty v (fun l =>
      if w ≤ amount b l then 0 else uelt ty l a * 2 ^ amount b l % 2 ^ w)) ∧
    OneCtl s k ty o (rn ty.is64) (.shr ty o) (fun a b v => HasElts ty v (fun l =>
      if w ≤ amount b l then 0 else uelt ty l a / 2 ^ amount b l)) ∧
    OneCtl s k ty o (rn ty.is64) (.sar ty o) (fun a b v => HasElts ty v (fun l =>
      let u : Int := uelt ty l a
      let x : Int := if 2 ^ (w - 1) ≤ uelt ty l a then u - 2 ^ w else u
      (x / 2 ^ min (amount b l) (w - 1) % 2 ^ w).toNat)) ∧
    OneCtl s k ty o (rn ty.is64) (.rotl ty o) (fun a b v => HasElts ty v (fun l =>
      let n := amount b l % w
      uelt ty l a * 2 ^ n % 2 ^ w + uelt ty l a / 2 ^ (w - n)))

/-- R90-R92: bit fields, LEA and IDOT4. -/
def Obligations.FieldAndDotResults : Prop :=
  ∀ (s : State) (k : Nat) (th : Thread) (ty : IType) (n : BitVec 4) (mixed sat : Bool) (o : Opnds), Acts s k th →
    ty ≠ .i16x2 →
    let w := eltBits ty
    OneCtl s k ty o (rn ty.is64) (.bfx ty o) (fun a c v =>
      let p := fieldOf w c
      let f := uelt ty 0 a / 2 ^ p.1 % 2 ^ p.2
      v.toNat = if ty.signed = true ∧ p.2 ≠ 0 ∧ 2 ^ (p.2 - 1) ≤ f then f + 2 ^ w - 2 ^ p.2 else f) ∧
    TwoCtl s k ty o (rn ty.is64) (.bfi ty o) (fun a b c v =>
      let p := fieldOf w c
      ∀ i, v.getLsbD i = (decide (i < w) &&
        if p.1 ≤ i ∧ i < p.1 + p.2 then b.getLsbD (i - p.1) else a.getLsbD i)) ∧
    (let a := s.readElem k ty o o.a
     let b := a.2.readCtl k o o.b
     let c := b.2.readCtl k o o.c
     let idx : Int := if ty.signed then b.1.toInt else (b.1.toNat : Int)
     ∃ v : DWord, v.toNat = (((uelt ty 0 a.1 : Int) + idx * 2 ^ n.toNat + c.1.toInt) % 2 ^ w).toNat ∧
       Machine.exec (.lea ty n o) s = .next (s.retire c.2 k o (rn ty.is64) (v.setWidth 128))) ∧
    (ty.is64 = false →
      Three s k ty o 1 (.idot4 ty mixed sat o) (fun a b c v =>
        let byte (sg : Bool) (x : DWord) (i : Nat) : Int :=
          let u : Int := ((x.toNat / 2 ^ (8 * i) % 256 : Nat) : Int)
          if sg = true ∧ 128 ≤ u then u - 256 else u
        let p (i : Nat) : Int := byte ty.signed a i * byte (ty.signed && !mixed) b i
        v.toNat = fitted ty sat (elt ty 0 c + p 0 + p 1 + p 2 + p 3)))

/-! ### Where results go (R15, R16, R21, R49, R75, R77) -/

namespace Sys2Proof.Claims

/-- What an operand field reads at 64 bits or 32 (R18, R20): the thread's registers, the constants of its bank, the
latches, the predicates, the special registers, the small integers, `imm` for 0x300 and the literal word. -/
def fieldValue (s : State) (k : Nat) (th : Thread) (w64 signed : Bool) (imm lit : DWord) (x : Nat) : DWord :=
  let wide (v : Word) : DWord := if w64 && signed then v.signExtend 64 else v.setWidth 64
  let bank := th.cbank.toNat
  if x < 0x100 then (if w64 then th.reg (x + 1) ++ th.reg x else (th.reg x).setWidth 64)
  else if x < 0x200 then
    (if w64 then s.constWord k bank (x - 0x100 + 1) ++ s.constWord k bank (x - 0x100)
     else (s.constWord k bank (x - 0x100)).setWidth 64)
  else if x = 0x200 then th.l0.value
  else if x = 0x201 then th.l1.value
  else if x = 0x202 then th.l2.value
  else if x = 0x203 then th.l3.value
  else if x < 0x210 then (if th.pred (x - 0x208) then 1#64 else 0#64)
  else if x < 0x280 then wide (s.sreg k th (x - 0x240))
  else if x < 0x2C0 then BitVec.ofNat 64 (x - 0x280)
  else if x < 0x300 then BitVec.ofInt 64 ((x : Int) - 0x300)
  else if x = 0x300 then imm
  else if x = 0x301 then wide (lit.extractLsb' 0 32)
  else if x = 0x302 then wide (lit.extractLsb' 32 32)
  else lit

end Sys2Proof.Claims

/-- R49, R50, R16: a register write is what the next read gives, no other register changes, g240-g255 read zero and
discard; p0-p6 take bit 0 of a result, p7 reads 1 and discards writes, and one predicate write leaves the others.
R18, R20, R26, R54: what each operand field reads at each width, with what 0x300 reads in classes 0x0, 0x1 and 0x3; a
read changes nothing but CLOCKLO's, which loads the clock shadow. R53, R55: what the special registers hold. R48, R70: a
thread at its start. -/
def Obligations.RegisterAndPredicateWrites : Prop :=
  (∀ (s : State) (k x : Nat) (th : Thread) (w64 signed : Bool) (imm lit : DWord), s.thread? k = some th →
    operandFieldOk (BitVec.ofNat 10 x) = true → x < 1024 →
    let o := Operand.ofField (BitVec.ofNat 10 x) lit
    (s.read k w64 signed imm o).1 = fieldValue s k th w64 signed imm lit x ∧
    (s.read k w64 signed imm o).2 =
      (if x = 0x24E then s.setThread k { th with shadow := s.timebase.extractLsb' 32 32 } else s)) ∧
  (∀ (s : State) (k : Nat) (ty : IType) (o : Opnds) (x : Operand),
    let v := s.read k ty.is64 ty.signed (o.imm.signExtend 64) x
    let c := s.read k false false (o.imm.signExtend 64) x
    s.readElem k ty o x = v ∧ s.readCtl k o x = (c.1.setWidth 32, c.2)) ∧
  (∀ (s : State) (k : Nat) (w64 : Bool) (o : Opnds) (x : Operand),
    s.readB k w64 o x = s.read k w64 false (o.imm.signExtend 64) x) ∧
  (∀ (s : State) (k : Nat) (ty : FType) (o : Opnds) (x : Operand),
    let bits := o.imm.toNat % 2 ^ 20 * 2 ^ 12
    let near := ty.fmt.round .rn 0 (fF32.decode bits)
    s.readF k ty o x = s.read k ty.is64 false (BitVec.ofNat 64 (match ty with
      | .f32 => bits
      | .f64 => near
      | .f16x2 | .bf16x2 => near + near * 2 ^ 16)) x) ∧
  (∀ (s : State) (k : Nat) (th : Thread), s.thread? k = some th →
    let core := coreOfThread k
    (∀ p ∈ [(0, th.tid), (1, th.tid % 32), (2, th.tid / 32 % 4), (7, clusterOfCore core % 64), (8, dieOfCore core),
        (9, s.device.toNat), (10, 32), (11, th.cbank.toNat), (12, th.seed.toNat), (13, (s.core core).ltime.toNat % 2 ^ 32),
        (14, s.timebase.toNat % 2 ^ 32), (15, th.shadow.toNat), (20, th.budget), (32, th.ctxbase.toNat % 2 ^ 32),
        (33, th.ctxbase.toNat / 2 ^ 32), (34, th.trapCode.toNat), (35, th.trapPc.toNat % 2 ^ 32),
        (36, th.trapPc.toNat / 2 ^ 32), (37, th.trapVa.toNat % 2 ^ 32), (38, th.trapVa.toNat / 2 ^ 32),
        (40, th.sup.toNat), (48, (s.core core).pmc0.toNat % 2 ^ 32), (49, (s.core core).pmc0.toNat / 2 ^ 32),
        (54, (s.core core).pmc3.toNat % 2 ^ 32), (55, (s.core core).pmc3.toNat / 2 ^ 32),
        (56, (s.core core).pmsel0.toNat), (59, (s.core core).pmsel3.toNat)],
      s.sreg k th p.1 = BitVec.ofNat 32 p.2) ∧
    (threadOnLC k = true → ∀ p ∈ [(3, 1), (4, 0), (5, 1), (6, 0x100 + (core - 1024) % 16), (18, th.lcPrio),
        (21, 0xFFFFFFFF), (22, th.lcLaunch)], s.sreg k th p.1 = BitVec.ofNat 32 p.2) ∧
    (∀ g l, threadOnLC k = false → s.groupOf k = some g → s.launchOf k = some l →
      ∀ p ∈ [(3, g.gsize), (4, g.index), (5, l.ngroup), (6, core % 256), (16, l.future.toNat % 2 ^ 32),
        (17, l.future.toNat / 2 ^ 32), (18, g.prio), (21, chainPos core), (22, l.ident.toNat)],
      s.sreg k th p.1 = BitVec.ofNat 32 p.2)) ∧
  (∀ (s : State) (core gk tid index budget : Nat) (pc : DWord),
    ∃ th, (s.startThread core gk tid index budget pc).thread? (threadKey gk tid) = some th ∧
      th.seed.toNat = (if (1024 * index + tid + 1) % 2 ^ 32 = 0 then 1 else (1024 * index + tid + 1) % 2 ^ 32) ∧
      (∀ m, th.reg m = 0#32) ∧ (∀ p, p < 7 → th.pred p = false) ∧ (∀ l, (th.latch l).valid = false) ∧
      th.depth = 0 ∧ th.cbank = 0#4 ∧ th.shadow = 0#32 ∧ th.sup = false ∧ th.tid = tid ∧ th.budget = budget ∧ th.pc = pc) ∧
  ∀ (th : Thread) (r m n : Nat) (b : Bool) (ws : List Word), cellsWf th.regs 0#32 = true →
    (th.setRegs r ws).reg m =
      (if r ≤ m ∧ m < r + ws.length ∧ m < 240 then (ws[m - r]?).getD 0#32 else th.reg m) ∧
    cellsWf (th.setRegs r ws).regs 0#32 = true ∧
    (240 ≤ m → th.reg m = 0#32 ∧ th.setReg m 1#32 = th) ∧
    th.setRegs r ws = { th with regs := (th.setRegs r ws).regs } ∧
    (th.setPred n b).pred m = (if m < 7 then (if m = n then b else th.pred m) else true) ∧
    th.setPred n b = { th with preds := (th.setPred n b).preds }

/-- How a computing instruction ends (R15, R21, R75, R77, R128) where D is no special register: D is written, the result
is pushed into latch 0 and the others move up, the pc passes the word; nothing else of the state changes. -/
def Obligations.ResultPlacement : Prop :=
  ∀ (s0 s : State) (k : Nat) (th : Thread) (o : Opnds) (n : Nat) (v : QWord), s.thread? k = some th →
    s.taskReclaimed k = false → Claims.Dest.plain o.d = true →
    s0.retire s k o n v = s.setThread k (passed o.len { written o.d n v th with
      l0 := ⟨true, pushValue o.d n v⟩, l1 := th.l0, l2 := th.l1, l3 := th.l2 })

/-- A special register as a destination (R32, R52, R55, R70, R75, R119): a value with a bit set that its own rule forbids
faults ILLEGAL_OPERAND and the instruction writes nothing; otherwise the register takes it. SEED loads 1 for 0, PRIV
can only fall, CTXBASE keeps its other half. -/
def Obligations.SpecialRegisterDestination : Prop :=
  ∀ (s0 s : State) (k : Nat) (th : Thread) (o : Opnds) (j : BitVec 6) (v : QWord), s.thread? k = some th →
    s.taskReclaimed k = false → o.d = .sreg j →
    let w : Word := v.setWidth 32
    let bad : Bool := (j == 32#6 && w.toNat % 64 != 0) || (j == 33#6 && decide (2 ^ 23 ≤ w.toNat)) ||
      (j == 40#6 && decide (2 ≤ w.toNat)) || (j == 11#6 && decide (16 ≤ w.toNat))
    (bad = true → s0.retire s k o 1 v = s0.takeTrap k .illegalOperand 0#64) ∧
    (bad = false → j.toNat < 48 →
      ∃ th', s0.retire s k o 1 v = s.setThread k (passed o.len { th' with
          l0 := ⟨true, w.setWidth 64⟩, l1 := th.l0, l2 := th.l1, l3 := th.l2 }) ∧
        th' = { th with
          cbank := if j = 11#6 then w.setWidth 4 else th.cbank
          seed := if j = 12#6 then (if w = 0#32 then 1#32 else w) else th.seed
          ctxbase := if j = 32#6 then th.ctxbase.extractLsb' 32 32 ++ w
            else if j = 33#6 then w ++ th.ctxbase.extractLsb' 0 32 else th.ctxbase
          sup := if j = 40#6 then th.sup && w.getLsbD 0 else th.sup })

namespace Sys2Proof.Claims

/-- Words of classes 0x0-0x3, but for SREAD and SWRITE. -/
def computes (i : Instr) : Bool :=
  match i.opcM with
  | some (opc, _) => decide (opc < 0x400) && opc != 0x305 && opc != 0x306
  | none => false

/-- The registers that a result of at most four words in D may change. -/
def inDest (d : Dest) (m : Nat) : Bool :=
  match d with
  | .gpr r => decide (r.toNat ≤ m) && decide (m < r.toNat + 4)
  | .pred _ | .sreg _ | .none | .latch => false

end Sys2Proof.Claims

/-- R75: an instruction of classes 0x0-0x3 completes for every value of its operands, and changes nothing but the
thread that executes it; of that thread only D, the latches, the pc with the loop stack, SEED and the clock shadow. -/
def Obligations.ComputingFrame : Prop :=
  ∀ (s : State) (k : Nat) (th : Thread) (i : Instr) (o : Opnds), Acts s k th → computes i = true → i.opnds = some o →
    s.taskReclaimed k = false → Claims.Dest.plain o.d = true →
    ∃ th' : Thread, Machine.exec i s = .next (s.setThread k th') ∧
      (∀ m, inDest o.d m = false → th'.reg m = th.reg m ∨ cellsWf th.regs 0#32 = false) ∧
      ((∀ p, o.d ≠ .pred p) → (∀ o', i ≠ .pmovSet o') → th'.preds = th.preds) ∧
      th'.l0.valid = true ∧ th'.l1 = th.l0 ∧ th'.l2 = th.l1 ∧ th'.l3 = th.l2 ∧
      (th.depth = 0 → th'.pc = th.pc + BitVec.ofNat 64 o.len ∧ th'.depth = 0 ∧ th'.loop = th.loop) ∧
      th' = { th with
        regs := th'.regs, preds := th'.preds, l0 := th'.l0, l1 := th'.l1, l2 := th'.l2, l3 := th'.l3, pc := th'.pc
        loop := th'.loop, depth := th'.depth, seed := th'.seed, shadow := th'.shadow }

/-- R114-R118: the moves, the selections, the truth table bit by bit, and the predicates as a byte. -/
def Obligations.MoveResults : Prop :=
  ∀ (s : State) (k : Nat) (th : Thread) (w64 : Bool) (n : BitVec 2) (tt : BitVec 8) (o : Opnds), Acts s k th →
    let a := s.readB k w64 o o.a
    let b := a.2.readB k w64 o o.b
    let c := b.2.readB k w64 o o.c
    let x := s.read k w64 false 0#64 o.a
    Machine.exec (.mov w64 o) s = .next (s.retire a.2 k o (rn w64) (a.1.setWidth 128)) ∧
    (∃ v : DWord, Machine.exec (.movi w64 n o) s = .next (s.retire x.2 k o (rn w64) (v.setWidth 128)) ∧
      ∀ i, v.getLsbD i = (decide (i < 64) &&
        if 24 * n.toNat ≤ i ∧ i < 24 * n.toNat + 24 then o.imm.getLsbD (i - 24 * n.toNat) else x.1.getLsbD i)) ∧
    (let y := b.2.readCtl k o o.c
     Machine.exec (.sel w64 o) s = .next (s.retire y.2 k o (rn w64) ((if y.1 = 0#32 then b.1 else a.1).setWidth 128))) ∧
    (∃ v : DWord, Machine.exec (.plop w64 tt o) s = .next (s.retire c.2 k o (rn w64) (v.setWidth 128)) ∧
      ∀ i, v.getLsbD i = (decide (i < if w64 then 64 else 32) &&
        tt.getLsbD (4 * (a.1.getLsbD i).toNat + 2 * (b.1.getLsbD i).toNat + (c.1.getLsbD i).toNat))) ∧
    Machine.exec (.pmovGet o) s = .next (s.retire s k o 1 (BitVec.ofNat 128 (128 + th.preds.toNat))) ∧
    (∃ ps : BitVec 7, (∀ p, ps.getLsbD p = if o.imm.getLsbD p then decide (p < 7) && (s.read32 k o.a).1.getLsbD p else th.preds.getLsbD p) ∧
      Machine.exec (.pmovSet o) s =
        .next (s.retire ((s.read32 k o.a).2.modThread k (fun th => { th with preds := ps })) k o 1
          (BitVec.ofNat 128 (128 + ps.toNat))))

/-- R119: SREAD and SWRITE by index: an index of 64 and above or a reserved one faults ILLEGAL_OPERAND, one of 32-63
below supervisor privilege faults PRIVILEGE, a read-only one or a refused value faults the SWRITE. Otherwise SREAD gives
the register and SWRITE writes it. That 0x300 may stand as an operand here and reads 0 is the model's reading, log entry 144. -/
def Obligations.SpecialRegisterByIndex : Prop :=
  ∀ (s : State) (k : Nat) (th : Thread) (o : Opnds), Acts s k th →
    let a := s.read32 k o.a
    let n := a.1.toNat
    let b := a.2.read32 k o.b
    let none' : Bool := decide (64 ≤ n) || (decide (23 ≤ n) && decide (n ≤ 31))
    let user : Bool := decide (32 ≤ n) && !th.sup
    let absent : Bool := (decide (42 ≤ n) && decide (n ≤ 47)) || decide (60 ≤ n)
    let rw : Bool := [11, 12, 32, 33, 40, 48, 49, 50, 51, 52, 53, 54, 55, 56, 57, 58, 59].contains n
    (none' = true → Machine.exec (.sread o) s = .next (s.takeTrap k .illegalOperand 0#64) ∧
      Machine.exec (.swrite o) s = .next (s.takeTrap k .illegalOperand 0#64)) ∧
    (none' = false → user = true → Machine.exec (.sread o) s = .next (s.takeTrap k .privilege 0#64) ∧
      Machine.exec (.swrite o) s = .next (s.takeTrap k .privilege 0#64)) ∧
    (none' = false → user = false → absent = true → Machine.exec (.sread o) s = .next (s.takeTrap k .illegalOperand 0#64) ∧
      Machine.exec (.swrite o) s = .next (s.takeTrap k .illegalOperand 0#64)) ∧
    (none' = false → user = false → absent = false →
      (∃ th1, a.2.thread? k = some th1 ∧
        Machine.exec (.sread o) s = .next (s.retire (a.2.readShadow k n) k o 1 ((a.2.sreg k th1 n).setWidth 128))) ∧
      (rw = false → Machine.exec (.swrite o) s = .next (s.takeTrap k .illegalOperand 0#64)) ∧
      (rw = true → sregRefuses n b.1 = true → Machine.exec (.swrite o) s = .next (s.takeTrap k .illegalOperand 0#64)) ∧
      (rw = true → sregRefuses n b.1 = false →
        Machine.exec (.swrite o) s = .next (s.retire (b.2.writeSreg k n b.1) k o 1 (b.1.setWidth 128))))

/-! ### Floating point (R58, R68-R70, R94-R112) -/

namespace Sys2Proof.Claims

/-- The exact number a value stands for, where it is one. -/
def num (x : Ex) : Option Rat :=
  match x with
  | .fin neg m e false => some ((if neg then -1 else 1) * (m : Rat) * (2 : Rat) ^ e)
  | .fin _ _ _ true | .nan | .inf _ => none

/-- A positive number that a mantissa and an exponent stand for: exactly, or from above by less than one unit of a
mantissa of at least 80 bits. -/
def StandsFor (m : Nat) (e : Int) (sticky : Bool) (v : Rat) : Prop :=
  0 < m ∧ if sticky then 2 ^ 79 ≤ m ∧ (m : Rat) * (2 : Rat) ^ e < v ∧ v < ((m : Rat) + 1) * (2 : Rat) ^ e
    else v = (m : Rat) * (2 : Rat) ^ e

/-- The pattern of +∞, above every finite positive one. -/
def top (f : FFmt) : Nat := (2 ^ f.ew - 1) * 2 ^ (f.p - 1)

/-- The number of a positive finite pattern. -/
def mag (f : FFmt) (z : Nat) : Rat := ((num (f.decode z)).getD 0)

/-- The square of a distance. -/
def sqDist (a b : Rat) : Rat := (a - b) * (a - b)

/-- R68, R69: `g` is the positive pattern to which a positive number `v` of sign `neg` rounds. -/
def RoundedTo (f : FFmt) (r : Rnd) (draw : Nat) (neg : Bool) (v : Rat) (g : Nat) : Prop :=
  let below : Prop := g < top f ∧ mag f g ≤ v ∧ ∀ z, z < top f → mag f z ≤ v → z ≤ g
  let above : Prop := (g < top f ∧ v ≤ mag f g ∨ g = top f) ∧ ∀ z, z < top f → v ≤ mag f z → g ≤ z
  match r with
  | .rz => below
  | .ru => if neg then below else above
  | .rd => if neg then above else below
  | .rn =>
    if (2 : Rat) ^ f.bias * (2 - 1 / (2 : Rat) ^ f.p) ≤ v then g = top f
    else g < top f ∧ ∀ z, z < top f → sqDist (mag f g) v ≤ sqDist (mag f z) v ∧
      (sqDist (mag f g) v = sqDist (mag f z) v → z ≠ g → g % 2 = 0)
  | .rs => ∃ E : Int, (2 : Rat) ^ E ≤ v ∧ v < (2 : Rat) ^ (E + 1) ∧
      let q : Rat := (2 : Rat) ^ (max E f.emin - (f.p : Int) + 1)
      let y : Rat := ((v / q + (draw : Rat) / 65536).floor : Int) * q
      if mag f (top f - 1) < y then g = top f else g < top f ∧ mag f g = y

/-- The formats of R57 with their biases. -/
def formats : List (FFmt × Nat) := [(fF16, 15), (fBf16, 127), (fF32, 127), (fF64, 1023)]

end Sys2Proof.Claims

/-- R57, R58, R68-R70: what a pattern of each format stands for; a value of a format is its own rounding under every mode
and every draw; every other number rounds as its mode says, the exact number once; a value that is not a number gives the
canonical NaN, and rounding gives no other NaN. A draw is sixteen steps of the LFSR and gives its low half; a rounding
draws from SEED under `.rs` alone, once for each element in element order. -/
def Obligations.RoundingRules : Prop :=
  (∀ p ∈ formats, ∀ (neg : Bool) (ex fr : Nat), ex < 2 ^ p.1.ew → fr < 2 ^ (p.1.p - 1) →
    let x := p.1.decode ((if neg then 2 ^ (p.1.ew + p.1.p - 1) else 0) + ex * 2 ^ (p.1.p - 1) + fr)
    let unit : Int := (p.1.p : Int) - 1
    x = (if ex = 2 ^ p.1.ew - 1 then (if fr = 0 then .inf neg else .nan)
      else if ex = 0 then .fin neg fr (1 - (p.2 : Int) - unit) false
      else .fin neg (2 ^ (p.1.p - 1) + fr) ((ex : Int) - p.2 - unit) false)) ∧
  (∀ p ∈ formats, ∀ (r : Rnd) (draw : Nat) (neg : Bool) (m : Nat) (e : Int) (sticky : Bool) (v : Rat), draw < 65536 →
    StandsFor m e sticky v →
    let y := p.1.round r draw (.fin neg m e sticky)
    y / 2 ^ (p.1.ew + p.1.p - 1) = neg.toNat ∧ RoundedTo p.1 r draw neg v (y % 2 ^ (p.1.ew + p.1.p - 1))) ∧
  (∀ (f : FFmt) (r : Rnd) (draw : Nat) (neg : Bool) (e : Int),
    f.round r draw (.inf neg) = (if neg then 2 ^ (f.ew + f.p - 1) else 0) + top f ∧
    f.round r draw (.fin neg 0 e false) = if neg then 2 ^ (f.ew + f.p - 1) else 0) ∧
  (∀ seed : Word,
    let step (x : Nat) : Nat := if x % 2 = 1 then x / 2 ^^^ 0x80200003 else x / 2
    (lfsrDraw seed).2.toNat = Nat.repeat step 16 seed.toNat ∧ (lfsrDraw seed).1 = Nat.repeat step 16 seed.toNat % 2 ^ 16 ∧
    (seed ≠ 0#32 → (lfsrDraw seed).2 ≠ 0#32) ∧
    ∀ r : Rnd, drawIf r seed = if r = .rs then lfsrDraw seed else (0, seed)) ∧
  (∀ f ∈ [fF16, fBf16, fF32, fF64], ∀ (r : Rnd) (draw x : Nat), draw < 65536 → x < 2 ^ f.width →
    ((f.decode x).isNan = false → f.round r draw (f.decode x) = x) ∧
    f.round r draw .nan = f.nan ∧ (f.decode f.nan).isNan = true ∧
    (∀ y : Ex, y.isNan = false → (f.decode (f.round r draw y)).isNan = false)) ∧
  ∀ (f : FFmt) (r : Rnd) (ftz : Bool) (seed : Word) (x : Ex) (xs : List Ex),
    (r ≠ .rs → roundEach f r ftz seed xs = (xs.map (fun x => f.flush ftz (f.round r 0 x)), seed)) ∧
    (roundEach f .rs ftz seed (x :: xs)).1.head? = some (f.flush ftz (f.round .rs (drawIf .rs seed).1 x)) ∧
    (roundEach f .rs ftz seed (x :: xs)).2 = (roundEach f .rs ftz (drawIf .rs seed).2 xs).2

namespace Sys2Proof.Claims

/-- A rounded result of class 0x1: the elements `xs` rounded in order with the thread's own SEED. -/
def RoundsTo (s s' : State) (k : Nat) (ty : FType) (r : Rnd) (ftz : Bool) (o : Opnds) (i : Instr) (xs : List Ex) : Prop :=
  ∃ th', s'.thread? k = some th' ∧
    let p := roundEach ty.fmt r ftz th'.seed xs
    Machine.exec i s = .next (s.retire (s'.setThread k { th' with seed := p.2 }) k o (rn ty.is64) (ty.join p.1))

end Sys2Proof.Claims

namespace Sys2Proof.Claims

/-- R60, R94, R101: what the six operations and the scaling give: the exact number, or one that the mantissa stands for;
the sign of a zero; infinities, and NaN for a NaN and for the invalid cases. -/
def ExactArithmetic (r : Rnd) (a b : Ex) (k : Int) : Prop :=
  (∀ x y, num a = some x → num b = some y →
    (∃ n m e, a.add r b = .fin n m e false ∧ num (.fin n m e false) = some (x + y) ∧
      (x + y = 0 → n = if a.isNeg = b.isNeg then a.isNeg else r == .rd)) ∧
    (∃ m e, a.mul b = .fin (a.isNeg != b.isNeg) m e false ∧ num (a.mul b) = some (x * y)) ∧
    (∃ m e, a.scale k = .fin a.isNeg m e false ∧ num (a.scale k) = some (x * (2 : Rat) ^ k)) ∧
    (y = 0 → a.div b = if x = 0 then .nan else .inf (a.isNeg != b.isNeg)) ∧
    (y ≠ 0 → ∃ m e st, a.div b = .fin (a.isNeg != b.isNeg) m e st ∧
      if x = 0 then m = 0 ∧ st = false else StandsFor m e st (if x / y < 0 then -(x / y) else x / y)) ∧
    (∃ m e st, a.sqrt = (if x < 0 then .nan else .fin a.isNeg m e st) ∧
      (x = 0 → m = 0 ∧ st = false) ∧
      (0 < x → 2 ^ 79 ≤ m ∧
        let lo : Rat := (m : Rat) * (2 : Rat) ^ e
        let hi : Rat := ((m : Rat) + 1) * (2 : Rat) ^ e
        if st then lo * lo < x ∧ x < hi * hi else lo * lo = x))) ∧
  (∀ i x, num b = some x →
    (Ex.inf i).add r b = .inf i ∧ b.add r (.inf i) = .inf i ∧
    (Ex.inf i).mul b = (if x = 0 then .nan else .inf (i != b.isNeg)) ∧
    b.mul (.inf i) = (if x = 0 then .nan else .inf (b.isNeg != i)) ∧
    (Ex.inf i).div b = .inf (i != b.isNeg) ∧ (∃ e, b.div (.inf i) = .fin (b.isNeg != i) 0 e false)) ∧
  (∀ i j, (Ex.inf i).add r (.inf j) = (if i = j then .inf i else .nan) ∧ (Ex.inf i).mul (.inf j) = .inf (i != j) ∧
    (Ex.inf i).div (.inf j) = .nan ∧ (Ex.inf i).sqrt = (if i then .nan else .inf false) ∧ (Ex.inf i).scale k = .inf i) ∧
  (Ex.nan.add r b = .nan ∧ a.add r .nan = .nan ∧ Ex.nan.mul b = .nan ∧ a.mul .nan = .nan ∧ Ex.nan.div b = .nan ∧
    a.div .nan = .nan ∧ Ex.nan.sqrt = .nan ∧ Ex.nan.scale k = .nan) ∧
  num a.neg = (num a).map (fun x => -x)

/-- R102: the sum of several terms. -/
def ExactSum (r : Rnd) (x : Ex) (xs : List Ex) : Prop :=
  let all := x :: xs
  (∀ vs : List Rat, all.map num = vs.map some →
    ∃ n m e, sumTerms r all = .fin n m e false ∧ num (.fin n m e false) = some (vs.foldr (· + ·) 0) ∧
      (m = 0 → n = if ∀ y ∈ all, y.isNeg = x.isNeg then x.isNeg else r == .rd)) ∧
  (Ex.nan ∈ all → sumTerms r all = .nan) ∧
  (Ex.inf true ∈ all → Ex.inf false ∈ all → sumTerms r all = .nan) ∧
  (∀ i, Ex.nan ∉ all → Ex.inf i ∈ all → Ex.inf (!i) ∉ all → sumTerms r all = .inf i)

end Sys2Proof.Claims

/-- R94, R101, R102: the rounded instructions give the exact result rounded once, element by element; the results that
are rounded are exact, with the signs of zeros, the infinities and the invalid cases that R60 and R94 give. The sign of a sum
of more than two terms that is exactly zero (FDOT2) is the model's reading, log entry 19. -/
def Obligations.FloatArithmeticResults : Prop :=
  (∀ (r : Rnd) (a b : Ex) (k : Int) (xs : List Ex), ExactArithmetic r a b k ∧ ExactSum r a xs) ∧
  ∀ (s : State) (k : Nat) (th : Thread) (ty : FType) (r : Rnd) (ftz : Bool) (o : Opnds), Acts s k th →
    let a := s.readF k ty o o.a
    let b := a.2.readF k ty o o.b
    let c := b.2.readF k ty o o.c
    let n := a.2.readF20 k ((o.imm.setWidth 20).signExtend 64) o.b
    let d := b.2.readF k .f32 o o.c
    let xa := elemsOf ty ftz a.1
    let xb := elemsOf ty ftz b.1
    let xc := elemsOf ty ftz c.1
    RoundsTo s b.2 k ty r ftz o (.fadd ty r ftz o) (List.zipWith (fun x y => x.add r y) xa xb) ∧
    RoundsTo s b.2 k ty r ftz o (.fsub ty r ftz o) (List.zipWith (fun x y => x.add r y.neg) xa xb) ∧
    RoundsTo s b.2 k ty r ftz o (.fmul ty r ftz o) (List.zipWith (fun x y => x.mul y) xa xb) ∧
    RoundsTo s b.2 k ty r ftz o (.fdiv ty r ftz o) (List.zipWith (fun x y => x.div y) xa xb) ∧
    RoundsTo s a.2 k ty r ftz o (.fsqrt ty r ftz o) (xa.map (fun x => x.sqrt)) ∧
    RoundsTo s c.2 k ty r ftz o (.ffma ty r ftz o)
      (List.zipWith (fun p z => p.add r z) (List.zipWith (fun x y => x.mul y) xa xb) xc) ∧
    RoundsTo s n.2 k ty r ftz o (.fscale ty r ftz o) (List.zipWith (fun x e => x.scale e) xa (scaleAmounts ty n.1)) ∧
    (∃ th', d.2.thread? k = some th' ∧
      let p := roundEach fF32 r ftz th'.seed
        [sumTerms r (elemsOf .f32 ftz d.1 ++ List.zipWith (fun x y => x.mul y) xa xb)]
      Machine.exec (.fdot2 ty r ftz o) s = .next (s.retire (d.2.setThread k { th' with seed := p.2 }) k o 1 (FType.f32.join p.1)))

namespace Sys2Proof.Claims

/-- A pattern's place among those of its format that are not NaN; −0 stands at −1 where `zeros` keeps them apart, and
both zeros at 0 otherwise. -/
def place (f : FFmt) (zeros : Bool) (x : Nat) : Int :=
  let half := 2 ^ (f.ew + f.p - 1)
  if half ≤ x then -((x - half : Nat) : Int) - (if zeros then 1 else 0) else x

/-- The class bit of a pattern (R99). -/
def classBit (f : FFmt) (x : Nat) : Nat :=
  let neg := decide (2 ^ (f.ew + f.p - 1) ≤ x)
  let ex := x / 2 ^ (f.p - 1) % 2 ^ f.ew
  let fr := x % 2 ^ (f.p - 1)
  if ex = 2 ^ f.ew - 1 then (if fr ≠ 0 then 8 else if neg then 0 else 7)
  else if ex ≠ 0 then (if neg then 1 else 6)
  else if fr ≠ 0 then (if neg then 2 else 5)
  else if neg then 3 else 4

/-- R100: `n` is the integer to which a positive number `v` of sign `neg` rounds. -/
def IntegerOf (r : Rnd) (neg : Bool) (v : Rat) (n : Nat) : Prop :=
  let below : Prop := (n : Rat) ≤ v ∧ v < (n : Rat) + 1
  let above : Prop := v ≤ (n : Rat) ∧ (n : Rat) < v + 1
  match r with
  | .rz | .rs => below
  | .ru => if neg then below else above
  | .rd => if neg then above else below
  | .rn => (n : Rat) ≤ v + 1 / 2 ∧ v ≤ (n : Rat) + 1 / 2 ∧
      ((n : Rat) = v + 1 / 2 ∨ v = (n : Rat) + 1 / 2 → n % 2 = 0)

end Sys2Proof.Claims

/-- R96-R100: minimum and maximum, sign operations, comparison, class test and rounding to an integral value draw
nothing; the elements are the format's patterns after `.ftz`, compared by their places, −0 below +0 for the minimum and
the maximum alone. FRND's result has its operand's sign and the integer that the mode names. -/
def Obligations.FloatBitResults : Prop :=
  (∀ p ∈ formats, ∀ (r : Rnd) (x n : Nat) (v : Rat), x < 2 ^ (p.1.ew + p.1.p) → r ≠ .rs →
    let half := 2 ^ (p.1.ew + p.1.p - 1)
    let y := roundIntegral p.1 r false x
    (x % half < top p.1 → mag p.1 (x % half) = v → IntegerOf r (decide (half ≤ x)) v n →
      y / half = x / half ∧ y % half < top p.1 ∧ mag p.1 (y % half) = (n : Rat)) ∧
    (x % half = top p.1 → y = x) ∧ (top p.1 < x % half → y = p.1.nan)) ∧
  ∀ (s : State) (k : Nat) (th : Thread) (ty : FType) (r : Rnd) (ftz nan : Bool) (cc : FCond) (o : Opnds), Acts s k th →
    let a := s.readF k ty o o.a
    let b := a.2.readF k ty o o.b
    let m := a.2.readF20 k (BitVec.ofNat 64 (o.imm.toNat % 2 ^ 20)) o.b
    let f := ty.fmt
    let xa := (ty.lanes a.1).map (f.flush ftz)
    let xb := (ty.lanes b.1).map (f.flush ftz)
    let isNan (x : Nat) : Bool := (f.decode x).isNan
    let pick (greater : Bool) (x y : Nat) : Nat :=
      if isNan x ∧ isNan y then f.nan
      else if isNan x then (if nan then f.nan else y)
      else if isNan y then (if nan then f.nan else x)
      else if greater = decide (place f true x < place f true y) then y else x
    let holds (x y : Nat) : Bool :=
      if isNan x ∨ isNan y then cc == .ne || cc == .un
      else
        let u := place f false x
        let v := place f false y
        match cc with
        | .eq => decide (u = v)
        | .ne => decide (u ≠ v)
        | .lt => decide (u < v)
        | .le => decide (u ≤ v)
        | .gt => decide (v < u)
        | .ge => decide (v ≤ u)
        | .un => false
        | .or => true
    Machine.exec (.fmin ty nan ftz o) s = .next (s.retire b.2 k o (rn ty.is64) (ty.join (List.zipWith (pick false) xa xb))) ∧
    Machine.exec (.fmax ty nan ftz o) s = .next (s.retire b.2 k o (rn ty.is64) (ty.join (List.zipWith (pick true) xa xb))) ∧
    Machine.exec (.fcmp ty cc ftz o) s = .next (s.retire b.2 k o 1 (joinBits (List.zipWith holds xa xb))) ∧
    Machine.exec (.fabs ty ftz o) s = .next (s.retire a.2 k o (rn ty.is64) (ty.join (xa.map (fun x =>
      if isNan x then f.nan else x % 2 ^ (f.width - 1))))) ∧
    Machine.exec (.fneg ty ftz o) s = .next (s.retire a.2 k o (rn ty.is64) (ty.join (xa.map (fun x =>
      if isNan x then f.nan
      else x % 2 ^ (f.width - 1) + (if 2 ^ (f.width - 1) ≤ x then 0 else 2 ^ (f.width - 1)))))) ∧
    Machine.exec (.frnd ty r ftz o) s =
      .next (s.retire a.2 k o (rn ty.is64) (ty.join ((ty.lanes a.1).map (roundIntegral f r ftz)))) ∧
    Machine.exec (.fclass ty o) s =
      .next (s.retire m.2 k o 1 (joinBits ((ty.lanes a.1).map (fun x => m.1.getLsbD (classBit f x)))))

namespace Sys2Proof.Claims

/-- R61: the value of a positive tapered code of `n` bits. -/
def taperedVal (c n : Nat) : Rat :=
  let b := c / 2 ^ (n - 2) % 2
  let run := ((List.range (n - 1)).takeWhile (fun i => decide (c / 2 ^ (n - 2 - i) % 2 = b))).length
  let r : Int := if b = 1 then (run : Int) - 1 else -(run : Int)
  let left := n - 2 - run
  let rest := c % 2 ^ left
  let e := if left = 0 then 0 else rest / 2 ^ (left - 1)
  let frac : Rat := if left = 0 then 0 else ((rest % 2 ^ (left - 1) : Nat) : Rat) / ((2 : Rat) ^ (left - 1))
  (4 : Rat) ^ r * (2 : Rat) ^ e * (1 + frac)

/-- R65: the positive tapered code of `n` bits to which a positive number rounds. -/
def TaperedTo (n : Nat) (v : Rat) (c : Nat) : Prop :=
  let last := 2 ^ (n - 1) - 1
  (taperedVal last n ≤ v → c = last) ∧ (v ≤ taperedVal 1 n → c = 1) ∧
  ∀ d, taperedVal 1 n < v → v < taperedVal last n → 1 ≤ d → d < last → taperedVal d n ≤ v → v < taperedVal (d + 1) n →
    let mid := taperedVal (2 * d + 1) (n + 1)
    c = if mid < v ∨ (v = mid ∧ d % 2 = 1) then d + 1 else d

/-- R65, R66: the tapered code of any value. -/
def TaperedCode (n : Nat) (x : Ex) (c : Nat) : Prop :=
  ((x.isNan = true ∨ ∃ i, x = .inf i) → c = 2 ^ (n - 1)) ∧
  ∀ v, num x = some v → (v = 0 → c = 0) ∧ (0 < v → TaperedTo n v c) ∧
    (v < 0 → ∃ c', TaperedTo n (-v) c' ∧ c = 2 ^ n - c')

/-- R108: the E8 code of any value. -/
def E8Code (r : Rnd) (x : Ex) (c : Nat) : Prop :=
  (x.isNan = true → c = 255) ∧ (∀ i, x = .inf i → c = 254) ∧
  ∀ v, num x = some v → (v = 0 → c = 0) ∧ ∀ E : Int, let a := if v < 0 then -v else v
    (2 : Rat) ^ E ≤ a → a < (2 : Rat) ^ (E + 1) →
      let up : Int := if (r = .ru ∧ (2 : Rat) ^ E < a) ∨ (r = .rn ∧ 3 * (2 : Rat) ^ E ≤ 2 * a) then 1 else 0
      (c : Int) = min (max (E + up + 127) 0) 254

/-- R107: the integer of `w` bits of any value, as the pattern it has. -/
def IntegerCode (w : Nat) (signed : Bool) (r : Rnd) (x : Ex) (c : Nat) : Prop :=
  let lo : Int := if signed then -2 ^ (w - 1) else 0
  let hi : Int := if signed then 2 ^ (w - 1) - 1 else 2 ^ w - 1
  (x.isNan = true → c = 0) ∧ (∀ i, x = .inf i → (c : Int) = (if i then lo else hi) % 2 ^ w) ∧
  ∀ v, num x = some v → ∃ n, IntegerOf r (decide (v < 0)) (if v < 0 then -v else v) n ∧
    (c : Int) = min (max (if v < 0 then -(n : Int) else n) lo) hi % 2 ^ w

/-- R59, R61, R67: what the pattern `x` of an element stands for. -/
def Reads (f : Fmt) (ftz : Bool) (x : Nat) (a : Ex) : Prop :=
  (f.isInt = true → num a = some (if f.signed = true ∧ 2 ^ (f.bits - 1) ≤ x then (x : Rat) - (2 : Rat) ^ f.bits else x)) ∧
  (f.isFloat = true → let g := fmtIeee f
    let half := 2 ^ (g.ew + g.p - 1)
    a = g.decode (if ftz = true ∧ x % half / 2 ^ (g.p - 1) = 0 then x / half * half else x)) ∧
  (∀ n, (f, n) ∈ [(Fmt.t8, 8), (.t6, 6)] → (x = 2 ^ (n - 1) → a.isNan = true) ∧
    (x ≠ 2 ^ (n - 1) → num a = some (if x = 0 then 0 else if x < 2 ^ (n - 1) then taperedVal x n
      else -taperedVal (2 ^ n - x) n))) ∧
  (f = .e8 → (x = 255 → a.isNan = true) ∧ (x ≠ 255 → num a = some ((2 : Rat) ^ ((x : Int) - 127))))

/-- R105-R108: the pattern `y` that a conversion gives for the value `a` of the pattern `x`. -/
def Converts (m : CvtMod) (draw x : Nat) (a : Ex) (y : Nat) : Prop :=
  (m.df.isInt = true → m.sf.isInt = true → ∀ v : Int, num a = some (v : Rat) →
    let lo : Int := if m.df.signed then -2 ^ (m.df.bits - 1) else 0
    let hi : Int := if m.df.signed then 2 ^ (m.df.bits - 1) - 1 else 2 ^ m.df.bits - 1
    (y : Int) = (if m.sat then min (max v lo) hi else v) % 2 ^ m.df.bits) ∧
  (m.df.isInt = true → m.sf.isFloat = true → m.rnd ≠ .rs → IntegerCode m.df.bits m.df.signed m.rnd a y) ∧
  (m.df = .t8 → TaperedCode 8 a y) ∧ (m.df = .t6 → TaperedCode 6 a y) ∧
  (m.df = .e8 → if m.sf = .e8 then y = x else E8Code m.rnd a y) ∧
  (m.df.isFloat = true →
    let f := fmtIeee m.df
    let half := 2 ^ (f.ew + f.p - 1)
    let z := f.round m.rnd draw a
    let s := if m.sat = true ∧ z % half = top f then z - 1 else z
    y = if m.ftz = true ∧ s % half / 2 ^ (f.p - 1) = 0 then s / half * half else s)

/-- R111: the special operands of the special functions, the operands at which their values are exact, and the reciprocal of a
root, exact or from above by less than one unit of a mantissa of at least 80 bits. -/
def SpecialOperands (f : FFmt) (bias : Nat) : Prop :=
  let one := bias * 2 ^ (f.p - 1)
  let minus := 2 ^ (f.ew + f.p - 1)
  let signed (n : Bool) (x : Nat) : Nat := (if n then minus else 0) + x
  (∀ g ∈ [exp2Round, log2Round, sinpiRound, cospiRound, tanhRound, sigmRound], g f .nan = f.nan) ∧
  (∀ (n : Bool) (e : Int) (st : Bool), exp2Round f (.fin n 0 e st) = one ∧ log2Round f (.fin n 0 e st) = signed true (top f) ∧
    sinpiRound f (.fin n 0 e st) = signed n 0 ∧ tanhRound f (.fin n 0 e st) = signed n 0 ∧
    sigmRound f (.fin n 0 e st) = (bias - 1) * 2 ^ (f.p - 1) ∧ rsqrtEx (.fin n 0 e st) = .inf n) ∧
  exp2Round f (.inf true) = 0 ∧ exp2Round f (.inf false) = top f ∧ log2Round f (.inf true) = f.nan ∧
  log2Round f (.inf false) = top f ∧ (∀ n, sinpiRound f (.inf n) = f.nan ∧ cospiRound f (.inf n) = f.nan ∧
    tanhRound f (.inf n) = signed n one) ∧
  sigmRound f (.inf true) = 0 ∧ sigmRound f (.inf false) = one ∧
  (∀ (m : Nat) (e : Int) (st : Bool), m ≠ 0 → log2Round f (.fin true m e st) = f.nan ∧ rsqrtEx (.fin true m e st) = .nan) ∧
  rsqrtEx .nan = .nan ∧ rsqrtEx (.inf true) = .nan ∧ (∃ e, rsqrtEx (.inf false) = .fin false 0 e false) ∧
  (∀ k : Int, -(bias : Int) < k → k ≤ bias → ((exp2Round f (.ofInt k) : Nat) : Int) = (k + bias) * 2 ^ (f.p - 1)) ∧
  (∀ k : Int, (bias : Int) < k → exp2Round f (.ofInt k) = top f) ∧
  (∀ e : Int, log2Round f (.fin false 1 e false) = f.round .rn 0 (.fin (decide (e < 0)) e.natAbs 0 false)) ∧
  (∀ (n : Bool) (m : Nat), sinpiRound f (.fin n m 0 false) = signed n 0 ∧
    cospiRound f (.fin n m 0 false) = signed (decide (m % 2 = 1)) one ∧
    sinpiRound f (.fin n (2 * m + 1) (-1) false) = signed (n != decide (m % 2 = 1)) one ∧
    cospiRound f (.fin n (2 * m + 1) (-1) false) = 0) ∧
  ∀ (x : Ex) (v : Rat), num x = some v → 0 < v → ∃ m e st, rsqrtEx x = .fin false m e st ∧ 2 ^ 79 ≤ m ∧
    let lo : Rat := (m : Rat) * (2 : Rat) ^ e
    let hi : Rat := ((m : Rat) + 1) * (2 : Rat) ^ e
    if st then lo * lo * v < 1 ∧ 1 < hi * hi * v else lo * lo * v = 1

end Sys2Proof.Claims

/-- R104-R112: conversion, packing, unpacking, the special functions and the block-scale accumulate complete for every
value, and end as a computing instruction does. What an element stands for, and the pattern that a conversion or PACKT gives
for it, are as the rules of its format say; FRCP is the correctly rounded quotient of 1, FRSQ rounds the reciprocal of the
root, and the special functions have the values of R111's table at the special operands. Their values elsewhere come from
bounds of the model's, log entry 16; for which elements CVT draws is log entry 17, and when SACC draws log entry 18. -/
def Obligations.ConversionResults : Prop :=
  (∀ (m : CvtMod) (draw x : Nat), draw < 65536 → x < 2 ^ m.sf.bits →
    Reads m.sf m.ftz x (fmtValue m.sf m.ftz x) ∧ Converts m draw x (fmtValue m.sf m.ftz x) (convert m draw x) ∧
    ∀ k : Int, let a := (fmtValue m.sf m.ftz x).scale k
      (m.df = .t8 → TaperedCode 8 a (packCode m k x)) ∧ (m.df = .t6 → TaperedCode 6 a (packCode m k x)) ∧
      (m.df = .i8 → m.rnd ≠ .rs → IntegerCode 8 true m.rnd a (packCode m k x)) ∧
      (m.df = .n8 → m.rnd ≠ .rs → IntegerCode 8 false m.rnd a (packCode m k x))) ∧
  (∀ (m : CvtMod) (seed : Word) (x : Nat) (xs : List Nat),
    let d := if m.df.isFloat = true ∧ m.sf.isTapered = false then drawIf m.rnd seed else (0, seed)
    convertAll m seed [] = ([], seed) ∧
    convertAll m seed (x :: xs) = (convert m d.1 x :: (convertAll m d.2 xs).1, (convertAll m d.2 xs).2)) ∧
  (∀ p ∈ formats, SpecialOperands p.1 p.2) ∧
  ∀ (s : State) (k : Nat) (th : Thread) (m : CvtMod) (o : Opnds), Acts s k th →
    let a := s.readC k m.sf m.src64 o o.a
    let p := convertAll m th.seed (m.sf.elems m.x2 a.1.toNat)
    Machine.exec (.cvt m o) s =
      .next (s.retire (a.2.modThread k (fun th => { th with seed := p.2 })) k o m.dstRegs (m.df.result p.1)) ∧
    (let x := s.readC k m.sf (m.sf == .f32) o o.a
     let y := x.2.readC k m.sf (m.sf == .f32) o o.b
     let z := y.2.readC20 k o o.c
     Machine.exec (.packt m o) s = .next (s.retire z.2 k o 1 (BitVec.ofNat 128 (joinCodes m.df.bits
       ((m.sf.elems true x.1.toNat ++ m.sf.elems true y.1.toNat).map (packCode m z.1.toInt)))))) ∧
    (let x := s.readC k m.sf false o o.a
     let y := x.2.readC20 k o o.b
     let f := fmtIeee m.df
     ∃ th', y.2.thread? k = some th' ∧
       let q := roundEach f m.rnd m.ftz th'.seed ((List.range 4).map (fun i =>
         (fmtValue m.sf false (x.1.toNat / 2 ^ (m.sf.bits * i) % 2 ^ m.sf.bits)).scale y.1.toInt))
       Machine.exec (.unpackt m o) s = .next (s.retire (y.2.setThread k { th' with seed := q.2 }) k o
         (if m.df = .f32 then 4 else 2) (BitVec.ofNat 128 (joinCodes f.width q.1)))) ∧
    (let x := s.readC k m.sf false o o.a
     let one (fn : FFmt → Ex → Nat) (i : Instr) : Prop :=
       Machine.exec i s = .next (s.retire x.2 k o 1 (m.df.result ((m.sf.elems m.x2 x.1.toNat).map (fun v =>
         (fmtIeee m.df).flush m.ftz (fn (fmtIeee m.df) (fmtValue m.sf m.ftz v))))))
     one (fun f v => f.round .rn 0 ((Ex.fin false 1 0 false).div v)) (.frcp m o) ∧
     one (fun f v => f.round .rn 0 (rsqrtEx v)) (.frsq m o) ∧ one exp2Round (.fexp2 m o) ∧ one log2Round (.flog2 m o) ∧
     one sinpiRound (.fsinpi m o) ∧ one cospiRound (.fcospi m o) ∧ one tanhRound (.ftanh m o) ∧
     one sigmRound (.fsigm m o)) ∧
    (let x := s.readC k m.sf false o o.a
     let y := x.2.readC20 k o o.b
     let z := y.2.readC k .f32 false o o.c
     let sa := y.1.toNat % 256
     let sb := y.1.toNat / 256 % 256
     let pv := fmtValue m.sf m.ftz x.1.toNat
     let cv := fmtValue .f32 m.ftz z.1.toNat
     let v := cv.add m.rnd (pv.scale ((sa : Int) + sb - 254))
     (sa = 255 ∨ sb = 255 ∨ pv.isNan = true ∨ cv.isNan = true →
       Machine.exec (.sacc m o) s = .next (s.retire z.2 k o 1 (BitVec.ofNat 128 fF32.nan))) ∧
     (¬ (sa = 255 ∨ sb = 255 ∨ pv.isNan = true ∨ cv.isNan = true) →
       ∃ th', z.2.thread? k = some th' ∧
         let q := roundEach fF32 m.rnd m.ftz th'.seed [v]
         Machine.exec (.sacc m o) s = .next (s.retire (z.2.setThread k { th' with seed := q.2 }) k o 1
           (BitVec.ofNat 128 (satFloat fF32 (m.sat && v.isFin) (q.1.headD 0))))))

/-! ### Control flow (R122-R134) -/

namespace Sys2Proof.Claims

/-- An address lies in the body of a loop-stack entry. -/
def inBody (e : LoopEntry) (a : DWord) : Prop := e.start.toNat ≤ a.toNat ∧ a.toNat ≤ e.last.toNat

/-- What is left of the depth when a branch to `a` unwinds the loop stack (R129): the entries above it do not hold the
target, the top one that stays does. -/
def UnwoundTo (th : Thread) (a : DWord) (d : Nat) : Prop :=
  d ≤ th.depth ∧ (∀ j, d ≤ j → j < th.depth → ¬ inBody (loopAt th.loop j) a) ∧ (0 < d → inBody (loopAt th.loop (d - 1)) a)

/-- The return address in a link pair (R123). -/
def linked (d : Dest) (v : DWord) (th : Thread) : Thread :=
  match d with
  | .gpr r => th.setRegs r.toNat [v.setWidth 32, v.extractLsb' 32 32]
  | .pred _ | .sreg _ | .none | .latch => th

/-- What a link pair held before a branch wrote it. -/
def unlinked (d : Dest) (th : Thread) : Option (Nat × List Word) :=
  match d with
  | .gpr r => some (r.toNat, [th.reg r.toNat, th.reg (r.toNat + 1)])
  | .pred _ | .sreg _ | .none | .latch => none

end Sys2Proof.Claims

/-- R122, R123, R129, R130: the direct branches; BRA unwinds the loop stack, LBRK pops one entry, CALL writes its link
and leaves the stack. -/
def Obligations.DirectBranches : Prop :=
  ∀ (s : State) (k : Nat) (th : Thread) (o : Opnds), Acts s k th → th.depth ≤ 4 →
    let target := th.pc + 12#64 * o.imm.signExtend 64
    (∃ d, UnwoundTo th target d ∧ Machine.exec (.bra o) s = .next (s.setThread k { th with pc := target, depth := d })) ∧
    Machine.exec (.lbrk o) s = .next (s.setThread k { th with pc := target, depth := th.depth - 1 }) ∧
    Machine.exec (.call o) s = .next (s.setThread k { linked o.d (th.pc + 12#64) th with pc := target })

/-- R122, R129: the indirect branches: a misaligned target faults MISALIGNED, one beyond the address space PROTECTION,
at the branch with nothing written; any other target is taken. A target that is both is MISALIGNED: the model's choice, log
entry 22. -/
def Obligations.IndirectBranches : Prop :=
  ∀ (s : State) (k : Nat) (th : Thread) (o : Opnds), Acts s k th → th.depth ≤ 4 →
    let a := s.read64 k o.a
    (a.1.toNat % 4 ≠ 0 → ∀ i ∈ [Instr.brx o, .brxEntry o, .callx o, .ret o],
      Machine.exec i s = .next (s.takeTrap k .misaligned 0#64)) ∧
    (a.1.toNat % 4 = 0 → 2 ^ 55 ≤ a.1.toNat → ∀ i ∈ [Instr.brx o, .brxEntry o, .callx o, .ret o],
      Machine.exec i s = .next (s.takeTrap k .protection 0#64)) ∧
    (a.1.toNat % 4 = 0 → a.1.toNat < 2 ^ 55 → ∃ th', a.2.thread? k = some th' ∧ th' = { th with shadow := th'.shadow } ∧
      (∃ d, UnwoundTo th a.1 d ∧ Machine.exec (.brx o) s = .next (a.2.setThread k { th' with pc := a.1, depth := d })) ∧
      Machine.exec (.ret o) s = .next (a.2.setThread k { th' with pc := a.1 }))

/-- R30, R122-R124: BRX.entry and CALLX whose target word can be fetched: no well-formed CALL entry word traps
ILLEGAL_TARGET there; an entry above the thread's privilege faults PRIVILEGE and one that declares more than the group
holds BUDGET_EXCEEDED, at the branch; else the thread goes on after the entry word, CALLX with its link written. That the branch
is completed before ILLEGAL_TARGET is the model's reading, log entry 32. A branch whose target word cannot be fetched is
complete too, and the checks are made when the word has come: the model's reading, log entry 140. -/
def Obligations.EntryBranches : Prop :=
  (∀ (s : State) (k : Nat) (th th' : Thread) (o : Opnds) (w : BitVec 96) (s1 : State), Acts s k th → th.depth ≤ 4 →
    let a := s.read64 k o.a
    a.2.thread? k = some th' → a.1.toNat % 4 = 0 → a.1.toNat < 2 ^ 55 →
    a.2.fetchWord false (coreOfThread k) a.1 th'.sup = (.word w, s1) →
    let e := Entry.ofNat w.toNat
    let linkTo (pc : DWord) : Thread := { linked o.d (th'.pc + BitVec.ofNat 64 o.len) th' with pc := pc }
    (entryOk e .call = false →
      (∃ d, UnwoundTo th' a.1 d ∧ Machine.exec (.brxEntry o) s = .next ((s1.setThread k
        { th' with pc := a.1, depth := d, calling := some ⟨th'.pc, th'.depth, none⟩ }).takeTrap k .illegalTarget 0#64)) ∧
      Machine.exec (.callx o) s = .next ((s1.setThread k
        { linkTo a.1 with calling := some ⟨th'.pc, th'.depth, unlinked o.d th'⟩ }).takeTrap k .illegalTarget 0#64)) ∧
    (entryOk e .call = true → e.sup = true → th'.sup = false → ∀ i ∈ [Instr.brxEntry o, .callx o],
      Machine.exec i s = .next (s1.takeTrap k .privilege 0#64)) ∧
    (entryOk e .call = true → (e.sup = true → th'.sup = true) → s1.entryFits k th' e = false →
      ∀ i ∈ [Instr.brxEntry o, .callx o], Machine.exec i s = .next (s1.takeTrap k .budgetExceeded 0#64)) ∧
    (entryOk e .call = true → (e.sup = true → th'.sup = true) → s1.entryFits k th' e = true →
      (∃ d, UnwoundTo th' a.1 d ∧
        Machine.exec (.brxEntry o) s = .next (s1.setThread k { th' with pc := a.1 + 12#64, depth := d })) ∧
      Machine.exec (.callx o) s = .next (s1.setThread k (linkTo (a.1 + 12#64))))) ∧
  (∀ (s : State) (k : Nat) (th th' : Thread) (o : Opnds) (va : DWord) (r : Xl) (s1 : State), Acts s k th → th.depth ≤ 4 →
    let a := s.read64 k o.a
    a.2.thread? k = some th' → a.1.toNat % 4 = 0 → a.1.toNat < 2 ^ 55 → r ≠ .wait →
    a.2.fetchWord false (coreOfThread k) a.1 th'.sup = (.fails va r, s1) →
    (∃ d, UnwoundTo th' a.1 d ∧ Machine.exec (.brxEntry o) s = .next (s1.setThread k
      { th' with pc := a.1, depth := d, calling := some ⟨th'.pc, th'.depth, none⟩ })) ∧
    Machine.exec (.callx o) s = .next (s1.setThread k { linked o.d (th'.pc + BitVec.ofNat 64 o.len) th' with
      pc := a.1, calling := some ⟨th'.pc, th'.depth, unlinked o.d th'⟩ })) ∧
  ∀ (s s1 : State) (t : Nat) (rest : List Nat) (th : Thread) (c : Calling) (w : BitVec 96), s.issue = t :: rest →
    let s0 : State := { s with issue := rest }
    s.thread? t = some th → s0.mayIssue t th = true → th.pc.toNat % 4 = 0 → th.pc.toNat < 2 ^ 55 → th.calling = some c →
    s0.fetchWord false (coreOfThread t) th.pc th.sup = (.word w, s1) →
    let e := Entry.ofNat w.toNat
    let back : Thread := { (match c.link with
      | some (r, ws) => th.setRegs r ws
      | none => th) with pc := c.pc, depth := c.depth, calling := none }
    (entryOk e .call = false → Machine.step s = .next ((s1.takeTrap t .illegalTarget 0#64).reclaimThread t)) ∧
    (entryOk e .call = true → e.sup = true → th.sup = false →
      Machine.step s = .next (((s1.setThread t back).takeTrap t .privilege 0#64).reclaimThread t)) ∧
    (entryOk e .call = true → (e.sup = true → th.sup = true) → s1.entryFits t th e = false →
      Machine.step s = .next (((s1.setThread t back).takeTrap t .budgetExceeded 0#64).reclaimThread t))

/-- R127, R128: LOOP with a count pushes one entry and goes on at the next word; at depth 4 it faults LOOP_OVERFLOW; with a
count of 0 and a word at END that can be fetched it skips that word and its literal. The loop-back check of a completed
word: at no END the pc passes the word; at the top entry's END with two or more passes left the thread is back at START
with COUNT one less; with one or none the entry is popped and the next is asked. -/
def Obligations.LoopRules : Prop :=
  (∀ (s : State) (k : Nat) (th th' : Thread) (o : Opnds) (w : BitVec 96) (s1 : State), Acts s k th →
    let n := s.read32 k o.a
    n.2.thread? k = some th' → th'.depth ≤ 4 →
    let start := th'.pc + BitVec.ofNat 64 o.len
    let last := th'.pc + 12#64 * o.imm.signExtend 64
    (n.1 ≠ 0#32 → th'.depth < 4 → Machine.exec (.loop o) s = .next (n.2.setThread k { th' with
      loop := (List.range 4).map (fun i => if i = th'.depth then ⟨start, last, n.1⟩ else loopAt th'.loop i)
      depth := th'.depth + 1, pc := start })) ∧
    (n.1 ≠ 0#32 → th'.depth = 4 → Machine.exec (.loop o) s = .next (s.takeTrap k .loopOverflow 0#64)) ∧
    (n.1 = 0#32 → last.toNat < 2 ^ 55 → n.2.fetchWord false (coreOfThread k) last th'.sup = (.word w, s1) →
      Machine.exec (.loop o) s = .next (s1.setThread k { th' with
        pc := last + if wordReadsLiteral w then 24#64 else 12#64 }))) ∧
  ∀ (th : Thread) (len : Nat), th.depth ≤ 4 →
    let top := loopAt th.loop (th.depth - 1)
    (th.depth = 0 ∨ th.pc ≠ top.last → passed len th = { th with pc := th.pc + BitVec.ofNat 64 len }) ∧
    (0 < th.depth → th.pc = top.last → 2 ≤ top.count.toNat →
      passed len th = { th with pc := top.start, loop := th.loop.set (th.depth - 1) { top with count := top.count - 1#32 } }) ∧
    (0 < th.depth → th.pc = top.last → top.count.toNat < 2 →
      passed len th = passed len { th with
        loop := th.loop.set (th.depth - 1) { top with count := top.count - 1#32 }, depth := th.depth - 1 })

/-- R30, R132-R134: NOP and an entry word reached as an instruction only pass; YIELD passes and suspends; CONV holds the
thread at its word until its mates are there, or for 16 × (n + 1) quarter cycles, and then passes (the hold is the model's
reading, log entry 31). -/
def Obligations.PassingWords : Prop :=
  ∀ (s : State) (k : Nat) (th : Thread) (w : BitVec 84) (n : BitVec 6) (o : Opnds), Acts s k th → th.status = .ready →
    s.taskReclaimed k = false →
    Machine.exec (.nop o) s = .next (s.setThread k (passed o.len th)) ∧
    Machine.exec (.entryWordNop w) s = .next (s.setThread k (passed 12 th)) ∧
    Machine.exec (.yield o) s = .next (s.setThread k { passed o.len th with status := .yielded }) ∧
    (th.conv = true → Machine.exec (.conv n o) s = .next (s.setThread k (passed o.len { th with conv := false }))) ∧
    (th.conv = false → (∃ m ∈ s.quarterMates k th, s.heldAt m th.pc = false) →
      Machine.exec (.conv n o) s =
        .next { s.setThread k { th with conv := true, hold := 16 * (n.toNat + 1) } with retry := true }) ∧
    (th.conv = false → (∀ m ∈ s.quarterMates k th, s.heldAt m th.pc = true) →
      ∃ t, Machine.exec (.conv n o) s = .next t ∧ t.thread? k = some (passed o.len th) ∧
        ∀ m ∈ s.quarterMates k th, ∃ x, s.thread? m = some x ∧ t.thread? m = some { x with hold := 0 })

/-- R126, R320: EXIT ends the thread: a group's thread is exited and issues no more; a latency core's context is idle,
and in the perch its section ends with OK and zero results. -/
def Obligations.ExitEndsThread : Prop :=
  ∀ (s : State) (k : Nat) (th : Thread) (o : Opnds), Acts s k th →
    (threadOnLC k = false → ∃ t th', Machine.exec (.exit o) s = .next t ∧ t.thread? k = some th' ∧ th'.status = .exited ∧
      th'.pending = [] ∧ t.mayIssue k th' = false ∧ t.mem = s.mem ∧ t.cores = (s.settleCore (coreOfThread k)).cores ∧
      ((s.core (coreOfThread k)).bankq = [] → t.cores = s.cores)) ∧
    (threadOnLC k = true → isPerchCtx k = false → ∃ t th', Machine.exec (.exit o) s = .next t ∧
      t.thread? k = some th' ∧ th'.status = .idle ∧ th'.pending = []) ∧
    (isPerchCtx k = true → ∀ r, (s.perch ((k - lcThreadBase) / 4)).running = some r →
      (s.perch ((k - lcThreadBase) / 4)).ending = none → r.sysScope = false ∨ s.remotePending k = false →
      ∃ t, Machine.exec (.exit o) s = .next t ∧ t.shipResults.length = s.shipResults.length + 1 ∧
        t.shipResults.getLast? = some ⟨(k - lcThreadBase) / 4, r, .ok, .ok, [0#32, 0#32, 0#32, 0#32]⟩)

/-! ### Traps (R28, R131, R169-R171) -/

namespace Sys2Proof.Claims

/-- The trap frame of a thread can be used: its line translates for writing by the buffer, and CODE with STATE and HANDLER
read as given; `s'` is the state after these accesses. -/
def FrameReady (s : State) (k : Nat) (th : Thread) (codeState : DWord) (handler : DWord) (s' : State) : Prop :=
  ∃ e1 l1 p1 s1 e2 l2 p2 s2 s3,
    s.frameAt k th.ctxbase .write = (some (.ok e1 l1 p1), s1) ∧
    s1.frameAt k (th.ctxbase + 0x78#64) .write = (some (.ok e2 l2 p2), s2) ∧
    s2.frameRead k (th.ctxbase + 0x20#64) 8 = (.bytes (leBytes codeState.toNat 8), s3) ∧
    s3.frameRead k th.ctxbase 8 = (.bytes (leBytes handler.toNat 8), s')

end Sys2Proof.Claims

/-- R169, R170: trap entry, where TRAPVEC is set and the frame translates, is not BUSY and holds a handler: FPC, RPC, VA,
CODE with STATE (BUSY, depth, privilege) and the loop stack are stored from offset 8 of the frame; TRAPCODE, TRAPPC and
TRAPVA take code, pc and address; the thread goes on at HANDLER, at supervisor privilege, depth 0, latches invalid. -/
def Obligations.TrapEntry : Prop :=
  ∀ (s s' : State) (k : Nat) (th : Thread) (c : Code) (arg : BitVec 16) (va rpc cs handler : DWord),
    s.thread? k = some th → s.pcb.trapvec ≠ 0#64 → FrameReady s k th cs handler s' →
    cs.getLsbD 40 = false → handler ≠ 0#64 → handler.toNat % 4 = 0 → handler.toNat < 2 ^ 55 →
    let e (i : Nat) : LoopEntry := loopAt th.loop i
    let state : Nat := 256 + th.depth * 4 + (if th.sup then 1 else 0)
    s.takeTrapAt k c arg va rpc =
      (s'.frameWrites k (th.ctxbase + 8#64)
        [th.pc, rpc, va, BitVec.ofNat 64 (codeNum c + arg.toNat * 2 ^ 16 + state * 2 ^ 32),
          (e 0).start, (e 1).start, (e 2).start, (e 3).start, (e 0).last, (e 1).last, (e 2).last, (e 3).last,
          (e 1).count ++ (e 0).count, (e 3).count ++ (e 2).count]).modThread k (fun x => { x with
        trapCode := arg ++ BitVec.ofNat 16 (codeNum c), trapPc := x.pc, trapVa := va, sup := true, depth := 0
        pc := handler, status := .ready, l0 := { x.l0 with valid := false }, l1 := { x.l1 with valid := false }
        l2 := { x.l2 with valid := false }, l3 := { x.l3 with valid := false }, calling := none })

/-- R28, R131, R169, R170: TRAP takes SOFTWARE_TRAP with its argument and resumes at the next word; a literal word reached
as an instruction takes ILLEGAL_LITERAL. A trap is fatal with its own code while TRAPVEC is 0, and a double trap is: BUSY
set, or a HANDLER of 0, a misaligned one or one beyond the address space. -/
def Obligations.TrapsTaken : Prop :=
  (∀ (s : State) (k : Nat) (th : Thread) (w : BitVec 84) (o : Opnds), Acts s k th →
    Machine.exec (.trap o) s = .next (s.takeTrapAt k .softwareTrap (o.imm.setWidth 16) 0#64 (th.pc + 12#64)) ∧
    Machine.exec (.literalWordReached w) s = .next (s.takeTrapAt k .illegalLiteral 0#16 0#64 th.pc)) ∧
  ∀ (s s' : State) (k : Nat) (th : Thread) (c : Code) (arg : BitVec 16) (va rpc cs handler : DWord),
    s.thread? k = some th →
    (s.pcb.trapvec = 0#64 → s.takeTrapAt k c arg va rpc = s.fatalThread k va th.pc c .read 0 0#64) ∧
    (s.pcb.trapvec ≠ 0#64 → FrameReady s k th cs handler s' →
      cs.getLsbD 40 = true ∨ handler = 0#64 ∨ handler.toNat % 4 ≠ 0 ∨ 2 ^ 55 ≤ handler.toNat →
      s.takeTrapAt k c arg va rpc = s'.fatalThread k va th.pc c .read 0 0#64)

/-- R171: a supervisor's TRET whose frame can be read (`f`, from offset 8): the thread goes on at RPC with the saved
depth, privilege and loop stack, latches invalid, and BUSY is cleared in the frame, where it may be written, else the TRET
parks there; a frame that TRET refuses faults ILLEGAL_OPERAND; TRET.fatal ends the group with the frame's code. That the frame
is read and judged before BUSY is written, and that TRET parks where the frame cannot be written, is the model's reading, log
entry 130. -/
def Obligations.TrapReturn : Prop :=
  ∀ (s s0 s1 s2 s3 : State) (k : Nat) (th : Thread) (o : Opnds) (e e' : DWord) (l l' pa pa' : Nat) (f : List Byte)
    (w : Option Xl), Acts s k th → s.frameAt k th.ctxbase .read = (some (.ok e l pa), s0) →
    s0.frameAt k (th.ctxbase + 0x78#64) .read = (some (.ok e' l' pa'), s1) →
    s1.frameReads k (th.ctxbase + 8#64) 14 = (.bytes f, s2) → s2.frameAt k (th.ctxbase + 0x20#64) .write = (w, s3) →
    let rpc := fieldAt f 0x08 8
    let st := fieldAt f 0x1C 4
    let depth := st / 4 % 8
    let good : Prop := rpc % 4 = 0 ∧ rpc < 2 ^ 55 ∧ depth ≤ 4 ∧ st / 2 % 2 = 0 ∧ st / 32 % 8 = 0 ∧ st / 512 % 2 ^ 23 = 0
    (good → (∃ e l pa, w = some (.ok e l pa)) → Machine.exec (.tret o) s =
      .next ((s3.frameWrite8 k (th.ctxbase + 0x20#64)
          (BitVec.ofNat 64 (fieldAt f 0x18 4 + 2 ^ 32 * (st - 256 * (st / 256 % 2))))).modThread k (fun x => { x with
        pc := BitVec.ofNat 64 rpc, depth := depth, sup := st % 2 == 1
        loop := (List.range 4).map (fun i => ⟨BitVec.ofNat 64 (fieldAt f (0x20 + 8 * i) 8),
          BitVec.ofNat 64 (fieldAt f (0x40 + 8 * i) 8), BitVec.ofNat 32 (fieldAt f (0x60 + 4 * i) 4)⟩)
        l0 := { x.l0 with valid := false }, l1 := { x.l1 with valid := false }
        l2 := { x.l2 with valid := false }, l3 := { x.l3 with valid := false } }))) ∧
    (good → ∀ c l e, w = some (.fault c l e) → c ≠ .wsReadonly →
      Machine.exec (.tret o) s = .next (s3.parkThread k (th.ctxbase + 0x24#64) th.pc c .write l e)) ∧
    (¬ good → Machine.exec (.tret o) s = .next (s2.takeTrap k .illegalOperand 0#64)) ∧
    Machine.exec (.tretFatal o) s = .next (s2.fatalThread k 0#64 th.pc (fatalCode (fieldAt f 0x18 2)) .read 0 0#64)

/-! ### Loads, stores and atomics (R135-R153) -/

namespace Sys2Proof.Claims

/-- The instructions that reach memory by an effective address with index: what address, what size, what kind. -/
def memAccess (i : Instr) : Option (MemMod × Opnds × Bool) :=
  match i with
  | .ld m o | .st m o | .atom _ m o => some (m, o, true)
  | .cas m o => some (m, o, false)
  | _ => none

/-- An effective address in a scratchpad, for an access that R136 and R140 let through. -/
structure SpadAccess (s : State) (k : Nat) (g : Group) (off n : Nat) : Prop where
  core : threadOnLC k = false
  aligned : off % n = 0
  group : s.groupOf k = some g
  held : s.spadOutside g.launch (clusterOfCore (coreOfThread k)) off n = none

/-- A global access whose translation the core's buffer gives: entry, address, the state after the lookup. -/
def GlobalAccess (s : State) (k : Nat) (va : DWord) (kind : Access) (n : Nat) (atomic clean : Bool) (e : DWord) (pa : Nat)
    (s' : State) : Prop :=
  (n ≠ 0 → va.toNat % n = 0) ∧ va.toNat < 2 ^ 55 ∧
    ∃ l, s.xlateHit (.data (coreOfThread k)) (threadReq s k va kind n atomic clean) = (some (.ok e l pa), s')

end Sys2Proof.Claims

/-- R37: the effective address is A plus the scaled, sign-extended index plus the displacement; a CAS has no index. R136,
R140: an access of a load, a store or an atomic traps at its address before it does anything. In a scratchpad, in this
order: on a latency core (UNSUPPORTED_ON_LC), misaligned (MISALIGNED), outside the launch's allocations on the cluster
(PROTECTION); in global memory: MISALIGNED, then PROTECTION beyond the address space. That UNSUPPORTED_ON_LC comes first, with
the offset as its address, is the model's choice, log entry 141. -/
def Obligations.AccessChecks : Prop :=
  (∀ (s : State) (k : Nat) (th : Thread) (m : MemMod) (o : Opnds), s.thread? k = some th →
    let a := s.read64 k o.a
    let b := a.2.read32 k o.b
    (s.effAddr k m o false).1 = a.1 + m.disp.signExtend 64 ∧
    (s.effAddr k m o true).1 = BitVec.ofInt 64 ((a.1.toNat : Int) + b.1.toInt * 2 ^ m.scale.toNat + m.disp.toInt) ∧
    ∃ th', (s.effAddr k m o true).2 = s.setThread k th' ∧ th' = { th with shadow := th'.shadow }) ∧
  ∀ (s : State) (k : Nat) (th : Thread) (i : Instr) (m : MemMod) (o : Opnds) (x : Bool), Acts s k th →
    memAccess i = some (m, o, x) → s.acquirePending k = false →
    let va := (s.effAddr k m o x).1
    let off := va.toNat % 2 ^ 21
    let n := m.size.bytes
    ∃ s' th', s' = s.setThread k th' ∧ th' = { th with shadow := th'.shadow } ∧
    (m.sp = true → threadOnLC k = true → Machine.exec i s = .next (s'.takeTrap k .unsupportedOnLc (BitVec.ofNat 64 off))) ∧
    (m.sp = true → threadOnLC k = false → off % n ≠ 0 →
      Machine.exec i s = .next (s'.takeTrap k .misaligned (BitVec.ofNat 64 off))) ∧
    (m.sp = true → ∀ g, threadOnLC k = false → off % n = 0 → s.groupOf k = some g →
      s.spadOutside g.launch (clusterOfCore (coreOfThread k)) off n ≠ none →
      Machine.exec i s = .next (s'.takeTrap k .protection (BitVec.ofNat 64 off))) ∧
    (m.sp = false → va.toNat % n ≠ 0 → Machine.exec i s = .next (s'.takeTrap k .misaligned va)) ∧
    (m.sp = false → va.toNat % n = 0 → 2 ^ 55 ≤ va.toNat → Machine.exec i s = .next (s'.takeTrap k .protection va))

namespace Sys2Proof.Claims

/-- A thread's request joins the queue of its core at the bank of its offset (R208). -/
def queued (s : State) (k tid : Nat) (a : BankAct) : State :=
  s.modCore (coreOfThread k) (·.addRequest ⟨tid / 32 % 4, 0, a⟩)

/-- A core's queue at a bank begins with a request that does `a`; `t` is the state with that request taken away. -/
def Served (s : State) (core bank : Nat) (a : BankAct) (t : State) : Prop :=
  ∃ r rs, AMap.getD (s.core core).bankq bank [] = r :: rs ∧ r.act = a ∧ t = s.modCore core (fun c =>
    { c with bankq := if rs = [] then AMap.erase c.bankq bank else AMap.set c.bankq bank rs })

/-- The little-endian value of bytes of a cluster's scratchpad. -/
def spadVal (s : State) (c off n : Nat) : Nat := leNat ((List.range n).map (fun i => (s.cluster c).spadByte (off + i)))

/-- The result of an access that a lane's register takes. -/
def laneResult (l : BankLane) (v : Nat) : Option Landing :=
  l.reg.map (fun r => ⟨l.thread, some r, loadWords l.size v, none, none, none⟩)

end Sys2Proof.Claims

/-- R141, R143, R207, R208: a scratchpad load makes D pending and joins the queue of its bank: at its end, or with another load
of its unit from the same issue; a bank serves the first request of the core whose turn it is. Served, it sends the
little-endian value of each lane's bytes to the lane's register, and the scratchpads stay as they are. An acquire reads at
once, behind what its core has queued: the model's choice, log entry 150. -/
def Obligations.ScratchpadLoad : Prop :=
  (∀ (s : State) (k : Nat) (th : Thread) (g : Group) (m : MemMod) (o : Opnds), Acts s k th → m.sp = true →
    s.acquirePending k = false →
    let a := s.effAddr k m o true
    let off := a.1.toNat % 2 ^ 21
    let c := clusterOfCore (coreOfThread k)
    let lane : BankLane := ⟨k, destReg o.d, off, m.size⟩
    SpadAccess a.2 k g off m.size.bytes →
    (m.order.acqs = false →
      Machine.exec (.ld m o) s = .next ((queued (a.2.pendD k o.d m.size.regs) k th.tid (.load [lane])).advance k o.len)) ∧
    (m.order.acqs = true →
      let q := ((a.2.acquireSpad k true m.scope).pendD k o.d m.size.regs).settleCore (coreOfThread k)
      Machine.exec (.ld m o) s = .next (State.advance
        { q with landings := q.landings ++ (laneResult lane (spadVal q c off m.size.bytes)).toList } k o.len))) ∧
  (∀ (c : Core) (r : BankReq), let b := r.act.offset / 16 % 64
    let old := AMap.getD c.bankq b []
    let new := AMap.getD (c.addRequest r).bankq b []
    new = old ++ [r] ∨ ∃ pre x post ls ls', old = pre ++ x :: post ∧ x.act = .load ls ∧ r.act = .load ls' ∧
      x.quarter = r.quarter ∧ x.age = 0 ∧ x.act.offset / 16 = r.act.offset / 16 ∧
      new = pre ++ { x with act := .load (ls ++ ls') } :: post) ∧
  (∀ (s : State) (core bank : Nat), core < 1024 → s.bankDue (core / 4) bank = some (core % 4) → s.serveBank core bank =
    (s.modCluster (core / 4) (fun c => { c with bankNext := AMap.set c.bankNext bank ((core % 4 + 1) % 5) })).serveFirst core
      bank) ∧
  ∀ (s t : State) (core bank : Nat) (ls : List BankLane), Served s core bank (.load ls) t →
    let results := ls.filterMap (fun l => laneResult l (spadVal s (clusterOfCore core) l.off l.size.bytes))
    s.serveFirst core bank = { t with landings := s.landings ++ results }

/-- R143, R183, R148, R208: a scratchpad store that meets an armed barrier object traps BARRIER_CLOBBER; any other joins the
queue of its bank, and when it is served writes its bytes and no other byte. An object armed meanwhile keeps its bytes, and
a release, which comes first, has its effect at once, behind what its core has queued: the model's choices, log entry
150. -/
def Obligations.ScratchpadStore : Prop :=
  (∀ (s : State) (k : Nat) (th : Thread) (g : Group) (m : MemMod) (o : Opnds), Acts s k th → m.sp = true →
    s.acquirePending k = false →
    let a := s.effAddr k m o true
    let d := a.2.readData k m.size o.c
    let off := a.1.toNat % 2 ^ 21
    let c := clusterOfCore (coreOfThread k)
    let n := m.size.bytes
    SpadAccess d.2 k g off n →
    ((d.2.cluster c).objectIn off n ≠ none →
      Machine.exec (.st m o) s = .next (d.2.takeTrap k .barrierClobber (BitVec.ofNat 64 off))) ∧
    ((d.2.cluster c).objectIn off n = none →
      (m.order.rels = false →
        Machine.exec (.st m o) s = .next ((queued d.2 k th.tid (.store off (leBytes d.1 n))).advance k o.len)) ∧
      (m.order.rels = true →
        let r := (d.2.releaseAt k (actScope true m.scope)).settleCore (coreOfThread k)
        Machine.exec (.st m o) s = .next ((r.bankStore c off (leBytes d.1 n)).advance k o.len)))) ∧
  (∀ (s t : State) (core bank off : Nat) (bs : List Byte), Served s core bank (.store off bs) t →
    s.serveFirst core bank = t.bankStore (clusterOfCore core) off bs) ∧
  ∀ (s : State) (c c' off n v i : Nat), off + n ≤ 2 ^ 21 → i < 2 ^ 21 → cellsWf (s.cluster c).spad 0#8 = true →
    let t := s.bankStore c off (leBytes v n)
    t = { s with clusters := t.clusters } ∧ (t.cluster c').spadByte i =
      (if (s.cluster c).objectIn off n = none ∧ c' = c ∧ off ≤ i ∧ i < off + n then BitVec.ofNat 8 (v / 256 ^ (i - off))
       else (s.cluster c').spadByte i)

/-- R144, R145, R147, R148, R183, R208: an atomic in a scratchpad traps BARRIER_CLOBBER on an armed barrier object; any other
makes D pending and joins the queue of its bank. When it is served it writes the new value, a CAS only where the old value is
the one compared with, and sends the old value to D. One that is an acquire or a release has its effect at once, behind what
its core has queued (the model's choice, log entry 150): after its release, its acquire behind it. -/
def Obligations.ScratchpadAtomic : Prop :=
  (∀ (s : State) (k : Nat) (th : Thread) (g : Group) (op : AtomOp) (m : MemMod) (o : Opnds), Acts s k th → m.sp = true →
    s.acquirePending k = false → m.size = .b32 ∨ m.size = .b64 →
    let n := m.size.bytes
    let c := clusterOfCore (coreOfThread k)
    let ordered := m.order.rels || m.order.acqs
    let settled (t : State) : State :=
      ((if m.order.rels then t.releaseAt k (actScope true m.scope) else t).pendD k o.d m.size.regs).settleCore (coreOfThread k)
    (let a := s.effAddr k m o true
     let d := a.2.readData k m.size o.c
     let off := a.1.toNat % 2 ^ 21
     let lane : BankLane := ⟨k, destReg o.d, off, m.size⟩
     let q := settled d.2
     let old := spadVal q c off n
     SpadAccess d.2 k g off n →
     ((d.2.cluster c).objectIn off n ≠ none →
       Machine.exec (.atom op m o) s = .next (d.2.takeTrap k .barrierClobber (BitVec.ofNat 64 off))) ∧
     ((d.2.cluster c).objectIn off n = none →
       (ordered = false → Machine.exec (.atom op m o) s =
         .next ((queued (d.2.pendD k o.d m.size.regs) k th.tid (.atom lane op d.1)).advance k o.len)) ∧
       (ordered = true → Machine.exec (.atom op m o) s =
         .next ((((q.bankStore c off (leBytes (atomNat op n old d.1) n)).laneLands lane old).acquireSpad k m.order.acqs
           m.scope).advance k o.len)))) ∧
    (let a := s.effAddr k m o false
     let x := a.2.readData k m.size o.b
     let d := x.2.readData k m.size o.c
     let off := a.1.toNat % 2 ^ 21
     let lane : BankLane := ⟨k, destReg o.d, off, m.size⟩
     let q := settled d.2
     let old := spadVal q c off n
     SpadAccess d.2 k g off n →
     ((d.2.cluster c).objectIn off n ≠ none →
       Machine.exec (.cas m o) s = .next (d.2.takeTrap k .barrierClobber (BitVec.ofNat 64 off))) ∧
     ((d.2.cluster c).objectIn off n = none →
       (ordered = false → Machine.exec (.cas m o) s =
         .next ((queued (d.2.pendD k o.d m.size.regs) k th.tid (.cas lane x.1 d.1)).advance k o.len)) ∧
       (ordered = true → Machine.exec (.cas m o) s =
         .next ((((if old = x.1 then q.bankStore c off (leBytes d.1 n) else q).laneLands lane old).acquireSpad k m.order.acqs
           m.scope).advance k o.len))))) ∧
  (∀ (s t : State) (core bank : Nat) (l : BankLane) (op : AtomOp) (x v : Nat), let c := clusterOfCore core
    let n := l.size.bytes
    let old := spadVal t c l.off n
    (Served s core bank (.atom l op v) t →
      s.serveFirst core bank = (t.bankStore c l.off (leBytes (atomNat op n old v) n)).laneLands l old) ∧
    (Served s core bank (.cas l x v) t →
      s.serveFirst core bank = (if old = x then t.bankStore c l.off (leBytes v n) else t).laneLands l old)) ∧
  ∀ (s : State) (l : BankLane) (v : Nat),
    s.laneLands l v = { s with landings := s.landings ++ (laneResult l v).toList }

namespace Sys2Proof.Claims

/-- The lesser or the greater of two patterns, as FMIN and FMAX without `.nan` choose it (R96). -/
def extremum (f : FFmt) (greater : Bool) (x y : Nat) : Nat :=
  let isNan (z : Nat) : Bool := (f.decode z).isNan
  if isNan x then (if isNan y then f.nan else y) else if isNan y then x
  else if greater = decide (place f true x < place f true y) then y else x

/-- R60, R94, R144: `z` is the pattern of the sum of two: the exact sum rounded once to nearest, with the sign of a zero; an
infinity; the canonical NaN. -/
def RoundedSum (f : FFmt) (x y z : Nat) : Prop :=
  let half := 2 ^ (f.ew + f.p - 1)
  let inf (i : Bool) : Nat := (if i then half else 0) + top f
  (∀ a b : Rat, num (f.decode x) = some a → num (f.decode y) = some b →
    (a + b = 0 → z = if half ≤ x ∧ half ≤ y then half else 0) ∧
    (0 < a + b → z / half = 0 ∧ RoundedTo f .rn 0 false (a + b) (z % half)) ∧
    (a + b < 0 → z / half = 1 ∧ RoundedTo f .rn 0 true (-(a + b)) (z % half))) ∧
  ((f.decode x).isNan = true ∨ (f.decode y).isNan = true → z = f.nan) ∧
  (∀ i, x = inf i → y = inf (!i) → z = f.nan) ∧
  ∀ i, (x = inf i ∧ (f.decode y).isNan = false ∧ y ≠ inf (!i)) ∨ (y = inf i ∧ (f.decode x).isNan = false ∧ x ≠ inf (!i)) →
    z = inf i

end Sys2Proof.Claims

/-- R144, R96: what the operations of ATOM compute, on the operand's width: exact integers, the floating-point sum rounded
once to nearest, the lesser and the greater floating-point value. -/
def Obligations.AtomicOperations : Prop :=
  ∀ (n old v : Nat), n = 4 ∨ n = 8 → old < 256 ^ n → v < 256 ^ n →
    let w := 8 * n
    let sg (x : Nat) : Int := if 2 ^ (w - 1) ≤ x then (x : Int) - 2 ^ w else x
    atomNat .add n old v = (old + v) % 2 ^ w ∧ atomNat .and n old v = old &&& v ∧ atomNat .or n old v = old ||| v ∧
    atomNat .xor n old v = old ^^^ v ∧ atomNat .exch n old v = v ∧ atomNat .umin n old v = min old v ∧
    atomNat .umax n old v = max old v ∧ atomNat .smin n old v = (if sg old ≤ sg v then old else v) ∧
    atomNat .smax n old v = (if sg old ≤ sg v then v else old) ∧
    let f : FFmt := if n = 4 then fF32 else fF64
    RoundedSum f old v (atomNat .fadd n old v) ∧ atomNat .fmin n old v = extremum f false old v ∧
    atomNat .fmax n old v = extremum f true old v

/-- R141, R285, R290: LD through a translation that the buffer holds: of memory of the package, D gets the bytes that the
core sees there, or without acquire those that it sees as the load lands (log entry 27); of the control block, those of its registers (R377); of another device, D is pending and the request is
on its way, where the link has room (R399, R400). -/
def Obligations.GlobalLoad : Prop :=
  ∀ (s s1 : State) (k : Nat) (th : Thread) (m : MemMod) (o : Opnds) (e : DWord) (pa h : Nat), Acts s k th → m.sp = false →
    s.acquirePending k = false →
    let a := s.effAddr k m o true
    GlobalAccess a.2 k a.1 .read m.size.bytes false false e pa s1 →
    let core := coreOfThread k
    let sys := m.order.acqs && m.scope == .sys
    (placeOf pa = .hbm h ∨ placeOf pa = .ws h →
      let u := s1.refreshStall core pa (s1.whoOf k)
      let r := u.coreLoad core pa m.size.bytes e (m.opx.getLsbD 0) (u.whoOf k)
      (m.order.acqs = true → Machine.exec (.ld m o) s =
        .next ((if sys then r.2.acquireSys core else r.2).finishLoad k m.size o (leNat r.1))) ∧
      (m.order.acqs = false → Machine.exec (.ld m o) s =
        .next (r.2.finishLate k m.size o (leNat r.1) ⟨core, pa, m.size, e, m.opx.getLsbD 0⟩))) ∧
    (placeOf pa = .pcb → Machine.exec (.ld m o) s = .next ((if sys then s1.acquireSys core else s1).finishLoad k m.size o
      (leNat (s1.pcbRead (pa - pcbBase) m.size.bytes)))) ∧
    (placeOf pa = .aperture h →
      let dev := apertureDevice (s1.aperture h)
      let u := match destReg o.d with
        | some r => s1.modThread k (·.pend r m.size.regs)
        | none => s1
      (s1.linkRoom dev 0 = true → Machine.exec (.ld m o) s =
        .next ((u.sendRequest k dev 0 a.1 (.load (destReg o.d) m.size m.order.acqs (if sys then .sys else .plain))
          (.load (apertureTarget (s1.aperture h) pa) m.size.bytes)).advance k o.len)) ∧
      (s1.linkRoom dev 0 = false → Machine.exec (.ld m o) s = .next { s1 with retry := true }))

/-- R139, R143, R148, R289: ST through a translation that the buffer holds, after its release: to memory of the package,
the bytes are the core's store at the translated address, and without room in the write-combining buffer it does not
issue; to the control block, its registers take them (R377); to another device, the request is on its way (R399). The state
keeps which releases a later load of the place reads (R148). -/
def Obligations.GlobalStore : Prop :=
  ∀ (s s1 : State) (k : Nat) (th : Thread) (m : MemMod) (o : Opnds) (e : DWord) (pa h : Nat), Acts s k th → m.sp = false →
    s.acquirePending k = false →
    let a := s.effAddr k m o true
    let d := a.2.readData k m.size o.c
    GlobalAccess d.2 k a.1 .write m.size.bytes false false e pa s1 →
    ¬ (m.order.rels = true ∧ s1.releaseWaits k m.scope = true) →
    let r := if m.order.rels then s1.releaseAt k m.scope else s1
    (placeOf pa = .hbm h ∨ placeOf pa = .ws h →
      (r.storeRoom (coreOfThread k) pa e (m.opx.getLsbD 1) = true → Machine.exec (.st m o) s =
        .next (((r.coreStore (coreOfThread k) k pa (leBytes d.1 m.size.bytes) e (m.opx.getLsbD 0) (m.opx.getLsbD 1)
          (r.whoOf k)).noteWrite k pa m.size.bytes (r.releasing k m.order.rels)).advance k o.len)) ∧
      (r.storeRoom (coreOfThread k) pa e (m.opx.getLsbD 1) = false → Machine.exec (.st m o) s = .next { r with retry := true })) ∧
    (placeOf pa = .pcb → Machine.exec (.st m o) s =
      .next ((r.pcbWrite (pa - pcbBase) (leBytes d.1 m.size.bytes)).advance k o.len)) ∧
    (placeOf pa = .aperture h → o.d = .none →
      let dev := apertureDevice (r.aperture h)
      (r.linkRoom dev 0 = true → Machine.exec (.st m o) s = .next (((r.sendRequest k dev 0 a.1 .store
        (.store (apertureTarget (r.aperture h) pa) m.size.bytes (BitVec.ofNat 128 d.1))).advance k o.len).noteWrite k pa
          m.size.bytes (r.releasing k m.order.rels))) ∧
      (r.linkRoom dev 0 = false → Machine.exec (.st m o) s = .next { r with retry := true }))

/-- R285, R289: a core's store. To a page that is not its own, and every ST.nt: its bytes stand in the core's write-combining
buffer at the stored address, over whatever its caches and the home give for the line; every other byte of every line reads
as before, and nothing but that buffer changes, where the page is its own after its L1 has given up the line. To its own
page: the line stands in its L1 with the stored bytes, which are its dirty ones, and every other byte as it stood there or
came from the home; no other line of the L1 and no other core changes. Without allocation and with the line not there, the
store goes to the home. -/
def Obligations.StoreFrame : Prop :=
  (∀ (s : State) (core k pa h : Nat) (bs : List Byte) (e : DWord) (na nt : Bool) (who : Option Bool) (ln i : Nat)
    (below : LineData), placeOf pa = .hbm h → ownedBy e core = false ∨ nt = true → pa % 128 + bs.length ≤ 128 → i < 128 →
    let u := if ownedBy e core then s.l1Evict core (lineNo pa) else s
    let t := s.coreStore core k pa bs e na nt who
    t = { u with cores := t.cores } ∧ (∀ c, c ≠ core → t.core c = u.core c) ∧
    t.core core = { u.core core with wc := (t.core core).wc } ∧
    lineByte ((t.core core).wcOverlay ln below) i =
      (if ln = lineNo pa ∧ pa % 128 ≤ i ∧ i < pa % 128 + bs.length then (bs[i - pa % 128]?).getD 0#8
       else lineByte ((u.core core).wcOverlay ln below) i)) ∧
  ∀ (s : State) (core k pa h : Nat) (bs : List Byte) (e : DWord) (na : Bool) (who : Option Bool), placeOf pa = .hbm h →
    ownedBy e core = true → pa % 128 + bs.length ≤ 128 → AMap.sorted (s.core core).l1 = true →
    let ln := lineNo pa
    let within (i : Nat) : Prop := pa % 128 ≤ i ∧ i < pa % 128 + bs.length
    let byte (i : Nat) : Byte := (bs[i - pa % 128]?).getD 0#8
    let t := s.coreStore core k pa bs e na false who
    (∀ x, s.ownSend core ln = s → AMap.get? (s.core core).l1 ln = some x →
      t = { s with cores := t.cores } ∧ (∀ c, c ≠ core → t.core c = s.core c) ∧
      t.core core = { s.core core with
        l1 := (t.core core).l1, pmc0 := (t.core core).pmc0, pmc1 := (t.core core).pmc1, pmc2 := (t.core core).pmc2
        pmc3 := (t.core core).pmc3 } ∧
      (∀ j, j ≠ ln → AMap.get? (t.core core).l1 j = AMap.get? (s.core core).l1 j) ∧
      ∃ y, AMap.get? (t.core core).l1 ln = some y ∧ ∀ i, i < 128 →
        (within i → lineByte y.data i = byte i ∧ y.dirty.getLsbD i = true) ∧
        (¬ within i → lineByte y.data i = lineByte x.data i ∧ y.dirty.getLsbD i = x.dirty.getLsbD i)) ∧
    (AMap.get? ((s.ownSend core ln).core core).l1 ln = none → na = false → pteNa e = false →
      let r := s.ownLine core ln e false who 0
      t = { r.2 with cores := t.cores } ∧ (∀ c, c ≠ core → t.core c = r.2.core c) ∧
      ∃ y, AMap.get? (t.core core).l1 ln = some y ∧ ∀ i, i < 128 →
        (within i → lineByte y.data i = byte i ∧ y.dirty.getLsbD i = true) ∧
        (¬ within i → lineByte y.data i = lineByte r.1 i ∧ y.dirty.getLsbD i = false)) ∧
    (AMap.get? ((s.ownSend core ln).core core).l1 ln = none → na = true ∨ pteNa e = true →
      ∃ (data : LineData) (mask : BitVec 128),
        t = (s.ownSend core ln).homeStore h ln data mask (pteTensor e) (pteKey e) true (some core) none ∧
        ∀ i, i < 128 → (within i → lineByte data i = byte i ∧ mask.getLsbD i = true) ∧
          (¬ within i → mask.getLsbD i = false))

/-- R144, R145: ATOM and CAS through a translation that the buffer holds: on memory of the package, one access of the core
that gives D the old value; on another device's, a request that is on its way, with D pending (R399, R400). -/
def Obligations.GlobalAtomic : Prop :=
  ∀ (s s1 : State) (k : Nat) (th : Thread) (op : AtomOp) (m : MemMod) (o : Opnds) (e : DWord) (pa h : Nat), Acts s k th →
    m.sp = false → s.acquirePending k = false →
    let finish (r : State) (f : Nat → Option Nat) : State :=
      let x := r.coreAtomic (coreOfThread k) k pa m.size.bytes e f (r.whoOf k)
      let y := if (f x.1).isSome then x.2.noteWrite k pa m.size.bytes (x.2.releasing k m.order.rels) else x.2
      (if m.order.acqs then y.acquireAt k m.scope else y).finishLoad k m.size o x.1
    let r := if m.order.rels then s1.releaseAt k m.scope else s1
    let away (va : DWord) (op : Nat → FabOp) : State :=
      let u := match destReg o.d with
        | some n => r.modThread k (·.pend n m.size.regs)
        | none => r
      ((u.sendRequest k (apertureDevice (r.aperture h)) 0 va
        (.atom (destReg o.d) (m.size == .b64) m.order.acqs (m.order.acqs && m.scope == .sys))
        (op (apertureTarget (r.aperture h) pa))).advance k o.len).noteWrite k pa m.size.bytes (r.releasing k m.order.rels)
    let room := r.linkRoom (apertureDevice (r.aperture h)) 0
    ¬ (m.order.rels = true ∧ s1.releaseWaits k m.scope = true) →
    (let a := s.effAddr k m o true
     let d := a.2.readData k m.size o.c
     GlobalAccess d.2 k a.1 .write m.size.bytes true false e pa s1 →
     (placeOf pa = .hbm h ∨ placeOf pa = .ws h →
       Machine.exec (.atom op m o) s = .next (finish r (fun old => some (atomNat op m.size.bytes old d.1)))) ∧
     (placeOf pa = .aperture h → room = true →
       Machine.exec (.atom op m o) s = .next (away a.1 (fun p => .atom op (m.size == .b64) p (BitVec.ofNat 64 d.1))))) ∧
    (let a := s.effAddr k m o false
     let x := a.2.readData k m.size o.b
     let d := x.2.readData k m.size o.c
     GlobalAccess d.2 k a.1 .write m.size.bytes true false e pa s1 →
     (placeOf pa = .hbm h ∨ placeOf pa = .ws h →
       Machine.exec (.cas m o) s = .next (finish r (fun old => if old = x.1 then some d.1 else none))) ∧
     (placeOf pa = .aperture h → room = true →
       Machine.exec (.cas m o) s = .next (away a.1 (fun p => .cas (m.size == .b64) p (BitVec.ofNat 64 x.1) (BitVec.ofNat 64 d.1)))))

/-- R23, R141, R150: a load's registers are pending until LOAD_LANDS gives them the value, extended as its size says; then a
thread that waited for them goes on. A load that nothing was ordered after may take the value that its core sees as it
lands, unless a later load of its thread has read the place: the model's reading, log entry 27. -/
def Obligations.LoadLands : Prop :=
  ∀ (s : State) (k v : Nat) (th : Thread) (z : Size) (o : Opnds) (r : BitVec 8), s.thread? k = some th →
    s.taskReclaimed k = false → o.d = .gpr r → r.toNat < 240 →
    let ws := loadWords z v
    let t := s.finishLoad k z o v
    t = { s with
      threads := AMap.set s.threads k (passed o.len { th with pending := th.pending ++ (List.range ws.length).map (r.toNat + ·) })
      landings := s.landings ++ [⟨k, some r.toNat, ws, none, none, none⟩] } ∧
    (∀ a : LateLoad, let fixed (l : Landing) : Landing := if l.thread == k && l.again.any (fun b =>
          decide (b.pa < a.pa + a.size.bytes) && decide (a.pa < b.pa + b.size.bytes)) then { l with again := none } else l
      s.finishLate k z o v a = { t with
        landings := s.landings.map fixed ++ [⟨k, some r.toNat, ws, none, none, some a⟩] }) ∧
    (z = .s8 → ws = [(BitVec.ofNat 8 v).signExtend 32]) ∧ (z = .s16 → ws = [(BitVec.ofNat 16 v).signExtend 32]) ∧
    (z = .b8 ∨ z = .b16 ∨ z = .b32 → ws = [BitVec.ofNat 32 v]) ∧
    (z = .b64 → ws = [BitVec.ofNat 32 v, BitVec.ofNat 32 (v / 2 ^ 32)]) ∧
    (z = .b128 → ws = [BitVec.ofNat 32 v, BitVec.ofNat 32 (v / 2 ^ 32), BitVec.ofNat 32 (v / 2 ^ 64), BitVec.ofNat 32 (v / 2 ^ 96)]) ∧
    (∀ (u : State) (x : Thread) (ws : List Word), u.thread? k = some x → x.status ≠ .exited →
      u.deliver k r.toNat ws = { u with threads := AMap.set u.threads k (Thread.wake { x.setRegs r.toNat ws with
        pending := x.pending.filter (fun p => !((List.range ws.length).map (r.toNat + ·)).contains p) }) }) ∧
    ∀ (u : State) (n : Nat) (l : Landing), u.landings[n]? = some l → l.thread = k → l.reg = some r.toNat →
      l.tok = none → l.gid = none →
      let p : State := { u with landings := u.landings.eraseIdx n }
      (l.again = none → Machine.exec (.loadLands n) u = .next (p.deliver k r.toNat l.words)) ∧
      ∀ a, l.again = some a →
        let seen := p.uncounted a.core (fun q => q.coreLoad a.core a.pa a.size.bytes a.entry a.na none)
        let now := loadWords a.size (leNat seen.1)
        let c := p.choose 2
        (u.backed a.pa = false ∨ now = l.words → Machine.exec (.loadLands n) u = .next (p.deliver k r.toNat l.words)) ∧
        (u.backed a.pa = true → now ≠ l.words →
          (c.1 = 0 → Machine.exec (.loadLands n) u = .next (c.2.deliver k r.toNat l.words)) ∧
          (c.1 ≠ 0 → Machine.exec (.loadLands n) u =
            .next (({ seen.2 with choices := c.2.choices, free := c.2.free } : State).deliver k r.toNat now)))

/-- R31, R142: LDK reads words of the constant banks at once; an index out of the banks, or an odd one for a pair, faults
ILLEGAL_OPERAND. That A is unsigned and the sum exact, not modulo 2^32, is the model's reading, log entry 20. -/
def Obligations.ConstantLoad : Prop :=
  ∀ (s : State) (k : Nat) (th th' : Thread) (m : MemMod) (o : Opnds), Acts s k th →
    let a := s.read32 k o.a
    let e : Int := (a.1.toNat : Int) + m.disp.toInt
    a.2.thread? k = some th' → s.taskReclaimed k = false →
    (e < 0 ∨ 4096 ≤ e ∨ (m.size = .b64 ∧ e % 2 = 1) → Machine.exec (.ldk m o) s = .next (s.takeTrap k .illegalOperand 0#64)) ∧
    (¬ (e < 0 ∨ 4096 ≤ e ∨ (m.size = .b64 ∧ e % 2 = 1)) → ∀ r : BitVec 8, o.d = .gpr r → r.toNat < 240 →
      Machine.exec (.ldk m o) s = .next (a.2.setThread k (passed o.len (th'.setRegs r.toNat
        ((List.range m.size.regs).map (fun i => a.2.constWord k ((e.toNat + i) / 256) ((e.toNat + i) % 256)))))))

/-- R143, R146, R148, R151-R153: prefetch, drain, fence, maintenance and the acquiring load ACQR complete. PREF never
faults: it brings its line in, or is dropped where its translation faults; only a page walk holds it back. DRAIN lets the
thread's non-temporal stores be covered by its next release; a FENCE releases, then acquires; DISCARD, CLEAN and INVAL act
on the line of a translated address, or, with `.t`, on every line of the die with the tag, after the core's own stores to
them; ACQR loads and then forces the releases that it reads. How a walk holds an instruction back is the model's choice, log
entry 43. -/
def Obligations.OrderingInstructions : Prop :=
  (∀ (s s1 s2 : State) (k : Nat) (th : Thread) (m : MemMod) (o : Opnds), Acts s k th →
    let core := coreOfThread k
    let a := s.effAddr k m o true
    let q := threadReq a.2 k a.1 .read 0 false false
    (2 ^ 55 ≤ a.1.toNat → Machine.exec (.pref m o) s = .next (a.2.advance k o.len)) ∧
    (∀ e l pa, a.1.toNat < 2 ^ 55 → a.2.xlateHit (.data core) q = (some (.ok e l pa), s1) →
      ((homeDie pa = none ∨ s1.refreshing pa = true) → Machine.exec (.pref m o) s = .next (s1.advance k o.len)) ∧
      (homeDie pa ≠ none → s1.refreshing pa = false →
        Machine.exec (.pref m o) s = .next ((if m.opx.getLsbD 0 then (s1.engineRead core pa 0 e false).2
          else (s1.coreLoad core pa 0 e false (s1.whoOf k)).2).advance k o.len))) ∧
    (∀ r, a.1.toNat < 2 ^ 55 → a.2.xlateHit (.data core) q = (some r, s1) → (∀ e l pa, r ≠ .ok e l pa) →
      Machine.exec (.pref m o) s = .next (s1.advance k o.len)) ∧
    (∀ w, a.1.toNat < 2 ^ 55 → a.2.xlateHit (.data core) q = (none, s1) →
      s1.takeWalked (.thread k) a.1 .read = (some w, s2) → Machine.exec (.pref m o) s = .next (s2.advance k o.len)) ∧
    (a.1.toNat < 2 ^ 55 → a.2.xlateHit (.data core) q = (none, s1) → s1.takeWalked (.thread k) a.1 .read = (none, s2) →
      Machine.exec (.pref m o) s = .next { s2.queueWalkAs k q true with retry := true })) ∧
  (∀ (s : State) (k : Nat) (th : Thread) (m : MemMod) (o : Opnds), Acts s k th →
    let core := coreOfThread k
    let a := s.read32 k o.a
    let lines := a.2.wcSendIf core (fun e => e.tensor == a.1.setWidth 6)
    let swept (act : Option (BitVec 6) → State → Nat → Nat → State) : State :=
      ((lines.taggedLines (dieOfCore core) (a.1.setWidth 6)).foldl
        (fun u ln => act (some (a.1.setWidth 6)) u (dieOfCore core) ln) lines).advance k o.len
    Machine.exec (.drain m o) s = .next ((s.drainNt core k).advance k o.len) ∧
    (∀ (n : Nat) (en : WcEntry) (t : Nat), ((s.drainNt core k).core core).wc[n]? = some en → t ∈ en.ntOwners → t ≠ k) ∧
    (s.acquirePending k = false →
      let waits : Bool := (m.order.rels && m.scope == .sys && s.remotePending k) ||
        (m.order.acqs && m.scope == .sys && s.loadPending k)
      let r := if m.order.rels then (s.releaseAt k m.scope).modThread k (fun th => { th with fenced := true }) else s
      let q := if m.order.acqs then r.acquireAt k m.scope else r
      (waits = true → Machine.exec (.fence m o) s = .next { s with retry := true }) ∧
      (waits = false → m.order = .ar → Machine.exec (.fence m o) s = .next ((q.fenceClocks core m.scope).advance k o.len)) ∧
      (waits = false → m.order ≠ .ar →
        Machine.exec (.fence m o) s = .next ((q.acquireSpad k m.order.acqs m.scope).advance k o.len))) ∧
    (s.acquirePending k = false → m.tensorForm = true →
      (64 ≤ a.1.toNat ∨ a.1 = 0#32 → ∀ i ∈ [Instr.discard m o, .clean m o, .inval m o],
        Machine.exec i s = .next (s.takeTrap k .illegalOperand 0#64)) ∧
      (a.1.toNat < 64 → a.1 ≠ 0#32 → Machine.exec (.discard m o) s = .next (swept (fun g u => u.discardLine g)) ∧
        Machine.exec (.clean m o) s = .next (swept (fun g u => u.cleanLine g)) ∧
        Machine.exec (.inval m o) s = .next (swept (fun g u => u.invalLine g))))) ∧
  (∀ (s s1 : State) (k h : Nat) (th : Thread) (m : MemMod) (o : Opnds) (e : DWord) (pa : Nat), Acts s k th →
    s.acquirePending k = false →
    let core := coreOfThread k
    let a := s.effAddr k m o true
    let own := s1.wcSendLine core (lineNo pa)
    (m.tensorForm = false → GlobalAccess a.2 k a.1 .write 0 false false e pa s1 →
      (placeOf pa = .hbm h →
        Machine.exec (.discard m o) s = .next ((own.discardLine none (dieOfCore core) (lineNo pa)).advance k o.len) ∧
        Machine.exec (.inval m o) s = .next ((own.invalLine none (dieOfCore core) (lineNo pa)).advance k o.len)) ∧
      (placeOf pa = .ws h → ∀ i ∈ [Instr.discard m o, .inval m o],
        Machine.exec i s = .next ((s1.dropL1 none (dieOfCore core) (lineNo pa)).advance k o.len))) ∧
    (m.tensorForm = false → GlobalAccess a.2 k a.1 .write 0 false true e pa s1 →
      (placeOf pa = .hbm h →
        Machine.exec (.clean m o) s = .next ((own.cleanLine none (dieOfCore core) (lineNo pa)).advance k o.len)) ∧
      (placeOf pa = .ws h → Machine.exec (.clean m o) s = .next (s1.advance k o.len))) ∧
    (GlobalAccess a.2 k a.1 .read m.size.bytes false false e pa s1 →
      let n := m.size.bytes
      let edge : Acquire := .force m.scope pa n
      (s1.forceWaits core m.scope pa n = true → Machine.exec (.acqr m o) s = .next { s1 with retry := true }) ∧
      (s1.forceWaits core m.scope pa n = false → placeOf pa = .hbm h ∨ placeOf pa = .ws h →
        let u := s1.refreshStall core pa (s1.whoOf k)
        let r := u.coreLoad core pa n e false (u.whoOf k)
        Machine.exec (.acqr m o) s = .next ((r.2.acquireEdge core edge).finishLoad k m.size o (leNat r.1))) ∧
      (s1.forceWaits core m.scope pa n = false → placeOf pa = .pcb → Machine.exec (.acqr m o) s =
        .next ((s1.acquireEdge core edge).finishLoad k m.size o (leNat (s1.pcbRead (pa - pcbBase) n)))) ∧
      (s1.forceWaits core m.scope pa n = false → placeOf pa = .aperture h →
        s1.linkRoom (apertureDevice (s1.aperture h)) 0 = true →
        Machine.exec (.acqr m o) s = .next (((match destReg o.d with
          | some r => s1.modThread k (·.pend r m.size.regs)
          | none => s1).sendRequest k (apertureDevice (s1.aperture h)) 0 a.1 (.load (destReg o.d) m.size true edge)
            (.load (apertureTarget (s1.aperture h) pa) n)).advance k o.len)))) ∧
  ∀ (s : State) (d ln c : Nat), (∀ c, AMap.sorted (s.core c).l1 = true) → AMap.sorted (s.die d).l2 = true → dieOfCore c = d →
    ((s.dropL1 none d ln).l2Evict d ln).l2 d ln = none ∧
    AMap.get? (((s.dropL1 none d ln).l2Evict d ln).core c).l1 ln = none ∧
    (∀ (g : BitVec 6) (l : L1Line), AMap.get? (s.core c).l1 ln = some l →
      AMap.get? ((s.dropL1 (some g) d ln).core c).l1 ln = if l.tensor = g then none else some l)

/-! ### Barriers, convergence sets and spawned groups (R165, R180-R201) -/

namespace Sys2Proof.Claims

/-- Thread `k` of group `gk` (contents `g`) executes a barrier instruction that names barrier `r` (R181, R182, R184);
`s1` is the state once the name has been read. -/
structure OnBarrier (s : State) (k gk : Nat) (g : Group) (b : BarMod) (o : Opnds) (r : BarRef) (s1 : State) : Prop where
  acts : ∃ th, Acts s k th ∧ th.group = some gk
  held : s.groupOf k = some g
  named : if b.obj then
      let a := s.read32 k o.a
      let off := (((a.1.toNat : Int) + b.imm20.toInt) % 2 ^ 21).toNat
      off % 16 = 0 ∧
        s.spadOutside g.launch (clusterOfCore g.core) off 16 = none ∧ r = .obj (clusterOfCore g.core) off ∧ s1 = a.2
    else b.bar.toNat < g.bars.length ∧ r = .reg gk b.bar.toNat ∧ s1 = s

/-- D receives words later, and the thread goes on past the instruction (R23, R141). -/
def sends (s : State) (k : Nat) (o : Opnds) (ws : List Word) : State := (s.sendResult k (destReg o.d) ws).advance k o.len

/-- The instructions that name a barrier by its register or object. -/
def barrierWords (b : BarMod) (o : Opnds) : List Instr :=
  [.barinit b o, .bararv false b o, .bararv true b o, .barwait b o, .barsync b o, .barstat b o, .barstatClr b o, .barinv b o]

end Sys2Proof.Claims

/-- R181, R182, R185-R191: naming a barrier, and what the barrier instructions do. BARINIT and BARINV need an idle
barrier; an arrival that would overrun the phase, or that meets slices of a collective, traps BARRIER_OVERRUN, one in a
barrier that is being signed CONVERGENCE_SPAN; an arrival is preceded by a release; a wait on a phase that has passed
completes with STATUS, any other suspends the thread. -/
def Obligations.BarrierInstructions : Prop :=
  (∀ (s : State) (k gk : Nat) (th : Thread) (g : Group) (b : BarMod) (o : Opnds), Acts s k th → th.group = some gk →
    s.groupOf k = some g →
    (b.obj = false → g.bars.length ≤ b.bar.toNat →
      ∀ i ∈ barrierWords b o, Machine.exec i s = .next (s.takeTrap k .illegalOperand 0#64)) ∧
    (b.obj = true →
      let off := ((((s.read32 k o.a).1.toNat : Int) + b.imm20.toInt) % 2 ^ 21).toNat
      (off % 16 ≠ 0 → ∀ i ∈ barrierWords b o, Machine.exec i s = .next (s.takeTrap k .misaligned (BitVec.ofNat 64 off))) ∧
      (off % 16 = 0 → s.spadOutside g.launch (clusterOfCore g.core) off 16 ≠ none →
        ∀ i ∈ barrierWords b o, Machine.exec i s = .next (s.takeTrap k .protection (BitVec.ofNat 64 off))))) ∧
  (∀ (s s1 : State) (k gk : Nat) (g : Group) (b : BarMod) (o : Opnds) (r : BarRef), OnBarrier s k gk g b o r s1 →
    let n := s1.read32 k o.b
    let y := n.2.barrier r
    let x := s1.barrier r
    let core := coreOfThread k
    (n.1 = 0#32 ∨ 2047 < n.1.toNat → ∀ i ∈ [Instr.barinit b o, .bararv true b o],
      Machine.exec i s = .next (s.takeTrap k .illegalOperand 0#64)) ∧
    (n.1 ≠ 0#32 → n.1.toNat ≤ 2047 →
      (n.2.barIdle r = false → Machine.exec (.barinit b o) s = .next (s.takeTrap k .barrierOverrun 0#64)) ∧
      (n.2.barIdle r = true →
        Machine.exec (.barinit b o) s = .next ((n.2.initBarrier r n.1.toNat).advance k o.len)) ∧
      (y.signatures ≠ [] → Machine.exec (.bararv true b o) s = .next (s.takeTrap k .convergenceSpan 0#64)) ∧
      (y.signatures = [] → (y.expected = 0#11 ∨ y.expected.toNat < y.arrivals.toNat + n.1.toNat ∨ n.2.slicesOn r = true) →
        Machine.exec (.bararv true b o) s = .next (s.takeTrap k .barrierOverrun 0#64)) ∧
      (y.signatures = [] → y.expected ≠ 0#11 → y.arrivals.toNat + n.1.toNat ≤ y.expected.toNat → n.2.slicesOn r = false →
        Machine.exec (.bararv true b o) s =
          .next (sends ((n.2.releaseClus core).arrive r n.1.toNat .ok) k o [if y.phase then 1#32 else 0#32]))) ∧
    (x.signatures ≠ [] → ∀ i ∈ [Instr.bararv false b o, .barsync b o],
      Machine.exec i s = .next (s.takeTrap k .convergenceSpan 0#64)) ∧
    (x.signatures = [] → (x.expected = 0#11 ∨ x.expected.toNat < x.arrivals.toNat + 1 ∨ s1.slicesOn r = true) →
      ∀ i ∈ [Instr.bararv false b o, .barsync b o], Machine.exec i s = .next (s.takeTrap k .barrierOverrun 0#64)) ∧
    (x.signatures = [] → x.expected ≠ 0#11 → x.arrivals.toNat + 1 ≤ x.expected.toNat → s1.slicesOn r = false →
      Machine.exec (.bararv false b o) s =
        .next (sends ((s1.releaseClus core).arrive r 1 .ok) k o [if x.phase then 1#32 else 0#32]) ∧
      (let u := (s1.releaseClus core).arrive r 1 .ok
       ((u.barrier r).phase ≠ x.phase →
         Machine.exec (.barsync b o) s = .next (sends (u.clockClus core) k o [(u.barrier r).status])) ∧
       ((u.barrier r).phase = x.phase → ∀ i, r = .reg gk i →
         Machine.exec (.barsync b o) s =
           .next (u.modThread k (fun th => { th with status := .barReg i x.phase o.d o.len }))))) ∧
    (y.expected = 0#11 → Machine.exec (.barwait b o) s = .next (s.takeTrap k .barrierOverrun 0#64)) ∧
    (y.expected ≠ 0#11 → y.phase ≠ n.1.getLsbD 0 →
      Machine.exec (.barwait b o) s = .next (sends (n.2.clockClus core) k o [y.status])) ∧
    (y.expected ≠ 0#11 → y.phase = n.1.getLsbD 0 →
      (∀ i, r = .reg gk i → Machine.exec (.barwait b o) s =
        .next (n.2.modThread k (fun th => { th with status := .barReg i y.phase o.d o.len }))) ∧
      (∀ c off, r = .obj c off → Machine.exec (.barwait b o) s =
        .next ((n.2.modThread k (fun th => { th with status := .barObj off y.phase o.d o.len })).refreshWaiters c off))) ∧
    (∃ ws, Machine.exec (.barstat b o) s = .next (sends s1 k o ws) ∧
      (∀ i, r = .reg gk i → ws = [BitVec.ofNat 32
        (x.expected.toNat + x.arrivals.toNat * 2 ^ 11 + (if x.phase then 2 ^ 22 else 0)), x.status] ∧
        Machine.exec (.barstatClr b o) s = .next (sends (s1.setBarrier r { x with status := 0#32 }) k o ws)) ∧
      (∀ c off, r = .obj c off → ws = [BitVec.ofNat 32 ((s1.cluster c).spadNat off 4),
          BitVec.ofNat 32 ((s1.cluster c).spadNat (off + 4) 4)] ∧
        Machine.exec (.barstatClr b o) s = .next (sends
          (if (s1.cluster c).objArmed off then s1.spadWrite c (off + 4) [0#8, 0#8, 0#8, 0#8] else s1) k o ws))) ∧
    (∀ i, r = .reg gk i →
      (s1.barIdle r = false → Machine.exec (.barinv b o) s = .next (s.takeTrap k .barrierOverrun 0#64)) ∧
      (s1.barIdle r = true →
        Machine.exec (.barinv b o) s = .next ((s1.setBarrier r { x with expected := 0#11 }).advance k o.len))) ∧
    (∀ c off, r = .obj c off →
      ((s1.cluster c).objArmed off = false ∨ s1.barIdle r = false →
        Machine.exec (.barinv b o) s = .next (s.takeTrap k .barrierOverrun 0#64)) ∧
      ((s1.cluster c).objArmed off = true → s1.barIdle r = true →
        ∃ t : State, Machine.exec (.barinv b o) s = .next (t.advance k o.len) ∧ t = { s1 with clusters := t.clusters } ∧
          off ∉ (t.cluster c).armed))) ∧
  ∀ (s : State) (k gk i n : Nat) (th : Thread) (g : Group) (o : Opnds), Acts s k th →
    let sel := s.read32 k o.b
    let x := sel.1.toNat
    (th.sup = false → Machine.exec (.barstatX o) s = .next (s.takeTrap k .privilege 0#64)) ∧
    (th.sup = true → gk = groupKey (256 * dieOfThread k + x % 256) (x / 256 % 64) → i = x / 16384 % 64 →
      (x / 2 ^ 20 ≠ 0 ∨ sel.2.group? gk = none → Machine.exec (.barstatX o) s = .next (s.takeTrap k .illegalOperand 0#64)) ∧
      (x / 2 ^ 20 = 0 → sel.2.group? gk = some g → i < g.bars.length →
        Machine.exec (.barstatX o) s = .next (sends sel.2 k o [((sel.2.barrier (.reg gk i)).word0 false),
          (sel.2.barrier (.reg gk i)).status]))) ∧
    (s.group? gk = some g → i < g.bars.length → n ≤ 2047 →
      (s.initBarrier (.reg gk i) n).barrier (.reg gk i) = ⟨BitVec.ofNat 11 n, 0#11, false, 0#32, 0, [], 0, none⟩)

namespace Sys2Proof.Claims

/-- A thread waits on a barrier with a token, for a D and past `len` bytes (R189). -/
def WaitsOn (r : BarRef) (k : Nat) (th : Thread) (tok : Bool) (d : Dest) (len : Nat) : Prop :=
  match r with
  | .reg gk i => th.group = some gk ∧ th.status = .barReg i tok d len
  | .obj cl off => threadOnLC k = false ∧ clusterOfCore (coreOfThread k) = cl ∧ th.status = .barObj off tok d len

/-- STATUS after an arrival that carries a code: the first code that is not OK, and how many there were (R185). -/
def statusWith (status : Word) (c : Code) : Word :=
  if c = .ok then status
  else BitVec.ofNat 32 ((if status.toNat % 2 ^ 16 = 0 then codeNum c else status.toNat % 2 ^ 16) +
    2 ^ 16 * min (status.toNat / 2 ^ 16 + 1) 0xFFFF)

end Sys2Proof.Claims

/-- R180, R185, R189: an arrival that leaves the phase incomplete counts, merges its code into STATUS and releases nobody;
one that completes it flips the phase and clears ARRIVALS, and every thread that waits with the token of the phase receives
STATUS in D and goes on past its instruction, at once (the model's reading, log entry 52); no other thread changes. -/
def Obligations.BarrierPhase : Prop :=
  (∀ (s : State) (r : BarRef) (n : Nat) (c : Code), AMap.sorted s.threads = true →
    let b := s.barrier r
    let t := s.arrive r n c
    0 < n → b.arrivals.toNat + n ≤ b.expected.toNat →
    (∀ cl off, r = .obj cl off → cellsWf (s.cluster cl).spad 0#8 = true ∧ off % 16 = 0 ∧ off < 2 ^ 21) →
    (b.arrivals.toNat + n < b.expected.toNat → t.threads = s.threads) ∧
    (b.arrivals.toNat + n = b.expected.toNat → ∀ k th, s.thread? k = some th →
      (∀ d len, WaitsOn r k th b.phase d len → s.taskReclaimed k = false →
        t.thread? k = some (passed len (({ th.clearLatches with status := .ready }).putResult d [statusWith b.status c]))) ∧
      ((∀ d len, ¬ WaitsOn r k th b.phase d len) → t.thread? k = some th))) ∧
  ∀ (s : State) (gk i n : Nat) (c : Code) (g : Group) (b : Barrier), s.group? gk = some g → g.bars[i]? = some b → 0 < n →
    b.arrivals.toNat + n ≤ b.expected.toNat →
    let t := s.arrive (.reg gk i) n c
    let status := statusWith b.status c
    (b.arrivals.toNat + n < b.expected.toNat → t = s.modGroup gk (fun x => { x with
      bars := x.bars.set i ({ b with arrivals := b.arrivals + BitVec.ofNat 11 n, status := status } : Barrier) })) ∧
    (b.arrivals.toNat + n = b.expected.toNat → t.group? gk = some { g with bars := g.bars.set i ({ b with
        arrivals := 0#11, phase := !b.phase, signatures := [], sigInstr := none, status := status } : Barrier) } ∧
      t.mem = s.mem ∧ t.clusters = s.clusters)

namespace Sys2Proof.Claims

/-- Thread `k` signs barrier register `bar` of its group for the set operation `i` (without its operands), whose results
are `f` (R194, R195): refused where the barrier is disabled, in use otherwise, or signed by threads that do not match;
a thread that is not the last waits, the last one fires the set. -/
def Signs (s : State) (k gk : Nat) (th : Thread) (bar : BitVec 6) (o : Opnds) (w64 b : Bool) (i instr : Instr) (f : Fire) :
    Prop :=
  let r : BarRef := .reg gk bar.toNat
  let a := s.read k w64 false 0#64 o.a
  let c := if b then a.2.read32 k o.b else (0#32, a.2)
  let x := c.2.barrier r
  let refused : Prop := 32 < x.expected.toNat ∨ x.arrivals.toNat ≠ x.signatures.length ∨ x.engpend ≠ 0 ∨
    (x.signatures ≠ [] ∧ (x.sigQuarter ≠ th.tid / 32 % 4 ∨ x.sigInstr ≠ some i ∨
      ∃ y ∈ x.signatures, y.lane = th.tid % 32))
  let sigs := rankInsert ⟨k, th.tid % 32, a.1, c.1, o.d⟩ x.signatures
  (x.expected = 0#11 → Machine.exec instr s = .next (s.takeTrap k .barrierOverrun 0#64)) ∧
  (x.expected ≠ 0#11 → refused → Machine.exec instr s = .next (s.takeTrap k .convergenceSpan 0#64)) ∧
  (x.expected ≠ 0#11 → ¬ refused → sigs.length ≠ x.expected.toNat → Machine.exec instr s =
    .next ((c.2.setBarrier r { x with
      arrivals := x.arrivals + 1#11, signatures := sigs, sigQuarter := th.tid / 32 % 4, sigInstr := some i }).modThread k
        (fun t => { t with status := .signed bar.toNat o.len }))) ∧
  (x.expected ≠ 0#11 → ¬ refused → sigs.length = x.expected.toNat →
    Machine.exec instr s = .next (c.2.fireSet r sigs k o f)) ∧
  (∀ ws d, o.d = .gpr d → f sigs = [ws] → x.signatures = [] →
    c.2.fireSet r sigs k o f = sends (c.2.flip r) k o ws)

/-- The fold of the first `j + 1` of some values. -/
def foldTo (f : Nat → Nat → Nat) (vs : List Nat) (j : Nat) : Nat :=
  match vs.take (j + 1) with
  | [] => 0
  | v :: rest => rest.foldl f v

end Sys2Proof.Claims

/-- R194-R199: SHFL, LRED and VOTE sign a barrier register; the results of a set go by rank: SHFL gives each rank the
value of its source rank, or its own; LRED the fold of the values in rank order by its operation, rank 0 its identity under
`.excl`; VOTE what the nonzero operands make. The
signature that completes a set delivers its result to every thread that signed, and all of them go on. -/
def Obligations.ConvergenceSets : Prop :=
  (∀ (s : State) (k gk : Nat) (th : Thread) (g : Group) (bar : BitVec 6) (o : Opnds) (w64 : Bool) (mode : ShflMode)
    (rel : ShflRel) (op : LredOp) (form : LredForm) (kind : VoteKind), Acts s k th → th.group = some gk →
    s.groupOf k = some g →
    (g.bars.length ≤ bar.toNat → ∀ i ∈ [Instr.shfl mode rel w64 bar o, .lred op form w64 bar o, .vote kind bar o],
      Machine.exec i s = .next (s.takeTrap k .illegalOperand 0#64)) ∧
    (bar.toNat < g.bars.length →
      Signs s k gk th bar o w64 (rel == .operand) (.shfl mode rel w64 bar blankOpnds) (.shfl mode rel w64 bar o)
        (shflFire mode rel w64) ∧
      Signs s k gk th bar o w64 false (.lred op form w64 bar blankOpnds) (.lred op form w64 bar o) (lredFire op form w64) ∧
      Signs s k gk th bar o false false (.vote kind bar blankOpnds) (.vote kind bar o) (voteFire kind))) ∧
  (∀ (sigs : List Signature) (r : Nat) (x : Signature) (w64 : Bool) (mode : ShflMode) (rel : ShflRel) (op : LredOp),
    sigs[r]? = some x →
    let n := sigs.length
    let size := if w64 then 8 else 4
    let words (v : Nat) : List Word := wordsOf v (rn w64)
    let off : Nat := match rel with
      | .operand => x.b.toNat
      | .half => n / 2
      | .quarter => n / 4
      | .eighth => n / 8
    let src : Int := match mode with
      | .idx => off
      | .up => (r : Int) - off
      | .down => (r : Int) + off
      | .xor => ((r ^^^ off : Nat) : Int)
    (src < 0 ∨ (n : Int) ≤ src → (shflFire mode rel w64 sigs)[r]? = some (words x.a.toNat)) ∧
    (0 ≤ src → ∀ y, sigs[src.toNat]? = some y → (shflFire mode rel w64 sigs)[r]? = some (words y.a.toNat)) ∧
    (let vs := sigs.map (fun x => x.a.toNat % 2 ^ (8 * size))
     let f := atomNat (lredAtom op) size
     (lredFire op .all w64 sigs)[r]? = some (words (foldTo f vs (n - 1))) ∧
     (lredFire op .incl w64 sigs)[r]? = some (words (foldTo f vs r)) ∧
     (lredFire op .excl w64 sigs)[r]? = some (words (if r = 0 then lredIdentity op w64 else foldTo f vs (r - 1))) ∧
     (∀ x y, x < 256 ^ size → y < 256 ^ size →
       let w := 8 * size
       let sg (x : Nat) : Int := if 2 ^ (w - 1) ≤ x then (x : Int) - 2 ^ w else x
       let fmt : FFmt := if w64 then fF64 else fF32
       match op with
       | .add => f x y = (x + y) % 2 ^ w
       | .smin => f x y = if sg x ≤ sg y then x else y
       | .smax => f x y = if sg x ≤ sg y then y else x
       | .umin => f x y = min x y
       | .umax => f x y = max x y
       | .and => f x y = x &&& y
       | .or => f x y = x ||| y
       | .xor => f x y = x ^^^ y
       | .fadd => RoundedSum fmt x y (f x y)
       | .fmin => f x y = extremum fmt false x y
       | .fmax => f x y = extremum fmt true x y) ∧
     (let w := 8 * size
      let inf : Nat := top (if w64 then fF64 else fF32)
      lredIdentity op w64 = match op with
        | .add | .or | .xor | .umax => 0
        | .and | .umin => 2 ^ w - 1
        | .smin => 2 ^ (w - 1) - 1
        | .smax => 2 ^ (w - 1)
        | .fadd => 2 ^ (w - 1)
        | .fmin => inf
        | .fmax => 2 ^ (w - 1) + inf)) ∧
    (let v (y : Signature) : Word := y.a.setWidth 32
     let set := sigs.filter (fun y => v y != 0#32)
     let one (p : Prop) [Decidable p] : List Word := [if p then 1#32 else 0#32]
     (voteFire .every sigs)[r]? = some (one (set.length = n)) ∧
     (voteFire .some sigs)[r]? = some (one (set ≠ [])) ∧
     (voteFire .agree sigs)[r]? = some (one (∀ y ∈ sigs, some (v y) = (sigs.head?).map v)) ∧
     (voteFire .count sigs)[r]? = some [BitVec.ofNat 32 set.length] ∧
     (voteFire .before sigs)[r]? = some [BitVec.ofNat 32 ((sigs.take r).filter (fun y => v y != 0#32)).length] ∧
     (voteFire .lead sigs)[r]? = some [BitVec.ofNat 32 (sigs.findIdx (fun y => v y != 0#32))] ∧
     (voteFire .mask sigs)[r]? = some [BitVec.ofNat 32 ((set.map (fun y => 2 ^ y.lane)).sum)])) ∧
  ∀ (s : State) (gk i k j : Nat) (sigs : List Signature) (o : Opnds) (f : Fire) (x : Signature) (ws : List Word) (y : Thread),
    AMap.sorted s.threads = true → (sigs.map (·.thread)).Nodup → sigs[j]? = some x → (f sigs)[j]? = some ws →
    s.thread? x.thread = some y → s.taskReclaimed x.thread = false →
    let t := s.fireSet (.reg gk i) sigs k o f
    (x.thread ≠ k → ∀ b len, y.status = .signed b len →
      t.thread? x.thread = some (passed len (({ y.clearLatches with status := .ready }).putResult x.d ws))) ∧
    (x.thread = k → y.status = .ready →
      (∀ p, o.d = .pred p → t.thread? k = some (passed o.len (y.putResult o.d ws))) ∧
      (∀ r, o.d = .gpr r → r.toNat < 240 →
        t.thread? k = some (passed o.len { y with pending := y.pending ++ (List.range ws.length).map (r.toNat + ·) }) ∧
        (⟨k, some r.toNat, ws, none, none, none⟩ : Landing) ∈ t.landings))

/-- R165, R201: SPAWN and SPAWN.w check the address, the count and the entry word, then the budget; with room the group is
placed at once, its threads at user privilege after the entry word, and D gets its slot; without room SPAWN gives
BUDGET_EXCEEDED and SPAWN.w waits, until SPAWN_W_PLACED finds room. An entry word that declares more than 64 barrier registers
is none that R201 refuses, and never finds room: the model's reading, log entry 54. -/
def Obligations.SpawnInstructions : Prop :=
  (∀ (s s1 : State) (k : Nat) (th : Thread) (g : Group) (o : Opnds) (w : BitVec 96), Acts s k th → s.groupOf k = some g →
    let a := s.read64 k o.a
    let n := a.2.read32 k o.b
    let both (t : State) : Prop := Machine.exec (.spawn o) s = .next t ∧ Machine.exec (.spawnW o) s = .next t
    (a.1.toNat % 4 ≠ 0 → both (s.takeTrap k .misaligned 0#64)) ∧
    (a.1.toNat % 4 = 0 → n.1 = 0#32 ∨ 1024 < n.1.toNat → both (s.takeTrap k .illegalOperand 0#64)) ∧
    (a.1.toNat % 4 = 0 → n.1 ≠ 0#32 → n.1.toNat ≤ 1024 → 2 ^ 55 ≤ a.1.toNat → both (s.takeTrap k .protection 0#64)) ∧
    (a.1.toNat % 4 = 0 → n.1 ≠ 0#32 → n.1.toNat ≤ 1024 → a.1.toNat < 2 ^ 55 →
      n.2.fetchWord false (coreOfThread k) a.1 th.sup = (.word w, s1) →
      let e := Entry.ofNat w.toNat
      let fits : Prop := entrySpad e ≤ g.spSize ∧ groupFits n.1.toNat (entryBudget e) = true
      let shaped : Prop := e.opc = 0xFFE#12 ∧ e.bud ≠ 15#4 ∧ e.rsvG = 0#4 ∧ e.rsvD = 0#12 ∧ e.rsvC = 0#3 ∧ e.rsvM = 0#16 ∧
        e.spwn = true
      (entryShaped e .spawn = true ↔ shaped) ∧
      (entryShaped e .spawn = false → both (s.takeTrap k .illegalTarget 0#64)) ∧
      (entryShaped e .spawn = true → e.sup = true → th.sup = false → both (s.takeTrap k .privilege 0#64)) ∧
      (entryShaped e .spawn = true → (e.sup = true → th.sup = true) → ¬ fits → both (s.takeTrap k .budgetExceeded 0#64)) ∧
      (8192 < e.spad.toNat → g.spSize ≤ 2 ^ 21 → ¬ fits) ∧
      (64 < e.bars.toNat → s1.spawnRoom g n.1.toNat (entryBudget e) e.bars.toNat = false) ∧
      (entryShaped e .spawn = true → (e.sup = true → th.sup = true) → fits →
        (s1.launchFailing g.launch = true → both (sends s1 k o [codeWord .futureFailed])) ∧
        (s1.launchFailing g.launch = false →
          (s1.spawnRoom g n.1.toNat (entryBudget e) e.bars.toNat = true →
            let p := s1.placeSpawned g a.1 n.1.toNat (entryBudget e) e.bars.toNat
            both (sends p.2 k o [BitVec.ofNat 32 (p.1 * 65536)])) ∧
          (s1.spawnRoom g n.1.toNat (entryBudget e) e.bars.toNat = false →
            Machine.exec (.spawn o) s = .next (sends s1 k o [codeWord .budgetExceeded]) ∧
            Machine.exec (.spawnW o) s = .next (s1.modThread k (fun x => { x with
              status := .spawnWait a.1 n.1.toNat (entryBudget e) e.bars.toNat o.d o.len }))))))) ∧
  ∀ (s : State) (k n budget bars len : Nat) (a : DWord) (d : Dest) (th : Thread) (g : Group), s.thread? k = some th →
    s.groupOf k = some g → th.status = .spawnWait a n budget bars d len → s.stopping k = false →
    let p := s.placeSpawned g a n budget bars
    let gk := groupKey g.core p.1
    (s.spawnRoom g n budget bars = true →
      Machine.exec (.spawnWPlaced k) s = .next (p.2.completeWait k d len [BitVec.ofNat 32 (p.1 * 65536)])) ∧
    (s.spawnRoom g n budget bars = false → Machine.exec (.spawnWPlaced k) s = .next s) ∧
    (∃ x, p.2.group? gk = some x ∧ x.gsize = n ∧ x.budget = budget ∧ x.launch = g.launch ∧ x.spawned = true ∧
      x.bars = List.replicate bars ⟨BitVec.ofNat 11 n, 0#11, false, 0#32, 0, [], 0, none⟩) ∧
    (n ≤ 1024 → ∀ tid, tid < n → ∃ x, p.2.thread? (1024 * gk + tid) = some x ∧ x.tid = tid ∧ x.group = some gk ∧
      x.pc = a + 12#64 ∧ x.sup = false ∧ x.status = .ready ∧ x.regs = [])

/-! ### The copy and matrix engines (R211-R243) -/

namespace Sys2Proof.Claims

/-- A check that fails where `p` holds, with a code at an address. -/
def fails (p : Prop) [Decidable p] (c : Code) (a : Nat) : Option (Code × Nat) := if p then some (c, a) else none

/-- The first byte of a scratchpad range that the launch does not own; nothing of a range of global memory. -/
def outside (s : State) (g : Group) (sp : Bool) (a n : Nat) : Option (Code × Nat) :=
  if sp then (s.spadOutside g.launch (clusterOfCore g.core) a n).map (fun x => (Code.protection, x)) else none

/-- The barrier register of an engine instruction (R181, R186). -/
def barCheck (g : Group) (bar : Nat) : Option (Code × Nat) :=
  match g.bars[bar]? with
  | none => some (.illegalOperand, 0)
  | some b =>
    if b.expected = 0#11 then some (.barrierOverrun, 0) else if b.signatures ≠ [] then some (.convergenceSpan, 0) else none

/-- An instruction whose checks stand in order: the first that fails traps, and without one the instruction does what
`t` says. -/
def Checked (s : State) (k : Nat) (i : Instr) (checks : List (Option (Code × Nat))) (t : State) : Prop :=
  (checks.findSome? id = none → Machine.exec i s = .next t) ∧
  ∀ c a, checks.findSome? id = some (c, a) → Machine.exec i s = .next (s.takeTrap k c (BitVec.ofNat 64 a))

/-- Where a side of a copy lies: scratchpad offsets wrap at 2 MiB. -/
def side (sp : Bool) (a : DWord) : Nat := if sp then a.toNat % 2 ^ 21 else a.toNat

/-- Two ranges of `n` bytes share a byte. -/
def meet (a b n : Nat) : Bool := decide (a < b + n) && decide (b < a + n) && decide (0 < n)

/-- Room in a core's share of the copy queue (R211). -/
abbrev copyRoom (s : State) (g : Group) : Prop :=
  (((s.cluster (clusterOfCore g.core)).copyq.filter (fun o => o.core == g.core)).length) < 16

/-- Room in a core's share of the reservation table (R232). -/
abbrev matRoom (s : State) (g : Group) : Prop :=
  (((s.cluster (clusterOfCore g.core)).matq.filter (fun o => o.core == g.core)).length) < 8

/-- The arrival of a copy: its barrier register, if it names one (R212). -/
def arvOf (v : ArvMod) : Option Nat := if v.arv then some v.bar.toNat else none

/-- The checks of a copy's arrival: first the register, after the other checks the barrier. -/
def arvFirst (g : Group) (v : ArvMod) : Option (Code × Nat) :=
  fails (v.arv = true ∧ g.bars.length ≤ v.bar.toNat) .illegalOperand 0
def arvLast (g : Group) (v : ArvMod) : Option (Code × Nat) := if v.arv then barCheck g v.bar.toNat else none

/-- A matrix operation is in the table: D pending, ENGPEND raised, the thread past the instruction (R232, R233). -/
def matQueued (s : State) (k gk : Nat) (th : Thread) (g : Group) (kind : MatKind) (bar : BitVec 6) (o : Opnds) : State :=
  let u := s.pendD k o.d 1
  let op : MatOp := ⟨s.nextOp, g.core, k, gk, g.launch, g.prio, th.pc, th.sup, kind, bar.toNat, destReg o.d, false, false, 0,
    [], .ok, 0, false, none⟩
  (({ u with nextOp := s.nextOp + 1 }.engineBegin gk bar.toNat).modCluster (clusterOfCore g.core) (fun c =>
    { c with matq := c.matq ++ [op] })).advance k o.len

end Sys2Proof.Claims

/-- R211-R225: CP, CPFILL, CPT and CPG trap at the first check that fails and else enter the copy engine's queue, D pending
and ENGPEND raised; a full share of the queue keeps them from issuing. The engine has at most eight operations under way,
and none waits while it has fewer. SHCHK reads a shape record of the scratchpad or of global memory. That the destination's
PROTECTION is found before the source's is the model's choice, log entry 71. -/
def Obligations.CopyInstructions : Prop :=
  ∀ (s : State) (k gk : Nat) (th : Thread) (g : Group) (dir : DirMod) (v : ArvMod) (lsp na rsp : Bool) (z : FillSize)
    (o : Opnds), Acts s k th → th.group = some gk → s.groupOf k = some g →
    let a := s.read64 k o.a
    let b := a.2.read64 k o.b
    let c := b.2.read32 k o.c
    let fn := a.2.read32 k o.b
    let fp := fn.2.read32 k o.c
    (copyRoom s g →
      (let d := side dir.dsp a.1
       let x := side dir.ssp b.1
       let n := c.1.toNat
       Checked s k (.cp dir v o)
         [arvFirst g v, fails (2 ^ 30 < n) .illegalOperand 0, outside c.2 g dir.dsp d n, outside c.2 g dir.ssp x n,
          fails (dir.ssp = dir.dsp ∧ meet d x n = true) .illegalOperand 0, arvLast g v]
         (c.2.queueCopy k gk g th (.cp dir.ssp dir.dsp (BitVec.ofNat 64 d) (BitVec.ofNat 64 x) n) dir.na (arvOf v) o)) ∧
      (let d := side dir.dsp a.1
       let n := fn.1.toNat
       let size := match z with
         | .b8 => 1
         | .b16 => 2
         | .b32 => 4
       Checked s k (.cpfill dir.dsp na z v o)
         [arvFirst g v, fails (2 ^ 30 < n) .illegalOperand 0, fails (d % size ≠ 0 ∨ n % size ≠ 0) .misaligned d,
          outside fp.2 g dir.dsp d n, arvLast g v]
         (fp.2.queueCopy k gk g th (.fill dir.dsp (BitVec.ofNat 64 d) n size fp.1) na (arvOf v) o)) ∧
      (let r := side rsp a.1
       let l := side lsp b.1
       ∃ w : List Word, w.length = 4 ∧
         (∀ n : BitVec 8, o.c = .gpr n → n.toNat + 3 < 240 → ∀ th', b.2.thread? k = some th' →
           w = [th'.reg n.toNat, th'.reg (n.toNat + 1), th'.reg (n.toNat + 2), th'.reg (n.toNat + 3)]) ∧
         ∀ st : Bool, Checked s k (if st then .cptSt lsp na rsp v o else .cptLd lsp na rsp v o)
           [arvFirst g v, fails (r % 64 ≠ 0) .misaligned r, outside b.2 g rsp r 64, outside b.2 g lsp l 1, arvLast g v]
           (b.2.queueCopy k gk g th (.tile st lsp rsp (BitVec.ofNat 64 r) (BitVec.ofNat 64 l) (w.getD 0 0#32) (w.getD 1 0#32)
             (w.getD 2 0#32) (w.getD 3 0#32) []) na (arvOf v) o))) ∧
    (¬ copyRoom s g → ∀ i ∈ [Instr.cp dir v o, .cpfill dir.dsp na z v o, .cptLd lsp na rsp v o, .cptSt lsp na rsp v o,
        .cpg dir 1#21 o], Machine.exec i s = .next { s with retry := true }) ∧
    (∀ (kind : CopyKind) (arv : Option Nat), s.taskReclaimed k = false → destReg o.d = none →
      let cl := clusterOfCore g.core
      let t := s.queueCopy k gk g th kind na arv o
      t = { s with threads := t.threads, groups := t.groups, clusters := t.clusters, nextOp := s.nextOp + 1 } ∧
      t.thread? k = some (passed o.len th) ∧ (arv = none → t.groups = s.groups) ∧
      (∀ bar y, arv = some bar → g.bars[bar]? = some y →
        t.group? gk = some { g with bars := g.bars.set bar ({ y with engpend := y.engpend + 1 } : Barrier) }) ∧
      t.clusters = AMap.set s.clusters cl ((s.cluster cl).addCopy
        ⟨s.nextOp, g.core, k, gk, g.launch, th.pc, th.sup, kind, na, none, arv, false, 0, 0, [], false, false, none⟩)) ∧
    (∀ (c : Cluster) (op : CopyOp), op.started = false → ((c.copyq ++ [op]).map (·.id)).Nodup →
      let under (l : List CopyOp) : Nat := (l.filter (·.started)).length
      let t := c.addCopy op
      t = { c with copyq := t.copyq, copyNext := t.copyNext } ∧
      t.copyq.map (fun o => { o with started := false }) = (c.copyq ++ [op]).map (fun o => { o with started := false }) ∧
      under t.copyq ≤ max 8 (under c.copyq) ∧ (under t.copyq < 8 → ∀ o ∈ t.copyq, o.started = true)) ∧
    (∀ len16 : BitVec 21, copyRoom s g → (s.cluster (clusterOfCore g.core)).slices.length < 256 →
      let n := 16 * len16.toNat
      let d := side dir.dsp a.1
      let x := side dir.ssp b.1
      let cl := clusterOfCore g.core
      let off := c.1.toNat % 2 ^ 21
      let bar := c.2.barrier (.obj cl off)
      let slice : CpgSlice := ⟨off, dir.ssp, dir.dsp, dir.na, BitVec.ofNat 64 d, BitVec.ofNat 64 x, n, k, g.core, g.launch,
        th.pc, th.sup, false, none⟩
      let t := c.2.addSlice slice gk g
      Checked s k (.cpg dir len16 o)
        [fails (n = 0) .illegalOperand 0, fails (d % 16 ≠ 0) .misaligned d, fails (x % 16 ≠ 0) .misaligned x,
         fails (off % 16 ≠ 0) .misaligned off, outside c.2 g dir.dsp d n, outside c.2 g dir.ssp x n,
         (outside c.2 g true off 16).map (fun _ => (.protection, off)),
         fails (dir.ssp = dir.dsp ∧ meet d x n = true) .illegalOperand 0,
         fails (bar.arrivals.toNat ≠ ((c.2.cluster cl).slices.filter (fun y => y.obj == off && !y.started)).length ∨
           bar.engpend ≠ 0 ∨ bar.expected = 0#11 ∨ bar.expected.toNat < bar.arrivals.toNat + 1) .barrierOverrun 0]
        (sends t.2 k o [if bar.phase then 0#32 else 1#32])) ∧
    (s.acquirePending k = false → threadOnLC k = false → s.copyShareFull (coreOfThread k) = false → a.1.toNat % 64 = 0 →
      a.2.spadOutside g.launch (clusterOfCore (coreOfThread k)) (a.1.toNat % 2 ^ 21) 64 = none →
      let x := shapeOf ((a.2.cluster (clusterOfCore (coreOfThread k))).spadRead (a.1.toNat % 2 ^ 21) 64)
      Machine.exec (.shchk true o) s =
        .next (sends a.2 k o (if x.contradictory then [codeWord .shapeInvalid, 0#32] else [0#32, BitVec.ofNat 32 x.linBytes]))) ∧
    (s.acquirePending k = false → threadOnLC k = true ∨ s.copyShareFull (coreOfThread k) = false →
      ∀ e pa s1, GlobalAccess a.2 k a.1 .read 64 false false e pa s1 → homeDie pa ≠ none →
      let r := s1.coreLoad (coreOfThread k) pa 64 e false (s1.whoOf k)
      let x := shapeOf r.1
      Machine.exec (.shchk false o) s =
        .next (sends r.2 k o (if x.contradictory then [codeWord .shapeInvalid, 0#32] else [0#32, BitVec.ofNat 32 x.linBytes])))

/-- R231-R242: the class 0x9 instructions trap at the first check that fails and else enter the reservation table; a full
table keeps them from issuing. -/
def Obligations.MatrixInstructions : Prop :=
  ∀ (s : State) (k gk : Nat) (th : Thread) (g : Group) (bar : BitVec 6) (fmt : MFmt) (tr sp ow : Bool) (k1 n1 : BitVec 8)
    (rows : BitVec 11) (m : MreadMod) (o : Opnds), Acts s k th → th.group = some gk → s.groupOf k = some g →
    let a := s.read64 k o.a
    let b := a.2.read32 k o.b
    let c := b.2.read32 k o.c
    let b0 := s.read32 k o.b
    let lowBar := fails (g.bars.length ≤ bar.toNat) .illegalOperand 0
    let rowCheck (u : State) (row n : Nat) : Option (Code × Nat) :=
      (u.rowsOutside g.launch (clusterOfCore g.core) row n).map (fun x => (Code.protection, x))
    let mis (z x : Nat) := fails (x % z ≠ 0) .misaligned x
    let queue (u : State) (kind : MatKind) : State := matQueued u k gk th g kind bar o
    (¬ matRoom s g → ∀ i ∈ [Instr.mload bar fmt tr sp k1 n1 o, .mswap bar o, .mstream bar fmt ow rows o,
        .mgather bar fmt ow rows o, .mread bar m o, .mzero bar rows o, .maccld bar rows sp o],
      Machine.exec i s = .next { s with retry := true }) ∧
    (matRoom s g →
      (let kk := k1.toNat + 1
       let n := n1.toNat + 1
       let src := side sp a.1
       let rowBytes := fmt.rowBytes (if tr then kk else n)
       let count := if tr then n else kk
       Checked s k (.mload bar fmt tr sp k1 n1 o)
         [lowBar, mis fmt.bytes src, mis fmt.bytes b.1.toNat,
          outside b.2 g sp src ((count - 1) * b.1.toNat + rowBytes), barCheck g bar.toNat]
         (queue b.2 (.load fmt tr sp (BitVec.ofNat 64 src) b.1.toNat kk n))) ∧
      Checked s k (.mswap bar o) [lowBar, barCheck g bar.toNat] (queue s .swap) ∧
      (let src := a.1.toNat % 2 ^ 21
       Checked s k (.mstream bar fmt ow rows o)
         [lowBar, fails (1024 ≤ b.1.toNat ∨ 1024 < b.1.toNat + rows.toNat) .illegalOperand 0, mis fmt.bytes src,
          mis fmt.bytes c.1.toNat, outside c.2 g true src 1, rowCheck c.2 b.1.toNat rows.toNat, barCheck g bar.toNat]
         (queue c.2 (.stream fmt ow (BitVec.ofNat 64 src) b.1.toNat c.1.toNat rows.toNat))) ∧
      (let src := a.1.toNat % 2 ^ 21
       let gl := b.1.toNat % 2 ^ 21
       let sl := c.1.toNat % 2 ^ 21
       Checked s k (.mgather bar fmt ow rows o)
         [lowBar, mis fmt.bytes src, mis 4 gl, mis 2 sl, outside c.2 g true gl (4 * rows.toNat),
          outside c.2 g true sl (2 * rows.toNat), barCheck g bar.toNat]
         (queue c.2 (.gather fmt ow (BitVec.ofNat 64 src) gl sl rows.toNat))) ∧
      (let dst := side m.dsp a.1
       let row := b.1.toNat % 1024
       let cols := b.1.toNat / 1024 % 256 + 1
       let z := outBytes m.ofmt (if m.ofmt == .t6 then 4 else 1)
       Checked s k (.mread bar m o)
         [lowBar, fails (2 ^ 18 ≤ b.1.toNat ∨ 1024 < row + m.rows.toNat ∨ 192 < cols ∨ (m.ofmt = .t6 ∧ cols % 4 ≠ 0))
            .illegalOperand 0, mis z dst, mis z c.1.toNat,
          outside c.2 g m.dsp dst ((m.rows.toNat - 1) * c.1.toNat + outBytes m.ofmt cols), rowCheck c.2 row m.rows.toNat,
          barCheck g bar.toNat]
         (queue c.2 (.read m (BitVec.ofNat 64 dst) row cols c.1.toNat))) ∧
      Checked s k (.mzero bar rows o)
        [lowBar, fails (1024 ≤ b0.1.toNat ∨ 1024 < b0.1.toNat + rows.toNat) .illegalOperand 0,
         rowCheck b0.2 b0.1.toNat rows.toNat, barCheck g bar.toNat]
        (queue b0.2 (.zero b0.1.toNat rows.toNat)) ∧
      (let src := side sp a.1
       let row := b.1.toNat % 1024
       let cols := b.1.toNat / 1024 % 256 + 1
       Checked s k (.maccld bar rows sp o)
         [lowBar, fails (2 ^ 18 ≤ b.1.toNat ∨ 1024 < row + rows.toNat ∨ 192 < cols) .illegalOperand 0, mis 4 src,
          mis 4 c.1.toNat, outside c.2 g sp src ((rows.toNat - 1) * c.1.toNat + 4 * cols), rowCheck c.2 row rows.toNat,
          barCheck g bar.toNat]
         (queue c.2 (.accld sp (BitVec.ofNat 64 src) row cols c.1.toNat rows.toNat))))

namespace Sys2Proof.Claims

/-- No core has a request at a bank of the cluster: the copy engine's are served as they come (R208). -/
abbrev idleBanks (s : State) (cl : Nat) : Prop := ∀ b, s.bankBusy cl b = false

/-- The cluster's scratchpad after `n` bytes moved. -/
def moved (f : Nat → Byte) (dst src n i : Nat) : Byte := if dst ≤ i ∧ i < dst + n then f (src + (i - dst)) else f i

/-- R216: the accesses of the `unit`-th 128-byte block of a destination: offset, source, length. An aligned 8-byte part whose
source is aligned is one, every other byte is one of its own. -/
def unitAccess (dst src n unit : Nat) : List (Nat × Nat × Nat) :=
  let lo := max dst (128 * (dst / 128 + unit))
  let hi := min (dst + n) (128 * (dst / 128 + unit + 1))
  (List.range 128).filterMap (fun i =>
    let d := 128 * (dst / 128 + unit) + i
    let a := src + (d - dst)
    if d < lo ∨ hi ≤ d then none
    else if dst % 8 = src % 8 ∧ lo ≤ d / 8 * 8 ∧ d / 8 * 8 + 8 ≤ hi then (if d % 8 = 0 then some (d, a, 8) else none)
    else some (d, a, 1))

/-- An engine's access of global memory goes through: its buffer holds the page, which is memory of the package (R217). -/
def engineMaps (s : State) (b : Buf) (core a : Nat) (kind : Access) (sup : Bool) (e : DWord) (pa : Nat) (t : State) : Prop :=
  a < 2 ^ 55 ∧ (∃ l, s.xlateHit b (engReq core (BitVec.ofNat 64 a) kind sup) = (some (.ok e l pa), t)) ∧ homeDie pa ≠ none

/-- What an engine's read of one line gives, after the core's own stores to the line (R216). -/
def lineRead (s : State) (core pa n : Nat) (e : DWord) (na : Bool) : List Byte × State :=
  ((s.refreshStall core pa none).wcSendLine core (lineNo pa)).engineRead core pa n e na

/-- What an engine's write to one line leaves (R216). -/
def lineWritten (s : State) (core thread pa : Nat) (bs : List Byte) (e : DWord) (na : Bool) : State :=
  (s.wcSendLine core (lineNo pa)).engineWrite core thread pa bs e na

/-- The operation that COPY_LANDS takes up, at the start of its work. -/
abbrev copyAt (s : State) (cl id : Nat) (op : CopyOp) : Prop :=
  (s.cluster cl).copyq.find? (fun o => o.id == id) = some op ∧ op.parked = false ∧ op.started = true ∧ op.result = none

/-- It has moved nothing yet. -/
abbrev fresh (op : CopyOp) : Prop := op.pos = 0 ∧ op.phase = 0 ∧ op.held = [] ∧ op.clobber = false

/-- No armed barrier object shares a byte with a range (R183). -/
abbrev unarmed (c : Cluster) (a n : Nat) : Prop := ∀ x ∈ c.armed, ¬ (x < a + n ∧ a < x + 16)

/-- R214-R219: CP and CPFILL within a scratchpad land whole; CP one access at a time with either side in global memory. -/
def CopyLandings : Prop :=
  ∀ (s : State) (cl id dst src n size : Nat) (p : Word) (op : CopyOp) (cs : List Nat), copyAt s cl id op →
    (s.choices = 0 :: cs → fresh op → idleBanks s cl → cellsWf (s.cluster cl).spad 0#8 = true →
      dst + n ≤ 2 ^ 21 → src + n ≤ 2 ^ 21 → unarmed (s.cluster cl) dst n →
      let lands (b : Nat → Byte) : Prop := ∃ u : State, Machine.exec (.copyLands cl id) s = .next (u.landCopy cl op .ok) ∧
        u = { s with clusters := u.clusters, choices := cs } ∧ ∀ i, i < 2 ^ 21 → (u.cluster cl).spadByte i = b i
      (op.kind = .cp true true (BitVec.ofNat 64 dst) (BitVec.ofNat 64 src) n → meet dst src n = false →
        lands (moved (s.cluster cl).spadByte dst src n)) ∧
      (op.kind = .fill true (BitVec.ofNat 64 dst) n size p → size = 1 ∨ size = 2 ∨ size = 4 →
        lands (fun i => if dst ≤ i ∧ i < dst + n then BitVec.ofNat 8 (p.toNat / 2 ^ (8 * ((i - dst) % size)))
          else (s.cluster cl).spadByte i))) ∧
    ∀ (ssp dsp : Bool), s.choices = 1 :: cs → dst < 2 ^ 55 → src < 2 ^ 55 → n < 2 ^ 31 →
      op.kind = .cp ssp dsp (BitVec.ofNat 64 dst) (BitVec.ofNat 64 src) n → n ≠ 0 →
      op.pos < (dst + n + 127) / 128 - dst / 128 →
      let u : State := { s with choices := cs }
      let l := unitAccess dst src n op.pos
      let w := op.phase - l.length
      let op' : CopyOp := if w + 1 < l.length then { op with phase := op.phase + 1 }
        else { op with pos := op.pos + 1, phase := 0, held := [] }
      let onward (v : State) : State :=
        if op'.pos < (dst + n + 127) / 128 - dst / 128 then v.keepCopy cl op'
        else v.landCopy cl op (if op.clobber then .barrierClobber else .ok)
      (∀ d a z e pa t, l[op.phase]? = some (d, a, z) →
        let reads (v : State) (bs : List Byte) : State := v.keepCopy cl { op with phase := op.phase + 1, held := op.held ++ [bs] }
        (ssp = false → engineMaps u (.copy cl) op.core a .read op.sup e pa t →
          Machine.exec (.copyLands cl id) s =
            .next (reads (lineRead t op.core pa z e op.na).2 (lineRead t op.core pa z e op.na).1)) ∧
        (ssp = true → idleBanks s cl → ∃ v : State, v = { u with clusters := v.clusters } ∧
          v.cluster cl = { s.cluster cl with engq := (v.cluster cl).engq } ∧
          Machine.exec (.copyLands cl id) s = .next (reads v ((List.range z).map (fun i => (s.cluster cl).spadByte (a + i))))) ∧
        (ssp = true → s.bankBusy cl (a / 16 % 64) = true → 8 ≤ AMap.getD (s.cluster cl).engq (a / 16 % 64) 0 →
          Machine.exec (.copyLands cl id) s = .next (u.keepCopy cl op))) ∧
      (∀ d a z bs e pa t, l.length ≤ op.phase → l[w]? = some (d, a, z) → op.held[w]? = some bs →
        (dsp = false → engineMaps u (.copy cl) op.core d .write op.sup e pa t →
          Machine.exec (.copyLands cl id) s = .next (onward (lineWritten t op.core op.thread pa bs e op.na))) ∧
        (dsp = true → idleBanks s cl → bs.length = z → d + z ≤ 2 ^ 21 → unarmed (s.cluster cl) d z →
          cellsWf (s.cluster cl).spad 0#8 = true →
          ∃ v : State, v = { u with clusters := v.clusters } ∧ Machine.exec (.copyLands cl id) s = .next (onward v) ∧
            ∀ i, i < 2 ^ 21 → (v.cluster cl).spadByte i =
              if d ≤ i ∧ i < d + z then (bs[i - d]?).getD 0#8 else (s.cluster cl).spadByte i))

/-- R220, R222: an extent of the tile; its interleave; the interleave groups. -/
def tileExt (b : List Byte) (i : Nat) : Nat := if i < fieldAt b 10 1 then fieldAt b (0x38 + 2 * i) 2 else 1
def tileV (b : List Byte) : Nat := if fieldAt b 10 1 = 1 then 1 else fieldAt b 11 1
def tileG (b : List Byte) : Nat := (tileExt b 1 + tileV b - 1) / tileV b

/-- R220: elements that move as one, and their bytes: four .t6 in three bytes, else one. -/
def slotElems (b : List Byte) : Nat := if Fmt.ofCode (BitVec.ofNat 4 (fieldAt b 8 1)) = some .t6 then 4 else 1
def slotBytes (b : List Byte) : Nat :=
  match Fmt.ofCode (BitVec.ofNat 4 (fieldAt b 8 1)) with
  | some .t6 => 3
  | some f => f.bits / 8
  | none => 1

/-- R222: the byte offset of a slot on the linear side. -/
def slotLinear (b : List Byte) (t0 t1 t2 t3 : Nat) : Nat :=
  let v := tileV b
  let lin := (((t3 * tileExt b 2 + t2) * tileG b + t1 / v) * tileExt b 0 + t0) * v + t1 % v
  lin / slotElems b * slotBytes b

/-- R222: the address of a slot in the tensor, where it is inside. -/
def slotAddress (b : List Byte) (o : List Int) (t0 t1 t2 t3 : Nat) : Option Nat :=
  let nd := fieldAt b 10 1
  let at_ (d t : Nat) : Int := if d < nd then (o[d]?).getD 0 + t else 0
  let inside (d t : Nat) : Bool := decide (nd ≤ d) || (decide (0 ≤ at_ d t) && decide (at_ d t < fieldAt b (0x10 + 4 * d) 4))
  let off (d t : Nat) : Nat := (at_ d t).toNat * fieldAt b (0x18 + 8 * d) 8
  if t1 < tileExt b 1 ∧ (inside 0 t0 && inside 1 t1 && inside 2 t2 && inside 3 t3) = true then
    some (fieldAt b 0 8 + (at_ 0 t0).toNat / slotElems b * slotBytes b + off 1 t1 + off 2 t2 + off 3 t3)
  else none

/-- R220: the bytes of the pad value. -/
def padByte (b : List Byte) (j : Nat) : Byte :=
  let v := fieldAt b 12 4
  BitVec.ofNat 8 ((if slotElems b = 4 then v * (1 + 2 ^ 6 + 2 ^ 12 + 2 ^ 18) else v) / 256 ^ j)

/-- A slot of the tile. -/
abbrev slotOf (b : List Byte) (t0 t1 t2 t3 : Nat) : Prop :=
  t0 < tileExt b 0 ∧ t0 % slotElems b = 0 ∧ t1 < tileG b * tileV b ∧ t2 < tileExt b 2 ∧ t3 < tileExt b 3

/-- R222, R223: how a tile ends whose record is `b`, from the state `s` in which it has been read. -/
def TileMoves (s : State) (cl : Nat) (op : CopyOp) (store lsp : Bool) (linear : Nat) (o : List Int) (b : List Byte)
    (out : Host.Outcome State Fault Refusal) : Prop :=
  let n := tileExt b 0 / slotElems b * (tileG b * tileV b) * tileExt b 2 * tileExt b 3 * slotBytes b
  let x := shapeOf b
  let ill : Prop := x.contradictory = true ∨ (slotElems b = 4 ∧ (o[0]?).getD 0 % 4 ≠ 0)
  let odd : Prop := linear % slotBytes b ≠ 0
  let tsp : Bool := fieldAt b 9 1 % 2 == 1
  let away : Prop := (lsp = true ∧ s.spadOutside op.launch cl linear n ≠ none) ∨
    (tsp = true ∧ s.spadOutside op.launch cl (fieldAt b 0 8) x.extent ≠ none)
  (ill → out = .next (s.landCopy cl op .shapeInvalid)) ∧
  (¬ ill → odd → out = .next (s.landCopy cl op .misaligned)) ∧
  (¬ ill → ¬ odd → away → out = .next (s.landCopy cl op .protection)) ∧
  ∀ cs, ¬ ill → ¬ odd → ¬ away → lsp = true → tsp = true → s.choices = 0 :: cs → idleBanks s cl →
    cellsWf (s.cluster cl).spad 0#8 = true → linear + n ≤ 2 ^ 21 →
    unarmed (s.cluster cl) (if store then fieldAt b 0 8 else linear) (if store then x.extent else n) →
    linear + n ≤ fieldAt b 0 8 ∨ fieldAt b 0 8 + x.extent ≤ linear →
    ∃ u : State, out = .next (u.landCopy cl op .ok) ∧ u = { s with clusters := u.clusters, choices := cs } ∧
      let was (i : Nat) : Byte := (s.cluster cl).spadByte i
      let is (i : Nat) : Byte := (u.cluster cl).spadByte i
      (store = false →
        (∀ t0 t1 t2 t3 j, slotOf b t0 t1 t2 t3 → j < slotBytes b →
          is (linear + slotLinear b t0 t1 t2 t3 + j) =
            match slotAddress b o t0 t1 t2 t3 with
            | some a => was (a + j)
            | none => padByte b j) ∧
        ∀ i, i < 2 ^ 21 → i < linear ∨ linear + n ≤ i → is i = was i) ∧
      (store = true →
        (∀ t0 t1 t2 t3 j a, slotOf b t0 t1 t2 t3 → j < slotBytes b → slotAddress b o t0 t1 t2 t3 = some a →
          is (a + j) = was (linear + slotLinear b t0 t1 t2 t3 + j)) ∧
        ∀ i, i < 2 ^ 21 → (∀ t0 t1 t2 t3 j a, slotOf b t0 t1 t2 t3 → j < slotBytes b → slotAddress b o t0 t1 t2 t3 = some a →
          i ≠ a + j) → is i = was i)

/-- R223: CPT once its record is there, read from scratchpad, and read from global memory. -/
def TileLandings : Prop :=
  ∀ (s : State) (cl id : Nat) (store lsp rsp : Bool) (rec linear : DWord) (o0 o1 o2 o3 : Word) (b : List Byte) (op : CopyOp),
    copyAt s cl id op → fresh op → op.kind = .tile store lsp rsp rec linear o0 o1 o2 o3 b → linear.toNat < 2 ^ 55 →
    let moves (t : State) (b : List Byte) : Prop :=
      TileMoves t cl op store lsp linear.toNat [o0.toInt, o1.toInt, o2.toInt, o3.toInt] b (Machine.exec (.copyLands cl id) s)
    (b.length = 64 → moves s b) ∧
    (b = [] → rsp = true → idleBanks s cl → (∀ k, AMap.getD (s.cluster cl).engq k 0 = 0) →
      moves s ((s.cluster cl).spadRead rec.toNat 64)) ∧
    ∀ e pa t, b = [] → rsp = false → rec.toNat % 64 = 0 → engineMaps s (.copy cl) op.core rec.toNat .read op.sup e pa t →
      (lineRead t op.core pa 64 e op.na).1.length = 64 →
      moves (lineRead t op.core pa 64 e op.na).2 (lineRead t op.core pa 64 e op.na).1

/-- R225: the slices of a collective within a scratchpad move in arrival order; it lands by an arrival at its object, with the
first code of a slice that is not OK. -/
def CollectiveLandings : Prop :=
  ∀ (s : State) (cl id obj : Nat) (op : CopyOp) (cs : List Nat), copyAt s cl id op → fresh op → op.kind = .collective obj →
    idleBanks s cl → cellsWf (s.cluster cl).spad 0#8 = true →
    let xs := (s.cluster cl).slices.filter (fun x => x.obj == obj && x.started)
    let todo := xs.filter (fun x => x.code == none)
    s.choices = List.replicate todo.length 0 ++ cs →
    (∀ x ∈ todo, x.ssp = true ∧ x.dsp = true ∧ x.dst.toNat + x.len ≤ 2 ^ 21 ∧ x.src.toNat + x.len ≤ 2 ^ 21 ∧
      meet x.dst.toNat x.src.toNat x.len = false ∧ unarmed (s.cluster cl) x.dst.toNat x.len) →
    let code := ((xs.filterMap (·.code)).find? (fun c => c != .ok)).getD .ok
    ∃ u : State, u = { s with clusters := u.clusters, choices := cs } ∧
      Machine.exec (.copyLands cl id) s =
        .next (u.engineArrive (.obj cl obj) (u.barrier (.obj cl obj)).expected.toNat code) ∧
      (u.cluster cl).slices = (s.cluster cl).slices.filter (fun x => !(x.obj == obj && x.started)) ∧
      (∀ o ∈ (u.cluster cl).copyq, o.id ≠ id) ∧
      ∀ i, i < 2 ^ 21 → (u.cluster cl).spadByte i =
        (todo.foldl (fun (f : Nat → Byte) x => moved f x.dst.toNat x.src.toNat x.len) (s.cluster cl).spadByte) i

/-- R64, R232: bytes of a row of `k` elements; element `k` of a row that starts at an offset of some bytes. -/
def rowLen (f : MFmt) (k : Nat) : Nat :=
  match f with
  | .t6 => (k + 3) / 4 * 3
  | .t8 | .i8 | .n8 => k
  | .bf16 | .f16 => 2 * k
def elemAt (f : MFmt) (b : Nat → Byte) (row k : Nat) : Nat :=
  let at_ (o n : Nat) : Nat := leNat ((List.range n).map (fun i => b (row + o + i)))
  match f with
  | .t6 => at_ (3 * (k / 4)) 3 / 2 ^ (6 * (k % 4)) % 64
  | .t8 | .i8 | .n8 => at_ k 1
  | .bf16 | .f16 => at_ (2 * k) 2

/-- The operation that MATRIX_LANDS takes up. -/
abbrev matrixAt (s : State) (cl id : Nat) (op : MatOp) : Prop :=
  (s.cluster cl).matq.find? (fun o => o.id == id) = some op ∧ op.granted = true ∧ op.parked = false ∧ op.result = none

/-- The matrix formats that reduced service does not serve (R389). -/
abbrev notServed (s : State) (f : MFmt) : Prop := s.pcb.reduced = true ∧ f ∉ [MFmt.bf16, .f16]

/-- A code with row 0. -/
def endedWith (op : MatOp) (c : Code) : MatOp := { op with code := c, row := 0 }

/-- R236: a plane whose source rows start at offsets `row i` of some bytes. -/
def PlaneFrom (p : Plane) (launch : Nat) (f : MFmt) (tr : Bool) (k n : Nat) (b : Nat → Byte) (row : Nat → Nat) : Prop :=
  p.fmt = f ∧ p.kext = k ∧ p.next = n ∧ p.owner = some launch ∧
  ∀ i j, i < 192 → j < 192 → (cellGet p.elems 0#16 (192 * i + j)).toNat =
    if i < k ∧ j < n then (if tr then elemAt f b (row j) i else elemAt f b (row i) j) else 0

/-- The source unit at byte `pos` of rows of `n` bytes: its address and its length, to the end of its row and of its line. -/
def unitAt (a stride n pos : Nat) : Nat := a + pos / n * stride + pos % n
def unitLen (a stride n pos : Nat) : Nat := min (n - pos % n) (128 - unitAt a stride n pos % 128)

/-- R236, R389: MLOAD from scratchpad in one part, from weight-store pages one unit at a time; where it fails. -/
def LoadLandings : Prop :=
  ∀ (s : State) (cl id : Nat) (op : MatOp) (f : MFmt) (tr sp : Bool) (a : DWord) (stride k n : Nat) (cs : List Nat),
    matrixAt s cl id op → op.kind = .load f tr sp a stride k n → 1 ≤ k → 1 ≤ n → k ≤ 192 → n ≤ 192 →
    let len := rowLen f (if tr then k else n)
    let rows := if tr then n else k
    let filled (v : State) (p : Plane) : State := (v.modCluster cl (fun c => { c with shadow := p })).landMatrix cl op
    let failed (v : State) (c : Code) : State := (v.modCluster cl (fun c => { c with
      shadow := ⟨Plane.init.fmt, Plane.init.kext, Plane.init.next, none, []⟩ })).landMatrix cl (endedWith op c)
    (notServed s f → Machine.exec (.matrixLands cl id) s = .next (failed s .matrixFormat)) ∧
    (¬ notServed s f →
      (s.choices = 0 :: cs → op.pos = 0 → op.got = [] → sp = true → a.toNat + (rows - 1) * stride + len ≤ 2 ^ 21 →
        ∃ p, PlaneFrom p op.launch f tr k n (s.cluster cl).spadByte (fun i => a.toNat + i * stride) ∧
          Machine.exec (.matrixLands cl id) s = .next (filled { s with choices := cs } p)) ∧
      ∀ e pa t t', s.choices = 1 :: cs → sp = false → op.pos < rows * len → op.got.length = op.pos →
        let at_ := unitAt a.toNat stride len op.pos
        let m := unitLen a.toNat stride len op.pos
        engineMaps { s with choices := cs } (.matrix cl) op.core at_ .read op.sup e pa t →
        (pteWs e = false → Machine.exec (.matrixLands cl id) s = .next (failed t .protection)) ∧
        (pteWs e = true → engineMaps t (.matrix cl) op.core at_ .read op.sup e pa t' →
          let x := lineRead t' op.core pa m e false
          x.1.length = m →
          (op.pos + m < rows * len → Machine.exec (.matrixLands cl id) s =
            .next (x.2.keepMatrix cl { op with got := op.got ++ x.1, pos := op.pos + m })) ∧
          (rows * len ≤ op.pos + m →
            ∃ p, PlaneFrom p op.launch f tr k n (fun i => ((op.got ++ x.1)[i]?).getD 0#8) (fun i => i * len) ∧
              Machine.exec (.matrixLands cl id) s = .next (filled x.2 p))))

/-- R73, R74: `z` is the accumulator after a pass of the products of pairs: modulo 2^32 for integers, else slice by slice of
32, each slice's exact sum rounded to nearest and then added with one rounding. -/
def PassTo (f g : MFmt) (acc : Nat) (ps : List (Nat × Nat)) (z : Nat) : Prop :=
  let v (f : MFmt) (x : Nat) : Int := if f = .i8 ∧ 128 ≤ x % 256 then ((x % 256 : Nat) : Int) - 256 else (x % 256 : Nat)
  (f ∈ [MFmt.i8, .n8] → (z : Int) = ((acc : Int) + (ps.map (fun p => v f p.1 * v g p.2)).sum) % 2 ^ 32) ∧
  (f ∉ [MFmt.i8, .n8] → ∃ at_ : Nat → Nat, at_ 0 = acc ∧ at_ ((ps.length + 31) / 32) = z ∧
    ∀ i, 32 * i < ps.length →
      let slice := ((ps.drop (32 * i)).take 32).map (fun p => (fmtValue f.fmt false p.1).mul (fmtValue g.fmt false p.2))
      RoundedSum fF32 (at_ i) (fF32.round .rn 0 (sumTerms .rn slice)) (at_ (i + 1)))

/-- R238, R242: a pass over an accumulator row with the activations at an offset leaves `t`; `noted` says that the row is
noted. The array's own check of the row is the state's next choice: 1 an error, 2 one that was corrected and counted. -/
def RowPassed (s : State) (cl : Nat) (f : MFmt) (ow : Bool) (row off : Nat) (t : State) (noted : Prop) : Prop :=
  let c := s.cluster cl
  let p := c.stationary
  let q := s.choose 3
  let bit := BitVec.ofNat 1024 (2 ^ row)
  let counted : State := if q.1 = 2 then [0, 1, 2, 3].foldl (fun s i => s.pmc (4 * cl + i) 0x30 1 none) q.2 else q.2
  let word (r j : Nat) : Word := cellGet c.acc 0#32 (192 * r + j)
  (ow = false ∧ c.poison.getLsbD row = true → t = s ∧ noted) ∧
  (¬ (ow = false ∧ c.poison.getLsbD row = true) →
    (q.1 = 1 → t = q.2.modCluster cl (fun c => { c with poison := c.poison ||| bit }) ∧ noted) ∧
    (q.1 ≠ 1 → ¬ noted ∧ ∃ m : AMap Word, t = counted.modCluster cl (fun c => { c with
        acc := m, poison := if ow = true ∧ p.next = 192 then c.poison &&& ~~~bit else c.poison }) ∧
      ∀ r j, j < 192 → if r = row ∧ j < p.next then
          PassTo f p.fmt (if ow then 0 else (word r j).toNat) ((List.range p.kext).map (fun k =>
            (elemAt f c.spadByte off k, (cellGet p.elems 0#16 (192 * k + j)).toNat))) (cellGet m 0#32 (192 * r + j)).toNat
        else cellGet m 0#32 (192 * r + j) = word r j))

/-- The operation after a row: the first note stands (R233). -/
def notes (noted : Prop) [Decidable noted] (row : Nat) (op : MatOp) : MatOp :=
  if noted ∧ op.code = .ok then { op with code := .matrixDataError, row := row } else op

/-- R238, R239, R389: MSTREAM row by row, MGATHER entry by entry, and where they end before that. -/
def PassLandings : Prop :=
  ∀ (s : State) (cl id : Nat) (op : MatOp) (f : MFmt) (ow : Bool) (a : DWord) (rows : Nat), matrixAt s cl id op →
    op.code ∈ [Code.ok, .matrixDataError] → (s.cluster cl).stationary.next ≤ 192 → AMap.sorted (s.cluster cl).acc = true →
    let p := (s.cluster cl).stationary
    let pairs : Prop := f = p.fmt ∨ (f ∈ [MFmt.i8, .n8] ∧ p.fmt ∈ [MFmt.i8, .n8])
    let len := rowLen f p.kext
    ((∃ row stride, op.kind = .stream f ow a row stride rows) ∨ (∃ gl sl, op.kind = .gather f ow a gl sl rows) →
      (notServed s f ∨ p.owner = none ∨ (p.owner = some op.launch ∧ ¬ pairs) →
        Machine.exec (.matrixLands cl id) s = .next (s.landMatrix cl (endedWith op .matrixFormat))) ∧
      (∀ l, ¬ notServed s f → p.owner = some l → l ≠ op.launch →
        Machine.exec (.matrixLands cl id) s = .next (s.landMatrix cl (endedWith op .protection)))) ∧
    (¬ notServed s f → p.owner = some op.launch → pairs →
      (∀ row stride cs, op.kind = .stream f ow a row stride rows → row + rows ≤ 1024 → op.pos < rows → s.choices = 1 :: cs →
        let u : State := { s with choices := cs }
        let off := (a.toNat + op.pos * stride) % 2 ^ 21
        (s.spadOutside op.launch cl off len ≠ none → Machine.exec (.matrixLands cl id) s =
          .next (u.landMatrix cl { op with code := .protection, row := row + op.pos })) ∧
        (s.spadOutside op.launch cl off len = none → ∃ (t : State) (b : Bool),
          RowPassed u cl f ow (row + op.pos) off t (b = true) ∧
          let op' := notes (b = true) (row + op.pos) op
          Machine.exec (.matrixLands cl id) s =
            .next (if op.pos + 1 < rows then t.keepMatrix cl { op' with pos := op.pos + 1 } else t.landMatrix cl op'))) ∧
      ∀ gl sl, op.kind = .gather f ow a gl sl rows →
        let row (i : Nat) : Nat := (s.cluster cl).spadNat (sl + 2 * i) 2
        let off (i : Nat) : Nat := (a.toNat + (s.cluster cl).spadNat (gl + 4 * i) 4) % 2 ^ 21
        let odd (i : Nat) : Prop := off i % rowLen f (if f = .t6 then 4 else 1) ≠ 0
        let away (i : Nat) : Prop := s.spadOutside op.launch cl (off i) len ≠ none ∨ 1024 ≤ row i ∨
          s.spadOutside op.launch cl (2048 * row i) 1 ≠ none
        ∀ n, n ≤ rows → (∀ i, i < n → ¬ odd i ∧ ¬ away i) → n = rows ∨ odd n ∨ away n →
          ∃ (t : Nat → State) (o : Nat → MatOp) (b : Nat → Bool), t 0 = s ∧ o 0 = op ∧
            (∀ i, i < n → RowPassed (t i) cl f ow (row i) (off i) (t (i + 1)) (b i = true) ∧
              o (i + 1) = notes (b i = true) (row i) (o i)) ∧
            (n = rows → Machine.exec (.matrixLands cl id) s = .next ((t n).landMatrix cl (o n))) ∧
            (n < rows → odd n → Machine.exec (.matrixLands cl id) s =
              .next ((t n).landMatrix cl { o n with code := .misaligned, row := n })) ∧
            (n < rows → ¬ odd n → Machine.exec (.matrixLands cl id) s =
              .next ((t n).landMatrix cl { o n with code := .protection, row := n })))

/-- R240: byte `i` of the row of `cols` converted elements that MREAD makes of an accumulator row. -/
def readByte (c : Cluster) (m : MreadMod) (row i : Nat) : Byte :=
  let code (j : Nat) : Nat :=
    convert ⟨m.ofmt, if m.ai then .i32 else .f32, m.rnd, false, m.sat, false⟩ 0 (cellGet c.acc 0#32 (192 * row + j)).toNat
  if m.ofmt = .t6 then
    BitVec.ofNat 8 (((List.range 4).map (fun j => code (4 * (i / 3) + j) % 64 * 2 ^ (6 * j))).sum / 256 ^ (i % 3))
  else let e := m.ofmt.bits / 8; BitVec.ofNat 8 (code (i / e) / 256 ^ (i % e))

/-- The bytes of such a row. -/
def readLen (m : MreadMod) (cols : Nat) : Nat := if m.ofmt = .t6 then cols / 4 * 3 else cols * (m.ofmt.bits / 8)

/-- The units that MREAD writes: row, byte within it, address, length; a poisoned row has none. -/
def readParts (c : Cluster) (a row rows stride n : Nat) : List (Nat × Nat × Nat × Nat) :=
  (List.range rows).flatMap (fun r =>
    if c.poison.getLsbD (row + r) then []
    else ((List.range n).filter (fun j => j == 0 || (a + r * stride + j) % 128 == 0)).map (fun j =>
      (row + r, j, a + r * stride + j, min (n - j) (128 - (a + r * stride + j) % 128))))

/-- R240: MREAD to scratchpad in one part, its rows without an error of their own; to global memory one unit at a time. -/
def ReadLandings : Prop :=
  ∀ (s : State) (cl id : Nat) (op : MatOp) (m : MreadMod) (a : DWord) (row cols stride : Nat) (cs : List Nat),
    matrixAt s cl id op → op.kind = .read m a row cols stride → 1 ≤ cols → cols ≤ 192 → (m.ofmt = .t6 → cols % 4 = 0) →
    row + m.rows.toNat ≤ 1024 → AMap.sorted (s.cluster cl).acc = true →
    let c := s.cluster cl
    let rows := m.rows.toNat
    let n := readLen m cols
    let bad (r : Nat) : Bool := c.poison.getLsbD r
    let noted : Option Nat := ((List.range rows).map (row + ·)).find? bad
    (m.dsp = true → op.begun = false → op.pos = 0 → op.code = .ok → op.row = 0 →
      s.choices = List.replicate rows 0 ++ 0 :: cs → n ≤ stride ∨ rows ≤ 1 → a.toNat + (rows - 1) * stride + n ≤ 2 ^ 21 →
      cellsWf c.spad 0#8 = true → unarmed c a.toNat ((rows - 1) * stride + n) →
      ∃ u : State, u = { s with clusters := u.clusters, choices := cs } ∧
        Machine.exec (.matrixLands cl id) s = .next (u.landMatrix cl (match noted with
          | some r => { op with code := .matrixDataError, row := r }
          | none => op)) ∧
        (∀ r i, r < rows → i < n → (u.cluster cl).spadByte (a.toNat + r * stride + i) =
          if bad (row + r) then c.spadByte (a.toNat + r * stride + i) else readByte c m (row + r) i) ∧
        (∀ i, i < 2 ^ 21 → (∀ r, r < rows → i < a.toNat + r * stride ∨ a.toNat + r * stride + n ≤ i) →
          (u.cluster cl).spadByte i = c.spadByte i) ∧
        (∀ r j, j < 192 → cellGet (u.cluster cl).acc 0#32 (192 * r + j) =
          if m.clr = true ∧ row ≤ r ∧ r < row + rows ∧ bad r = false then 0#32 else cellGet c.acc 0#32 (192 * r + j)) ∧
        (u.cluster cl).poison = c.poison) ∧
    ∀ e pa t r j at_ z, m.dsp = false → op.begun = true → s.choices = 1 :: cs →
      (readParts c a.toNat row rows stride n)[op.pos]? = some (r, j, at_, z) →
      engineMaps { s with choices := cs } (.copy cl) op.core at_ .write op.sup e pa t →
      let u := lineWritten t op.core op.thread pa ((List.range z).map (fun i => readByte c m r (j + i))) e true
      (pteWs e = false → op.pos + 1 < (readParts c a.toNat row rows stride n).length →
        Machine.exec (.matrixLands cl id) s = .next (u.keepMatrix cl { op with pos := op.pos + 1 })) ∧
      (pteWs e = false → m.clr = false → op.pos + 1 = (readParts c a.toNat row rows stride n).length →
        Machine.exec (.matrixLands cl id) s = .next (u.landMatrix cl op)) ∧
      (pteWs e = true → m.clr = false →
        Machine.exec (.matrixLands cl id) s = .next (t.landMatrix cl (endedWith op .wsReadonly)))

/-- R241: MACCLD from scratchpad in one part, from global memory one unit at a time. -/
def AccumulatorLandings : Prop :=
  ∀ (s : State) (cl id : Nat) (op : MatOp) (sp : Bool) (a : DWord) (row cols stride rows : Nat) (cs : List Nat),
    matrixAt s cl id op → op.kind = .accld sp a row cols stride rows → 1 ≤ cols → cols ≤ 192 → 1 ≤ rows → row + rows ≤ 1024 →
    AMap.sorted (s.cluster cl).acc = true → a.toNat % 4 = 0 → stride % 4 = 0 →
    let c := s.cluster cl
    let whole (r k : Nat) (b : Bool) : Bool := b && !(cols == 192 && decide (row ≤ r) && decide (r < row + k))
    (sp = true → op.pos = 0 → s.choices = 0 :: cs → a.toNat + (rows - 1) * stride + 4 * cols ≤ 2 ^ 21 →
      ∃ u : State, u = { s with clusters := u.clusters, choices := cs } ∧
        Machine.exec (.matrixLands cl id) s = .next (u.landMatrix cl op) ∧ (u.cluster cl).spad = c.spad ∧
        (∀ r j, j < 192 → (cellGet (u.cluster cl).acc 0#32 (192 * r + j)).toNat =
          if row ≤ r ∧ r < row + rows ∧ j < cols then c.spadNat (a.toNat + (r - row) * stride + 4 * j) 4
          else (cellGet c.acc 0#32 (192 * r + j)).toNat) ∧
        ∀ r, r < 1024 → (u.cluster cl).poison.getLsbD r = whole r rows (c.poison.getLsbD r)) ∧
    ∀ e pa t t', sp = false → s.choices = 1 :: cs → op.pos < rows * (4 * cols) → op.pos % 4 = 0 →
      let at_ := unitAt a.toNat stride (4 * cols) op.pos
      let m := unitLen a.toNat stride (4 * cols) op.pos
      engineMaps { s with choices := cs } (.copy cl) op.core at_ .read op.sup e pa t →
      engineMaps t (.copy cl) op.core at_ .read op.sup e pa t' →
      let x := lineRead t' op.core pa m e false
      let r0 := row + op.pos / (4 * cols)
      let j0 := op.pos % (4 * cols) / 4
      x.1.length = m → AMap.sorted (x.2.cluster cl).acc = true →
      ∃ (w : AMap Word) (b : BitVec 1024),
        let u := x.2.modCluster cl (fun c => { c with acc := w, poison := b })
        Machine.exec (.matrixLands cl id) s = .next (if op.pos + m < rows * (4 * cols) then
          u.keepMatrix cl { op with pos := op.pos + m } else u.landMatrix cl op) ∧
        (∀ r j, j < 192 → (cellGet w 0#32 (192 * r + j)).toNat =
          if r = r0 ∧ j0 ≤ j ∧ j < j0 + m / 4 then leNat ((x.1.drop (4 * (j - j0))).take 4)
          else (cellGet (x.2.cluster cl).acc 0#32 (192 * r + j)).toNat) ∧
        ∀ r, r < 1024 → b.getLsbD r =
          ((x.2.cluster cl).poison.getLsbD r && !(decide (r = r0) && decide (j0 + m / 4 = 192)))

end Sys2Proof.Claims

/-- R73, R74, R214-R219, R222-R225, R234, R236-R242: what the engines' operations leave when they land. A copy or a fill within
a scratchpad that the engine has taken up and that the part runs to its end (its choice is 0: log entry 74, as is that an
MZERO and an MGATHER run within one step) lands whole: the destination holds what the source held, or the pattern, every
other byte of the scratchpad stays, and the operation leaves the queue with OK; with a side in global memory it goes access
by access (all that a unit reads before what it writes: log entry 74). A tile moves slot by slot of its mapping, or ends with the code of the first check that
fails; the slices of a collective move in order and arrive at its object. A matrix lane with one waiting operation is granted to
it; a granted MSWAP exchanges the planes once no load runs, MZERO clears its rows and their poison, MLOAD fills the shadow
plane, MSTREAM and MGATHER sum their rows slice by slice, MREAD writes the converted rows and MACCLD fills them. -/
def Obligations.EngineLandings : Prop :=
  CopyLandings ∧ TileLandings ∧ CollectiveLandings ∧ LoadLandings ∧ PassLandings ∧ ReadLandings ∧ AccumulatorLandings ∧
  (∀ (s : State) (cl id : Nat) (op : MatOp),
    let c := s.cluster cl
    (c.matq = [op] → op.granted = false → op.core / 4 = cl →
      Machine.exec (.matrixGrant cl) s =
        .next (s.modCluster cl (fun c => { c with matq := [{ op with granted := true }] }))) ∧
    (c.matq.find? (fun o => o.id == id) = some op → op.granted = true → op.parked = false →
      (op.kind = .swap → (∀ q ∈ c.matq, q.granted = true → q.isLoad = false) → c.shadow.owner = some op.launch →
        Machine.exec (.matrixLands cl id) s = .next ((s.modCluster cl (fun c => { c with
          stationary := c.shadow, shadow := c.stationary })).landMatrix cl op)) ∧
      (op.kind = .swap → (∀ q ∈ c.matq, q.granted = true → q.isLoad = false) → c.shadow.owner = none →
        Machine.exec (.matrixLands cl id) s = .next (s.landMatrix cl { op with code := .matrixFormat, row := 0 })) ∧
      (∀ l, op.kind = .swap → (∀ q ∈ c.matq, q.granted = true → q.isLoad = false) → c.shadow.owner = some l → l ≠ op.launch →
        Machine.exec (.matrixLands cl id) s = .next (s.landMatrix cl (endedWith op .protection))) ∧
      (∀ row rows, op.kind = .zero row rows → row + rows ≤ 1024 → AMap.sorted c.acc = true →
        ∃ u : State, Machine.exec (.matrixLands cl id) s = .next (u.landMatrix cl op) ∧ u = { s with clusters := u.clusters } ∧
          (∀ r j, j < 192 → cellGet (u.cluster cl).acc 0#32 (192 * r + j) =
            if row ≤ r ∧ r < row + rows then 0#32 else cellGet c.acc 0#32 (192 * r + j)) ∧
          ∀ r, r < 1024 → (u.cluster cl).poison.getLsbD r = (c.poison.getLsbD r && !(decide (row ≤ r) && decide (r < row + rows)))))) ∧
  ∀ (af wf : MFmt) (acc : Nat) (ps : List (Nat × Nat)), af = .i8 ∨ af = .n8 → (∀ p ∈ ps, p.1 < 256 ∧ p.2 < 256) →
    acc < 2 ^ 32 →
    let v (f : MFmt) (x : Nat) : Int := if f = .i8 ∧ 128 ≤ x then (x : Int) - 256 else x
    (passValue af wf acc ps : Int) = ((acc : Int) + (ps.map (fun p => v af p.1 * v wf p.2)).sum) % 2 ^ 32

/-! ### Scans and the Chain (R245-R265) -/

namespace Sys2Proof.Claims

/-- The Chain stop of the thread's core is open by its group (R255). -/
def StopOpen (s : State) (k : Nat) (th : Thread) (g : Group) : Prop :=
  Acts s k th ∧ s.groupOf k = some g ∧ g.spawned = false ∧ (s.chain g.core).owner = some (g.launch, g.index)

/-- One combine of R249: position `hi` takes combine(`lo`, `hi`); a position past the tile is absent. -/
def combineInto (f : List Word → List Word → List Word) (x : List (List Word)) (lo hi : Nat) : List (List Word) :=
  match x[lo]?, x[hi]? with
  | some a, some b => x.set hi (f a b)
  | _, _ => x

/-- The up-sweep and the down-sweep of R249, loop by loop. -/
def treePrefix (f : List Word → List Word → List Word) (x : List (List Word)) : List (List Word) :=
  let from_ (lo n : Nat) : List Nat := (List.range n).filter (fun i => decide (lo ≤ i))
  let up := (List.range 8).foldl (fun x d => ((from_ 0 256).filter (fun i => i % 2 ^ (d + 1) == 0)).foldl (fun x i =>
    combineInto f x (i + 2 ^ d - 1) (i + 2 ^ (d + 1) - 1)) x) x
  [6, 5, 4, 3, 2, 1, 0].foldl (fun x d =>
    ((from_ (2 ^ (d + 1)) (257 - 2 ^ d)).filter (fun i => i % 2 ^ (d + 1) == 0)).foldl (fun x i =>
      combineInto f x (i - 1) (i + 2 ^ d - 1)) x) up

/-- The checks of a scan in order (R252); `bad` are those of the Chain (R258). -/
def scanChecks (s : State) (g : Group) (bar : BitVec 6) (a b : DWord) (c : Word) (bad : Bool) : List (Option (Code × Nat)) :=
  let n := c.toNat % 256 + 1
  let es := c.toNat / 256 % 256
  let src := a.toNat % 2 ^ 21
  let dst := b.toNat % 2 ^ 21
  [fails (g.bars.length ≤ bar.toNat ∨ 2 ^ 16 ≤ c.toNat ∨ es = 0 ∨ bad = true) .illegalOperand 0,
    fails (src % 4 ≠ 0) .misaligned src, fails (dst % 4 ≠ 0) .misaligned dst, outside s g true src (4 * es * n),
    outside s g true dst (4 * es * n), fails (src ≠ dst ∧ meet src dst (4 * es * n) = true) .illegalOperand 0,
    barCheck g bar.toNat]

end Sys2Proof.Claims

/-- R245, R246, R249, R251-R253, R257, R258: SCAN and SCANC trap at the first check that fails and else enter the core's
scan queue, ENGPEND raised, a SCANC with its claim and its send; SCDESC enters it with the record that its load gave. At
the head of the queue a SCDESC sets or clears the group's descriptor, a SCAN or SCANC without a usable descriptor lands
SCAN_DESC_INVALID, a SCAN with one writes the inclusive prefix of its tile, in the fixed order of combines, and a SCANC
takes INIT or its claimed carry, sends combine(carry, last of the prefix) on, and writes combine(carry, each). That it reads
its source, once for both, when its carry is there and not before is the model's reading, log entry 83. -/
def Obligations.ScanInstructions : Prop :=
  (∀ (s : State) (k gk : Nat) (th : Thread) (g : Group) (bar : BitVec 6) (loc init wrap : Bool) (o : Opnds), Acts s k th →
    th.group = some gk → s.groupOf k = some g →
    let a := s.read64 k o.a
    let b := a.2.read64 k o.b
    let c := b.2.read32 k o.c
    let x := c.2.chain g.core
    let src := a.1.toNat % 2 ^ 21
    let dst := b.1.toNat % 2 ^ 21
    let n := c.1.toNat % 256 + 1
    let es := c.1.toNat / 256 % 256
    let isOpen : Bool := !g.spawned && x.owner == some (g.launch, g.index)
    let tail : Bool := g.index + 1 == x.head + x.len
    let bad : Bool := !isOpen || (init && g.index != x.head) || (wrap && !tail)
    let queued (kind : ScanKind) : State := (c.2.engineBegin gk bar.toNat).queueScan k gk g.core kind bar.toNat o
    (8 ≤ (s.core g.core).scanq.length → ∀ i ∈ [Instr.scan bar o, .scanc loc init wrap bar o],
      Machine.exec i s = .next { s with retry := true }) ∧
    ((s.core g.core).scanq.length < 8 →
      (∃ t, Checked s k (.scan bar o) (scanChecks c.2 g bar a.1 b.1 c.1 false) t ∧
        ∀ core, (t.core core) = ((queued (.scan src dst es n)).core core) ∧
          t.threads = (queued (.scan src dst es n)).threads ∧ t.groups = (queued (.scan src dst es n)).groups) ∧
      Checked s k (.scanc loc init wrap bar o) (scanChecks c.2 g bar a.1 b.1 c.1 bad)
        (let u := (queued (.scanc loc init wrap src dst es n none none)).modChain g.core (fun y => { y with
          claims := if init then y.claims else (y.claims + 1) % 65536
          claimq := if init then y.claimq else y.claimq ++ [⟨some c.2.nextOp, k, none, 0⟩]
          sends := if wrap || !tail then y.sends ++ [⟨k, none, some c.2.nextOp, none⟩] else y.sends })
         if init = false ∧ x.closing ≠ [] then u.settleClaim g.core else u)) ∧
    (s.acquirePending k = false → (s.core (coreOfThread k)).scanq.length < 8 → threadOnLC k = false →
      a.1.toNat % 2 ^ 21 % 64 = 0 →
      a.2.spadOutside g.launch (clusterOfCore (coreOfThread k)) (a.1.toNat % 2 ^ 21) 64 = none →
      Machine.exec (.scdesc true o) s = .next (a.2.queueScan k gk (coreOfThread k)
        (.desc true a.1 ((a.2.cluster (clusterOfCore (coreOfThread k))).spadRead (a.1.toNat % 2 ^ 21) 64)) 0 o))) ∧
  (∀ (s : State) (k gk core bar : Nat) (kind : ScanKind) (o : Opnds), s.taskReclaimed k = false → destReg o.d = none →
    s.thread? k ≠ none →
    let t := s.queueScan k gk core kind bar o
    t = { s with threads := t.threads, cores := t.cores, nextOp := s.nextOp + 1 } ∧
    t.thread? k = (s.thread? k).map (passed o.len) ∧
    t.cores = AMap.set s.cores core ({ s.core core with
      scanq := (s.core core).scanq ++ [⟨s.nextOp, k, gk, kind, bar, none⟩] } : Core)) ∧
  (∀ (d : ScanDesc) (x : List (List Word)), x.length ≤ 256 → d.prefixOf x = treePrefix d.combine x) ∧
  (∀ (s : State) (cl a es : Nat) (x : List (List Word)), cellsWf (s.cluster cl).spad 0#8 = true →
    a + 4 * es * x.length ≤ 2 ^ 21 → (∀ e ∈ x, e.length ≤ es) →
    (∀ y ∈ (s.cluster cl).armed, ¬ (y < a + 4 * es * x.length ∧ a < y + 16)) →
    let t := s.tileWrite cl a es x
    t.1 = false ∧ t.2 = { s with clusters := t.2.clusters } ∧
    (∀ i j b e w, x[i]? = some e → e[j]? = some w → b < 4 →
      (t.2.cluster cl).spadByte (a + 4 * es * i + 4 * j + b) = BitVec.ofNat 8 (w.toNat / 256 ^ b)) ∧
    ∀ i, i < 2 ^ 21 → i < a ∨ a + 4 * es * x.length ≤ i → (t.2.cluster cl).spadByte i = (s.cluster cl).spadByte i) ∧
  (∀ (s : State) (core : Nat) (op : ScanOp) (rest : List ScanOp) (loc init wrap : Bool) (src dst es n : Nat)
    (tile : Option (List (List Word))) (sent : Option Code), (s.core core).scanq = op :: rest →
    op.kind = .scanc loc init wrap src dst es n tile sent →
    let x := s.chain core
    (tile = none → s.scanDesc op es = none →
      Machine.exec (.scanLands core) s = .next ((s.scanLands core op .scanDescInvalid).settleStop core)) ∧
    (∀ y, tile = some y →
      ((∃ z ∈ x.sends, z.op = some op.id) → Machine.exec (.scanLands core) s = .next s) ∧
      ((∀ z ∈ x.sends, z.op ≠ some op.id) →
        Machine.exec (.scanLands core) s = .next (s.landTile core op dst es y (sent.getD .ok)))) ∧
    ∀ d, tile = none → s.scanDesc op es = some d →
      let source : List (List Word) :=
        let e := (s.cluster (clusterOfCore core)).tileRead src es n d.ncomp
        if loc then e else d.prefixOf e
      let takes (u : State) (c : List Word) : State :=
        (((u.modChain core (fun y => { y with sends := y.sends.map (fun z =>
          if z.op = some op.id then { z with entry := some ⟨true, d.combine c (source.getLastD [])⟩ } else z) })).modCore core
          (fun y => { y with scanq := y.scanq.map (fun q =>
            if q.id = op.id then { q with kind := .scanc loc init wrap src dst es n (some (source.map (d.combine c))) none }
            else q) })).settleStop core).scancFinish core op dst es (source.map (d.combine c)) none
      (init = true → Machine.exec (.scanLands core) s = .next (takes s (d.init.take d.ncomp))) ∧
      (∀ e ms q qs, init = false → x.claimq = q :: qs → q.op = some op.id → x.mailbox = e :: ms →
        (e.carry = true → e.words.length = d.ncomp → Machine.exec (.scanLands core) s =
          .next (takes (s.modChain core (fun y => { y with claimq := qs, mailbox := ms })) e.words)) ∧
        (e.carry = false ∨ e.words.length ≠ d.ncomp →
          Machine.exec (.scanLands core) s = .next ((s.scanLands core op .scanDescInvalid).settleStop core)))) ∧
  ∀ (s : State) (core : Nat) (op : ScanOp) (rest : List ScanOp), (s.core core).scanq = op :: rest →
    (∀ sp addr b, op.kind = .desc sp addr b →
      ∃ u : State, u = { s with groups := u.groups } ∧
        Machine.exec (.scanLands core) s = .next (u.scanLands core op (if (scanDescOf b).valid then .ok else .scanDescInvalid)) ∧
        ∀ g, s.group? op.group = some g → ∃ g', u.group? op.group = some g' ∧
          g'.desc = (if (scanDescOf b).valid then some b else none)) ∧
    (∀ src dst es n, op.kind = .scan src dst es n →
      (s.scanDesc op es = none → Machine.exec (.scanLands core) s = .next (s.scanLands core op .scanDescInvalid)) ∧
      (∀ d, s.scanDesc op es = some d →
        Machine.exec (.scanLands core) s = .next (s.landTile core op dst es
          (d.prefixOf ((s.cluster (clusterOfCore core)).tileRead src es n d.ncomp)) .ok)))

/-- R254-R261, R265: the Chain instructions need the stop open by the thread's group; CHOPEN opens a free one. CHSEND adds
a word entry to the member's sends, CHRECV a claim, CHBAR and CHCLOSE wait. A send reaches the successor's mailbox while
it has room; the head's CHBAR completes at once and another once a token of the predecessor is there, each but the tail's
passing a token on while the successor counts fewer than 255; a head whose segment has not formed keeps what it passes. The
successor of a segment's tail is its head. -/
def Obligations.ChainInstructions : Prop :=
  (∀ (s : State) (k : Nat) (th : Thread) (g : Group) (l : Launch) (z : ChSize) (o : Opnds), Acts s k th →
    s.groupOf k = some g →
    let x := s.chain g.core
    let a := s.read32 k o.a
    let b := a.2.read32 k o.b
    let n := match z with
      | .b32 => 1
      | .b64 => 2
      | .b128 => 4
    (g.spawned = true ∨ x.owner ≠ some (g.launch, g.index) →
      ∀ i ∈ [Instr.chclose o, .chbar o, .chsend z o, .chrecv z o],
        Machine.exec i s = .next (s.takeTrap k .illegalOperand 0#64)) ∧
    (s.launchOf k = some l →
      (l.chain = false ∨ g.spawned = true ∨ b.1 = 0#32 ∨ l.ngroup < a.1.toNat + b.1.toNat ∨ g.index < a.1.toNat ∨
          a.1.toNat + b.1.toNat ≤ g.index → Machine.exec (.chopen o) s = .next (s.takeTrap k .illegalOperand 0#64)) ∧
      (l.chain = true → g.spawned = false → b.1 ≠ 0#32 → a.1.toNat + b.1.toNat ≤ l.ngroup → a.1.toNat ≤ g.index →
        g.index < a.1.toNat + b.1.toNat → (b.2.chain g.core).owner = none → (b.2.chain g.core).waiting = [] →
        Machine.exec (.chopen o) s = .next (((b.2.pendD k o.d 1).advance k o.len).openStop g.core
          ⟨g.launch, g.index, k, destReg o.d, a.1.toNat, b.1.toNat⟩))) ∧
    (StopOpen s k th g →
      Machine.exec (.chclose o) s = .next (((s.pendD k o.d 1).advance k o.len).beginClose g.core (k, destReg o.d)) ∧
      (let u := (((s.releasePkg g.core).pendD k o.d 1).advance k o.len).modChain g.core (fun y => { y with
         chbars := y.chbars ++ [(k, destReg o.d)] })
       (g.index ≠ x.head ∨ x.closing ≠ [] → Machine.exec (.chbar o) s = .next (u.settleClaim g.core)) ∧
       (g.index = x.head → x.closing = [] → Machine.exec (.chbar o) s = .next ((u.stepBar g.core).getD u))) ∧
      (let v := s.readData k (match z with | .b32 => Size.b32 | .b64 => .b64 | .b128 => .b128) o.a
       Machine.exec (.chsend z o) s =
         .next ((((v.2.releasePkg g.core).pendD k o.d 1).advance k o.len).modChain g.core (fun y => { y with
           sends := y.sends ++ [⟨k, destReg o.d, none, some ⟨false, wordsOf v.1 n⟩⟩] }))) ∧
      ((∀ e ms, x.claimq = [] → x.mailbox = e :: ms → e.carry = false ∧ e.words.length = n) →
        Machine.exec (.chrecv z o) s =
          .next ((((s.pendD k o.d n).advance k o.len).modChain g.core (fun y => { y with
            claims := (y.claims + 1) % 65536, claimq := y.claimq ++ [⟨none, k, destReg o.d, n⟩] })).settleClaim g.core)) ∧
      (∀ e ms, x.claimq = [] → x.mailbox = e :: ms → e.carry = true ∨ e.words.length ≠ n →
        Machine.exec (.chrecv z o) s = .next (s.takeTrap k .illegalOperand 0#64)))) ∧
  (∀ (s : State) (core n l i : Nat) (y : ChSend) (e : ChEntry) (p : Nat × Option Nat) (ps : List (Nat × Option Nat)),
    let x := s.chain core
    x.owner = some (l, i) → x.formed = true →
    (s.launchGone l = false → x.sends = [y] → y.entry = some e → s.succCore core = some n →
      (s.chain n).mailbox.length + (s.chain n).saved < 2 →
      Machine.exec (.mailboxEntryArrives core) s = .next ((((s.modChain n (fun z => { z with
        mailbox := z.mailbox ++ [e], received := (z.received + 1) % 65536 })).sendEnds core y .ok).settleStop n).serveOpens
          core)) ∧
    (x.chbars = p :: ps →
      let tail : Prop := i + 1 = x.head + x.len
      let stuck : Prop := (i ≠ x.head ∧ x.tokens = 0) ∨ (¬ tail ∧ ∃ n, s.succCore core = some n ∧ 255 ≤ (s.chain n).tokens)
      let u := s.modChain core (fun y => { y with
        chbars := ps, tokens := if i = x.head then y.tokens else y.tokens - 1 })
      let done (v : State) : State := ((v.deliverCode p.1 p.2 .ok).clockPkg core).settleStop core
      (stuck → s.stepBar core = none ∧ Machine.exec (.chbarComplete core) s = .next s) ∧
      (¬ stuck → tail ∨ s.succCore core = none →
        s.stepBar core = some (done u) ∧ Machine.exec (.chbarComplete core) s = .next (done u)) ∧
      (¬ stuck → ¬ tail → s.succCore core = some n →
        let v := u.modChain n (fun y => { y with tokens := y.tokens + 1 })
        s.stepBar core = some (done v) ∧ Machine.exec (.chbarComplete core) s = .next (done v)))) ∧
  (∀ (s : State) (core l i : Nat) (p : Nat × Option Nat) (ps : List (Nat × Option Nat)),
    let x := s.chain core
    let tail : Prop := i + 1 = x.head + x.len
    let done (n : Nat) : State := (((s.modChain core (fun y => { y with chbars := ps, passed := y.passed + n })).deliverCode
      p.1 p.2 .ok).clockPkg core).settleStop core
    x.owner = some (l, i) → x.formed = false → x.chbars = p :: ps →
    (i ≠ x.head ∨ (¬ tail ∧ 255 ≤ x.passed) → s.stepBar core = none) ∧
    (i = x.head → tail → s.stepBar core = some (done 0)) ∧
    (i = x.head → ¬ tail → x.passed < 255 → s.stepBar core = some (done 1))) ∧
  ∀ (x : ChainStop) (l i : Nat), x.owner = some (l, i) →
    x.succ = some (l, if i + 1 = x.head + x.len then x.head else i + 1) ∧
    x.pred = some (l, if i = x.head then x.head + x.len - 1 else i - 1)

/-! ### Shipped sections and futures (R310-R356) -/

/-- R313, R315-R320, R323, R326: SHIP checks its addresses, then its lock translates; a request for a perch with room is on
its way, the sender of a SHIP.w waits, that of a SHIP.t goes on. A request enters its queue, its section starts at the
entry word with the arguments and the lock's address in registers, ends with LCRET or is stopped past 4,194,304
cycles, and its results and token land at the sender; a section whose release at `.sys` is not complete keeps its perch
until it is. That requests on their way count as queued, that an address check's trap has VA 0, and at what privilege the
entry word is fetched are the model's readings, log entries 84, 85 and 86. -/
def Obligations.ShippedSections : Prop :=
  (∀ (s s1 : State) (k h : Nat) (th : Thread) (tok : BitVec 8) (o : Opnds) (e : DWord) (pa : Nat), Acts s k th →
    s.acquirePending k = false →
    let a := s.read64 k o.a
    let b := a.2.read64 k o.b
    let lc := 16 * h + perchOf pa
    (a.1.toNat % 4 ≠ 0 ∨ b.1.toNat % 8 ≠ 0 → ∀ i ∈ [Instr.shipW tok o, .shipT tok o],
      Machine.exec i s = .next (s.takeTrap k .misaligned 0#64)) ∧
    (a.1.toNat % 4 = 0 → b.1.toNat % 8 = 0 → 2 ^ 55 ≤ a.1.toNat ∨ 2 ^ 55 ≤ b.1.toNat →
      ∀ i ∈ [Instr.shipW tok o, .shipT tok o], Machine.exec i s = .next (s.takeTrap k .protection 0#64)) ∧
    (a.1.toNat % 4 = 0 → b.1.toNat % 8 = 0 → a.1.toNat < 2 ^ 55 → b.1.toNat < 2 ^ 55 →
      (∃ l, b.2.xlateHit (.data (coreOfThread k)) { threadReq b.2 k b.1 .read 0 false false with classify := false } =
        (some (.ok e l pa), s1)) → pteWs e = false → placeOf pa = .hbm h → isPerchCtx k = false →
      let id := s1.nextOp
      let who := s1.shipIdent k th
      let req (wait : Bool) : ShipReq := ⟨id, a.1, b.1, pa, th.quad o.c, th.sup, who.1, who.2, some k, destReg o.d, tok.toNat,
        wait, none, coreOfThread k, th.group, false⟩
      let u := (((s1.releasePkg (coreOfThread k)).pendD k o.d 4).modThread k (·.pend tok.toNat 1)).advance k o.len
      Machine.exec (.shipW tok o) s = .next ({ u.modThread k (fun x => { x with status := .shipWait id }) with
        nextOp := s1.nextOp + 1 }.sendShip lc (req true)) ∧
      Machine.exec (.shipT tok o) s = .next ({ u with nextOp := s1.nextOp + 1 }.sendShip lc (req false)))) ∧
  (∀ (s : State) (lc : Nat) (r : ShipReq),
    (s.perch lc).queue.length + (s.shipFlights.filter (fun p => p.1 == lc)).length < 256 → (s.perch lc).parkedSenders = [] →
    s.sendShip lc r = { s.needDie (lc / 16) with shipFlights := s.shipFlights ++ [(lc, r)] }) ∧
  (∀ (s : State) (lc : Nat) (r : ShipReq), s.shipFlights = [(lc, r)] →
    Machine.exec (.perchRequestEnqueue r.id) s =
      .next ({ s with shipFlights := [] }.modPerch lc (fun p => { p with queue := p.queue ++ [r] }))) ∧
  (∀ (s s1 : State) (lc : Nat) (r : ShipReq) (rs : List ShipReq) (w : BitVec 96), (s.perch lc).running = none →
    (s.perch lc).queue = r :: rs →
    let taken := (s.modPerch lc (fun p => { p with queue := rs, running := some r, entered := false, cycles := 0 })).setThread
      (lcThreadKey lc 0) (s.perchContext lc r)
    taken.fetchWord false (1024 + lc) r.entry true = (.word w, s1) →
    let e := Entry.ofNat w.toNat
    (entryOk e .shipped = false ∨ e.spad ≠ 0#16 ∨ e.bars ≠ 0#8 →
      Machine.exec (.sectionStart lc) s = .next (s1.endSection lc .illegalTarget .ok [0#32, 0#32, 0#32, 0#32])) ∧
    (entryOk e .shipped = true → e.spad = 0#16 → e.bars = 0#8 → e.sup = true → r.sup = false →
      Machine.exec (.sectionStart lc) s = .next (s1.endSection lc .privilege .ok [0#32, 0#32, 0#32, 0#32])) ∧
    (entryOk e .shipped = true → e.spad = 0#16 → e.bars = 0#8 → (e.sup = true → r.sup = true) → r.args.length = 4 →
      ∃ t x, Machine.exec (.sectionStart lc) s = .next t ∧ t.thread? (lcThreadKey lc 0) = some x ∧
        x.pc = r.entry + 12#64 ∧ x.sup = e.sup ∧ x.depth = 0 ∧ x.status = .ready ∧
        (∀ i, i < 4 → x.reg i = r.args.getD i 0#32) ∧ x.reg 4 = r.lockVa.setWidth 32 ∧ x.reg 5 = r.lockVa.extractLsb' 32 32 ∧
        (t.perch lc).entered = true)) ∧
  (∀ (s : State) (k : Nat) (th : Thread) (o : Opnds), Acts s k th →
    (isPerchCtx k = false → Machine.exec (.lcret o) s = .next (s.takeTrap k .illegalOperand 0#64)) ∧
    (isPerchCtx k = true →
      Machine.exec (.lcret o) s = .next (s.endSection ((k - lcThreadBase) / 4) .ok .ok (th.quad o.a)) ∧
      ∀ r, (s.perch ((k - lcThreadBase) / 4)).running = some r → (s.perch ((k - lcThreadBase) / 4)).ending = none →
        ∃ t, Machine.exec (.lcret o) s = .next t ∧
          (r.sysScope = false ∨ s.remotePending k = false →
            t.shipResults.getLast? = some ⟨(k - lcThreadBase) / 4, r, .ok, .ok, th.quad o.a⟩ ∧
            (t.perch ((k - lcThreadBase) / 4)).running = none) ∧
          (r.sysScope = true → s.remotePending k = true → t.shipResults.length = s.shipResults.length ∧
            (t.perch ((k - lcThreadBase) / 4)).ending = some (.ok, .ok, th.quad o.a)))) ∧
  (∀ (s : State) (lc : Nat) (r : ShipReq) (c u : Code) (ws : List Word), (s.perch lc).running = some r →
    (s.perch lc).ending = some (c, u, ws) →
    (s.remotePending (lcThreadKey lc 0) = true → Machine.exec (.sectionStart lc) s = .next s) ∧
    (s.remotePending (lcThreadKey lc 0) = false → Machine.exec (.sectionStart lc) s =
      .next { s.modPerch lc (fun p => { p with running := none, entered := false, cycles := 0, ending := none }) with
        shipResults := s.shipResults ++ [⟨lc, r, c, u, ws⟩] })) ∧
  (∀ (s : State) (lc : Nat), (s.perch lc).entered = true →
    (4194304 < (s.perch lc).cycles → Machine.exec (.sectionWatchdog lc) s =
      .next (s.endSection lc .sectionAborted .ok [0#32, 0#32, 0#32, 0#32])) ∧
    ((s.perch lc).cycles ≤ 4194304 → Machine.exec (.sectionWatchdog lc) s = .next s)) ∧
  ∀ (s : State) (n k r : Nat) (x : ShipResult) (th : Thread), s.shipResults[n]? = some x → x.req.remote = none →
    x.req.sender = some k → x.req.sysScope = false → s.thread? k = some th → th.status = .shipWait x.req.id →
    x.req.d = some r → r + 4 ≤ 240 → x.words.length = 4 → x.req.tok < 240 →
    let ws := if x.code = .ok then x.words else [0#32, 0#32, 0#32, 0#32]
    ∃ t, Machine.exec (.shipLands n) s = .next t ∧ t.shipResults = s.shipResults.eraseIdx n ∧
      ∃ th', t.thread? k = some th' ∧ th'.status = .ready ∧ th'.pc = th.pc ∧
        (x.req.tok < r ∨ r + 4 ≤ x.req.tok → cellsWf th.regs 0#32 = true →
          (∀ i, i < 4 → th'.reg (r + i) = ws.getD i 0#32) ∧
          th'.reg x.req.tok = BitVec.ofNat 32 (codeNum x.code + 65536 * codeNum x.under))

namespace Sys2Proof.Claims

/-- The future instructions of a thread. -/
def futureWords (n : BitVec 3) (tok : BitVec 8) (o : Opnds) : List Instr :=
  [.fspawn n o, .frefa o, .frefaOut o, .frefaIn o, .frefd o, .frefdOut o, .fwait tok o, .fpoll o, .fset o, .rpoint o]

/-- Loads of a thread, one after another, from memory of this package through translations that the buffer holds: their
bytes, and the state after them. -/
def Loaded (k : Nat) (s : State) (l : List (DWord × Nat)) (bs : List Byte) (s' : State) : Prop :=
  match l with
  | [] => bs = [] ∧ s' = s
  | (va, n) :: l => ∃ e pa h s1 rest, GlobalAccess s k va .read n false false e pa s1 ∧ placeOf pa = .hbm h ∧
      bs = (s1.coreLoad (coreOfThread k) pa n e false (s1.whoOf k)).1 ++ rest ∧
      Loaded k (s1.coreLoad (coreOfThread k) pa n e false (s1.whoOf k)).2 l rest s'

end Sys2Proof.Claims

/-- R339, R342, R344-R350: the future instructions on handles of this device: a stale handle traps HANDLE_STALE, a reference
that the task does not hold ILLEGAL_OPERAND; else counts, loose references and holdings move as each rule says. FPOLL
answers at once, FWAIT suspends until its future has resolved, FSET resolves an unresolved future of its own task or of
none, D written with it, FSPAWN takes a free entry for a record and after-list that its loads give, or waits for one, and
RPOINT is a reclamation point. On a handle of another device the question is sent there. Which entry is free for FSPAWN, the
address of a misaligned record's trap, and how another device is asked are the model's, log entries 89, 90 and 91; so are
FSET's wait for every remote store of the part (log entry 92) and the place under handle 0 of an FSPAWN that waits (log entry
135). -/
def Obligations.FutureInstructions : Prop :=
  (∀ (s : State) (k : Nat) (th : Thread) (n : BitVec 3) (tok : BitVec 8) (o : Opnds), Acts s k th →
    let h := s.read64 k o.a
    let m := h.2.read32 k o.b
    let key := s.taskKey k
    let hs := s.holdings key
    let core := coreOfThread k
    (isPerchCtx k = true → ∀ i ∈ futureWords n tok o, Machine.exec i s = .next (s.takeTrap k .illegalOperand 0#64)) ∧
    (isPerchCtx k = false → s.taskReclaimed k = false → Machine.exec (.rpoint o) s = .next (s.advance k o.len)) ∧
    (isPerchCtx k = false → s.taskReclaimed k = true → Machine.exec (.rpoint o) s = .next (s.exitThread k)) ∧
    (isPerchCtx k = false → h.2.remoteHandle h.1 = false →
      (h.2.future h.1 = none →
        (∀ i ∈ [Instr.frefa o, .frefaOut o, .frefaIn o, .frefd o, .frefdOut o],
          Machine.exec i s = .next (s.takeTrap k .handleStale 0#64)) ∧
        Machine.exec (.fpoll o) s = .next (sends h.2 k o [codeWord .handleStale]) ∧
        (s.taskReclaimed k = false → th.fwaiting = false →
          Machine.exec (.fwait tok o) s = .next (s.takeTrap k .handleStale 0#64))) ∧
      (∀ f, h.2.future h.1 = some f →
        (heldOf hs h.1 = 0 → ∀ i ∈ [Instr.frefa o, .frefaOut o, .frefd o],
          Machine.exec i s = .next (s.takeTrap k .illegalOperand 0#64)) ∧
        (heldOf hs h.1 ≠ 0 →
          (f.count < 2 ^ 24 - 1 → Machine.exec (.frefa o) s =
            .next ((((h.2.setHoldings key (holdMore hs h.1 1)).modFut h.1 (fun f => { f with count := f.count + 1 })).advance k
              o.len))) ∧
          (f.count = 2 ^ 24 - 1 → Machine.exec (.frefa o) s = .next (s.takeTrap k .illegalOperand 0#64)) ∧
          (let less := h.2.setHoldings key (hs.map (fun p => if p.1 = h.1 then (h.1, p.2 - 1) else p))
           Machine.exec (.frefd o) s = .next (((less.trimPlace key h.1).futDo [.drop h.1 1]).advance k o.len) ∧
           (less.remotes = [] → less.trimPlace key h.1 =
             less.setHoldings key ((less.holdings key).filter (fun p => p.1 != h.1 || p.2 != 0)))) ∧
          (1 ≤ m.1.toNat → m.1.toNat ≤ 65535 → f.count + m.1.toNat ≤ 2 ^ 24 - 1 → Machine.exec (.frefaOut o) s =
            .next ((((m.2.setHoldings key hs).modFut h.1 (fun f => { f with
              count := f.count + m.1.toNat, loose := f.loose + m.1.toNat })).advance k o.len)))) ∧
        (f.loose = 0 → ∀ i ∈ [Instr.frefaIn o, .frefdOut o], Machine.exec i s = .next (s.takeTrap k .illegalOperand 0#64)) ∧
        (f.loose ≠ 0 →
          (holdFull hs h.1 = true → Machine.exec (.frefaIn o) s = .next (s.takeTrap k .budgetExceeded 0#64)) ∧
          (holdFull hs h.1 = false → Machine.exec (.frefaIn o) s =
            .next ((((h.2.setHoldings key (holdMore hs h.1 1)).modFut h.1 (fun f => { f with loose := f.loose - 1 })).advance k
              o.len))) ∧
          Machine.exec (.frefdOut o) s = .next (((((h.2.setHoldings key hs).modFut h.1 (fun f => { f with
            loose := f.loose - 1 })).futDo [.drop h.1 1]).advance k o.len))) ∧
        (f.state = .resolved →
          Machine.exec (.fpoll o) s =
            .next (sends (if f.far then (h.2.clockPkg core).acquireSys core else h.2.clockPkg core) k o
              [BitVec.ofNat 32 (2 ^ 31 + codeNum f.status)])) ∧
        (f.state ≠ .resolved → Machine.exec (.fpoll o) s = .next (sends h.2 k o [0#32])) ∧
        (s.taskReclaimed k = false →
          (h.2.ownFuture k h.1 = true → Machine.exec (.fwait tok o) s = .next (s.takeTrap k .illegalOperand 0#64)) ∧
          (h.2.ownFuture k h.1 = false → Machine.exec (.fwait tok o) s = .next (h.2.modThread k (fun th => { th with
            status := .fwait h.1 o.d tok.toNat o.len, fwaiting := false
            got := if f.state = .resolved then
                some (f.status, if f.status = .ok then [f.r0, f.r1, f.r2, f.r3] else [0#32, 0#32, 0#32, 0#32], f.far)
              else none })))) ∧
        (h.1 ≠ 0#64 → h.2.remotePending k = false →
          let rel := h.2.releasePkg core
          let fset (t : State) (v : Word) : Prop :=
            Machine.exec (.fset o) s = .next ((t.modThread k (fun x => x.putResult o.d [v])).advance k o.len)
          (h.2.ownFuture k h.1 = true →
            (f.state = .resolved ∨ f.reclaimed = true → fset rel 0#32) ∧
            (f.state ≠ .resolved → f.reclaimed = false → fset (rel.futDo [.resolve h.1 .ok (th.quad o.b)]) 1#32)) ∧
          (h.2.ownFuture k h.1 = false → f.launch ≠ none ∨ f.bound ≠ none ∨ heldOf hs h.1 = 0 →
            Machine.exec (.fset o) s = .next (s.takeTrap k .illegalOperand 0#64)) ∧
          (h.2.ownFuture k h.1 = false → f.launch = none → f.bound = none → heldOf hs h.1 ≠ 0 →
            (f.state = .resolved → fset rel 0#32) ∧
            (f.state ≠ .resolved → fset (rel.futDo [.resolve h.1 .ok (th.quad o.b)]) 1#32))))) ∧
    (isPerchCtx k = false → h.2.remotePending k = true → Machine.exec (.fset o) s = .next { s with retry := true }) ∧
    (isPerchCtx k = false → h.2.remoteHandle h.1 = true →
      let dev := handleDevice h.1
      (h.2.linkRoom dev 0 = false → ∀ i ∈ [Instr.fpoll o, .frefa o], Machine.exec i s = .next { s with retry := true }) ∧
      (h.2.linkRoom dev 0 = true → Machine.exec (.fpoll o) s =
        .next (((h.2.pendD k o.d 1).sendRequest k dev 0 0#64 (.fpoll (destReg o.d)) (.future (.poll h.1))).advance k o.len)) ∧
      (h.2.linkRoom dev 0 = true → heldOf hs h.1 ≠ 0 → Machine.exec (.frefa o) s =
        .next (((h.2.setHoldings key hs).sendRequest k dev 0 0#64 (.future (.add h.1) none o.len) (.future (.add h.1))).modThread
          k (fun x => { x with status := .asking }))) ∧
      (h.2.remotePending k = false → (h.2.releasePkg core).linkRoom dev 0 = true →
        let op : FutOp := if h.2.ownFuture k h.1 then .finish h.1 .ok (th.quad o.b)
          else if heldOf hs h.1 ≠ 0 then .set h.1 (th.quad o.b)
          else .check h.1 false .illegalOperand
        Machine.exec (.fset o) s = .next (((h.2.releasePkg core).sendRequest k dev 0 0#64 (.future op (destReg o.d) o.len)
          (.future op)).modThread k (fun x => { x with status := .asking }))))) ∧
  (∀ (s s2 : State) (k ix : Nat) (th : Thread) (n : BitVec 3) (o : Opnds) (bs : List Byte), Acts s k th →
    isPerchCtx k = false → s.taskReclaimed k = false → s.acquirePending k = false →
    let a := s.read64 k o.a
    let b := if n = 0#3 then (0#64, a.2) else a.2.read64 k o.b
    let die := dieOfThread k
    let fspawn (t : State) : Prop := Machine.exec (.fspawn n o) s = .next t
    (a.1.toNat % 64 ≠ 0 → fspawn (s.takeTrap k .misaligned a.1)) ∧
    (a.1.toNat % 64 = 0 → b.1.toNat % 8 ≠ 0 → fspawn (s.takeTrap k .misaligned b.1)) ∧
    (a.1.toNat % 64 = 0 → b.1.toNat % 8 = 0 → Loaded k b.2 (pieces a.1 8 8 ++ pieces b.1 n.toNat 8) bs s2 →
      let after := (List.range n.toNat).map (fun i => BitVec.ofNat 64 (fieldAt bs (64 + 8 * i) 8))
      let key := s2.taskKey k
      let hs := s2.holdings key
      (∀ h ∈ after, s2.remoteHandle h = false) →
      ((∃ h ∈ after, s2.future h = none) → fspawn (s.takeTrap k .handleStale 0#64)) ∧
      ((∀ h ∈ after, s2.future h ≠ none) →
        (16 ≤ hs.length → fspawn (s.takeTrap k .budgetExceeded 0#64)) ∧
        (hs.length < 16 → (∃ h ∈ after, ∃ f, s2.future h = some f ∧ 2 ^ 24 - 1 < f.count + after.count h) →
          fspawn (s.takeTrap k .illegalOperand 0#64)) ∧
        (hs.length < 16 → (∀ h ∈ after, ∀ f, s2.future h = some f → f.count + after.count h ≤ 2 ^ 24 - 1) →
          let v := ((s2.releasePkg (coreOfThread k)).takeAfters after).setHoldings key (hs ++ [(0#64, 1)])
          let u := v.choose 65536
          ((v.die die).spawns = [] → (v.die die).freeFrom u.1 = some ix →
            let t := u.2.createTask die ix (bs.take 64) after false k
            fspawn (sends (t.2.setHoldings (v.taskKey k) (holdMore
              ((t.2.holdings (v.taskKey k)).eraseP (fun p => p.1 == 0#64)) t.1 1)) k o
              [BitVec.ofNat 32 t.1.toNat, BitVec.ofNat 32 (t.1.toNat / 2 ^ 32)])) ∧
          ((v.die die).spawns ≠ [] ∨ (v.die die).freeFrom u.1 = none → fspawn (((v.modDie die (fun d => { d with
            spawns := d.spawns ++ [⟨k, destReg o.d, bs.take 64, after, v.taskKey k⟩] })).pendD k o.d 2).advance k o.len)))))) ∧
  (∀ (s : State) (die ix : Nat) (w : WaitingSpawn) (ws : List WaitingSpawn), (s.die die).spawns = w :: ws →
    let u := s.choose 65536
    (s.die die).freeFrom u.1 = some ix →
    let t := (u.2.modDie die (fun d => { d with spawns := ws })).createTask die ix w.record w.after false w.thread
    Machine.exec (.fspawnEntryGranted die) s = .next ((t.2.setHoldings w.launch (holdMore
      ((t.2.holdings w.launch).eraseP (fun p => p.1 == 0#64)) t.1 1)).deliverOpt w.thread w.d (handleWords t.1))) ∧
  (∀ (s : State) (k r tok len : Nat) (h : DWord) (rd : BitVec 8) (th : Thread), s.thread? k = some th →
    th.status = .fwait h (.gpr rd) tok len → s.stopping k = false → s.remoteHandle h = false →
    let lands (c : Code) (words : List Word) : Prop := s.taskReclaimed k = false → th.depth = 0 →
      cellsWf th.regs 0#32 = true → rd.toNat = r → r + 4 ≤ 240 → tok < r →
      ∃ t th', Machine.exec (.fwaitLands k) s = .next t ∧ t.thread? k = some th' ∧ th'.status = .ready ∧
        th'.pc = th.pc + BitVec.ofNat 64 len ∧ th'.reg tok = codeWord c ∧ ∀ i w, words[i]? = some w → th'.reg (r + i) = w
    (th.got = none → s.future h ≠ none → Machine.exec (.fwaitLands k) s = .next s) ∧
    (th.got = none → s.future h = none → lands .handleStale [0#32, 0#32, 0#32, 0#32]) ∧
    ∀ c words far, th.got = some (c, words, far) → words.length = 4 → lands c words) ∧
  ∀ (s : State) (k : Nat) (th : Thread) (h : DWord) (d : Dest) (tok len : Nat) (f : Fut) (c : Code) (a1 a2 a3 a4 : Word),
    s.thread? k = some th → th.status = .fwait h d tok len → s.futEntry h = some f → f.state ≠ .resolved →
    f.reclaimed = false → f.notes = [] → s.futWaits = [] →
    (s.resolveFut h c [a1, a2, a3, a4]).2.thread? k = some { th with
      got := some (c, if c = .ok then [a1, a2, a3, a4] else [0#32, 0#32, 0#32, 0#32], f.far) }

/-! ### Supervisor instructions and collectives (R171-R177, R280, R297-R306, R411-R417) -/

/-- R297-R301, R306: FREPLAY and FCANCEL consume a waiting record and answer ILLEGAL_OPERAND where there is none; TLBINV
drops the translations it names, TLBINV.all all of them, TLBINV.root also sets the root, each after its release, before its
traps too; a fill window opens once no group is resident on its die and closes at WSCLOSE. Each begins with a release,
where its rule says so. A WSCLOSE of a window that is still OPENING is the model's reading, log entry 120. -/
def Obligations.RecordsTranslationsWindows : Prop :=
  (∀ (s : State) (k : Nat) (th : Thread) (o : Opnds), Acts s k th →
    let d := dieOfThread k
    let core := coreOfThread k
    let a := s.read32 k o.a
    let v := s.read64 k o.a
    let u := a.2.releasePkg core
    let answer (t : State) (c : Code) : State := sends t k o [codeWord c]
    (2 ^ 10 ≤ a.1.toNat → ∀ i ∈ [Instr.freplay o, .fcancel o],
      Machine.exec i s = .next (s.takeTrap k .illegalOperand 0#64)) ∧
    (a.1.toNat < 2 ^ 10 →
      ((u.die d).records.any (fun r => r.index == a.1.toNat) = false → ∀ i ∈ [Instr.freplay o, .fcancel o],
        Machine.exec i s = .next (answer u .illegalOperand)) ∧
      ((u.die d).records.any (fun r => r.index == a.1.toNat) = true →
        Machine.exec (.freplay o) s = .next (answer (u.consumeRecords d false [a.1.toNat]) .ok) ∧
        Machine.exec (.fcancel o) s = .next (answer (u.consumeRecords d true [a.1.toNat]) .ok))) ∧
    (let w := s.releasePkg core
     Machine.exec (.freplayAll o) s = .next (answer (w.consumeRecords d false ((w.die d).records.map (·.index))) .ok) ∧
     Machine.exec (.fcancelAll o) s = .next (answer (w.consumeRecords d true ((w.die d).records.map (·.index))) .ok)) ∧
    (2 ^ 55 ≤ v.1.toNat → Machine.exec (.tlbinv o) s = .next ((s.releasePkg core).takeTrap k .protection v.1)) ∧
    (v.1.toNat < 2 ^ 55 → (v.2.releasePkg core).remoteBusy = false → ∃ t : State,
      Machine.exec (.tlbinv o) s = .next (answer t.retryOutside .ok) ∧ ∀ x ∈ t.allTlb, x.covers v.1 = false) ∧
    ((s.releasePkg core).remoteBusy = false → ∃ t : State,
      Machine.exec (.tlbinvAll o) s = .next (answer t.retryOutside .ok) ∧ t.allTlb = []) ∧
    (v.1.toNat % 65536 ≠ 0 → Machine.exec (.tlbinvRoot o) s = .next ((s.releasePkg core).takeTrap k .misaligned v.1)) ∧
    (v.1.toNat % 65536 = 0 → homeDie v.1.toNat = none ∨ s.backed v.1.toNat = false →
      Machine.exec (.tlbinvRoot o) s = .next ((s.releasePkg core).takeTrap k .illegalOperand 0#64)) ∧
    (v.1.toNat % 65536 = 0 → homeDie v.1.toNat ≠ none → s.backed v.1.toNat = true → (v.2.releasePkg core).remoteBusy = false → ∃ t : State,
      Machine.exec (.tlbinvRoot o) s = .next (answer t.retryOutside .ok) ∧ t.allTlb = [] ∧ t.root = some v.1.toNat) ∧
    (4 ≤ a.1.toNat → ∀ i ∈ [Instr.wsopen o, .wsclose o],
      Machine.exec i s = .next (s.takeTrap k .illegalOperand 0#64)) ∧
    (a.1.toNat < 4 →
      ((a.2.die a.1.toNat).window = .open → Machine.exec (.wsopen o) s = .next (answer a.2 .ok)) ∧
      ((a.2.die a.1.toNat).window ≠ .open → Machine.exec (.wsopen o) s =
        .next (((a.2.modDie a.1.toNat (fun x => { x with window := .opening, windowWaits := x.windowWaits ++ [(k, o.d)] })).pendD
          k o.d 1).advance k o.len)) ∧
      ((u.die a.1.toNat).window = .closed → Machine.exec (.wsclose o) s = .next (answer u .ok)) ∧
      ((u.die a.1.toNat).window ≠ .closed → ∃ t : State, Machine.exec (.wsclose o) s = .next (answer t .ok) ∧
        (t.die a.1.toNat).window = .closed))) ∧
  ∀ (s : State) (d k : Nat) (dest : Dest), (s.die d).windowWaits = [(k, dest)] →
    (s.groups.any (fun g => dieOfCore g.2.core == d) = true → Machine.exec (.wsWindowOpen d) s = .next s) ∧
    (s.groups.any (fun g => dieOfCore g.2.core == d) = false → Machine.exec (.wsWindowOpen d) s =
      .next ((s.modDie d (fun x => { x with window := .open, windowWaits := [] })).deliverCode k (destReg dest) .ok))

namespace Sys2Proof.Claims

/-- The pieces of `n` bytes from an address on, one for each page of 64 KiB; the fuel counts pages. -/
def stretchPieces (va : DWord) (n : Nat) : Nat → List (DWord × Nat)
  | 0 => []
  | f + 1 =>
    let m := min n (65536 - va.toNat % 65536)
    if n = 0 then [] else (va, m) :: stretchPieces (va + BitVec.ofNat 64 m) (n - m) f

/-- The pieces of a stretch. -/
def stretch (va : DWord) (n : Nat) : List (DWord × Nat) := stretchPieces va n (n / 65536 + 2)

/-- Every piece translates for writing by the buffer, to memory of this package; the state after the lookups. -/
def Writable (k : Nat) (s : State) (l : List (DWord × Nat)) (s' : State) : Prop :=
  match l with
  | [] => s' = s
  | (va, _) :: l => ∃ e pa s1, GlobalAccess s k va .write 0 false false e pa s1 ∧ homeDie pa ≠ none ∧ Writable k s1 l s'

/-- The bytes of every piece, read by the part where the buffer's translations lead, and the state after them. -/
def AreaRead (k : Nat) (s : State) (l : List (DWord × Nat)) (bs : List Byte) (s' : State) : Prop :=
  match l with
  | [] => bs = [] ∧ s' = s
  | (va, n) :: l => ∃ e pa s1 rest, GlobalAccess s k va .read 0 false false e pa s1 ∧ homeDie pa ≠ none ∧
      bs = (s1.partReadKey (some (pteKey e)) pa n).1 ++ rest ∧
      AreaRead k (s1.partReadKey (some (pteKey e)) pa n).2 l rest s'

/-- Bytes rounded up to a multiple of 256. -/
def up256 (n : Nat) : Nat := (n + 255) / 256 * 256

/-- The image at an address (R173): header and records, the scratchpad after them, and how many bytes it takes. -/
def ImageRead (k : Nat) (s : State) (va : DWord) (x : Image) (size : Nat) (s' : State) : Prop :=
  ∃ hb n s1 bs, AreaRead k s (stretch va 640) hb s1 ∧ headerSize hb = some n ∧
    (let sp := fieldAt hb 0x18 4
     sp ≤ 2 ^ 21 ∧ size = (if sp = 0 then up256 n else up256 (up256 n + sp)) ∧
     x = ⟨bs.take n, if sp = 0 then [] else (bs.drop (up256 n)).take sp⟩) ∧ AreaRead k s1 (stretch va size) bs s'

/-- The images of a family, one after another: every one but the last says that more follow. -/
def ImagesRead (k : Nat) (s : State) (va : DWord) (l : List Image) (s' : State) : Prop :=
  match l with
  | [] => False
  | x :: xs => ∃ size s1, ImageRead k s va x size s1 ∧
      ((xs = [] ∧ x.more = false ∧ s' = s1) ∨
        (xs ≠ [] ∧ x.more = true ∧ ImagesRead k s1 (va + BitVec.ofNat 64 size) xs s'))

/-- The latches of a thread are invalid. -/
def Unlatched (th : Thread) : Prop :=
  th.l0.valid = false ∧ th.l1.valid = false ∧ th.l2.valid = false ∧ th.l3.valid = false

end Sys2Proof.Claims

/-- R173-R177, R178: CTXSAVE of another family begins its stop, once every page of its area translates and no engine operation
of it is parked; CTXLOAD restores the images that it reads and answers with the restore's code; HALT stops another core of
the die, and its D receives CORESTAT, HALTED and QUIESCENT, once the core is still; HALT.resume answers CORESTAT at once,
and the threads that the halt had stopped go on with invalid latches. What a CTXSAVE answers about a family that another
CTXSAVE is stopping, and that HALT.resume refuses the issuing thread's own core, are the model's choices, log entries 145
and 146. -/
def Obligations.ContextsAndHalts : Prop :=
  (∀ (s s1 : State) (k : Nat) (th : Thread) (g : Group) (o : Opnds), Acts s k th →
    let a := s.read64 k o.a
    let b := a.2.read32 k o.b
    let gk := groupKey (256 * dieOfThread k + b.1.toNat % 256) (b.1.toNat / 256 % 64)
    (a.1.toNat % 256 ≠ 0 → ∀ i ∈ [Instr.ctxsave o, .ctxload o], Machine.exec i s = .next (s.takeTrap k .misaligned a.1)) ∧
    (a.1.toNat % 256 = 0 → 2 ^ 14 ≤ b.1.toNat ∨ s.group? gk = none →
      Machine.exec (.ctxsave o) s = .next (s.takeTrap k .illegalOperand 0#64)) ∧
    (a.1.toNat % 256 = 0 → 2 ^ 8 ≤ b.1.toNat → Machine.exec (.ctxload o) s = .next (s.takeTrap k .illegalOperand 0#64)) ∧
    (a.1.toNat % 256 = 0 → b.1.toNat < 2 ^ 14 → s.group? gk = some g →
      let own := (s.groupOf k).any (fun m => m.launch == g.launch && m.family == g.family)
      (own = true → Machine.exec (.ctxsave o) s = .next (s.takeTrap k .illegalOperand 0#64)) ∧
      (own = false → s.slicesRecorded g = true → Machine.exec (.ctxsave o) s = .next (s.takeTrap k .barrierOverrun 0#64)) ∧
      (own = false → s.slicesRecorded g = false → Writable k b.2 (stretch a.1 (familySize (s.familyOf g))) s1 →
        (∀ c, s1.familyParked (s.familyOf g) = some c → Machine.exec (.ctxsave o) s = .next (sends s1 k o [codeWord c])) ∧
        (s1.familyParked (s.familyOf g) = none → g.stop ≠ .running →
          Machine.exec (.ctxsave o) s = .next (sends s1 k o [codeWord .illegalOperand])) ∧
        (s1.familyParked (s.familyOf g) = none → g.stop = .running →
          Machine.exec (.ctxsave o) s = .next (((s1.pendD k o.d 1).beginStop g (.save k o.d a.1)).advance k o.len))))) ∧
  (∀ (s s1 : State) (k : Nat) (th : Thread) (o : Opnds), Acts s k th →
    let a := s.read64 k o.a
    let b := a.2.read32 k o.b
    let core := 256 * dieOfThread k + b.1.toNat
    let u := b.2.wcSendIf (coreOfThread k) (fun _ => true)
    a.1.toNat % 256 = 0 → b.1.toNat < 2 ^ 8 →
    (∀ hb, AreaRead k u (stretch a.1 640) hb s1 → headerSize hb = none ∨ 2 ^ 21 < fieldAt hb 0x18 4 →
      Machine.exec (.ctxload o) s = .next (sends s1 k o [codeWord .illegalOperand])) ∧
    (∀ x xs c s2, ImagesRead k u a.1 (x :: xs) s1 → xs.length ≤ 64 → s1.restoreFamily core (x :: xs) = (c, s2) →
      (c ≠ .ok → Machine.exec (.ctxload o) s = .next (sends s2 k o [codeWord c])) ∧
      (c = .ok → ∀ l, s1.launchNamed x = some l → Machine.exec (.ctxload o) s =
        .next (sends (s2.modLaunch l.1 (fun y => { y with savedOut := y.savedOut - 1 })) k o [0#32])))) ∧
  (∀ (s : State) (k : Nat) (th : Thread) (o : Opnds), Acts s k th →
    let a := s.read32 k o.a
    let core := 256 * dieOfThread k + a.1.toNat
    (2 ^ 8 ≤ a.1.toNat ∨ core = coreOfThread k → ∀ i ∈ [Instr.halt o, .haltResume o],
      Machine.exec i s = .next (s.takeTrap k .illegalOperand 0#64)) ∧
    (a.1.toNat < 2 ^ 8 → core ≠ coreOfThread k →
      (∃ u : State, Machine.exec (.halt o) s = .next ((u.settleHalts core).advance k o.len) ∧
        (u.core core).halted = true ∧
        ((a.2.core core).halts = [] → (u.core core).halts = [(k, o.d)]) ∧
        ∀ t' th', u.thread? t' = some th' → coreOfThread t' = core → threadOnLC t' = false → th'.status = .ready →
          u.midRun t' th' = false → u.mayIssue t' th' = false) ∧
      ((a.2.core core).halted = false → (a.2.core core).halts = [] → Machine.exec (.haltResume o) s =
        .next (sends (a.2.modCore core (fun c => { c with halted := false, halts := [] })) k o
          [(a.2.modCore core (fun c => { c with halted := false, halts := [] })).corestat core])) ∧
      ∃ t : State, Machine.exec (.haltResume o) s = .next t ∧ (t.core core).halted = false ∧
        ((a.2.core core).halted = true → ∀ k' th1 th0, (k', th1) ∈ a.2.threadsOnCore core → k' ≠ k →
          a.2.thread? k' = some th0 → a.2.midRun k' th0 = false ∨ (th0.status = .withdrawn ∧ a.2.stopping k' = false) →
          ∃ th', t.thread? k' = some th' ∧ Unlatched th' ∧
            (th0.status = .withdrawn → a.2.stopping k' = false → th'.status = .ready)))) ∧
  (∀ (s : State) (core : Nat),
    ((s.core core).halts = [] ∨ s.haltReady core = false → s.settleHalts core = s) ∧
    ∀ (k : Nat) (r : BitVec 8) (th : Thread), core < 1024 → (s.core core).halts = [(k, .gpr r)] → r.toNat < 240 →
      s.haltReady core = true → s.thread? k = some th → th.status ≠ .exited → cellsWf th.regs 0#32 = true →
      ∃ th', (s.settleHalts core).thread? k = some th' ∧ (th'.reg r.toNat).toNat / 2 % 2 = 1 ∧
        ((s.engineWork core).1 = false → (th'.reg r.toNat).toNat % 2 = 1) ∧ r.toNat ∉ th'.pending ∧
        ((s.settleHalts core).core core).halts = []) ∧
  ∀ (s : State) (core : Nat), core < 1024 →
    ∃ u : State, Machine.exec (.issueCycle (4 * core + (s.core core).turn % 4)) s = .next (u.settleHalts core) ∨
      (4 ≤ (s.core core).turn ∧ Machine.exec (.issueCycle (4 * core + (s.core core).turn % 4)) s = .next s)

/-- R402, R411-R416: the collectives: a GID above 4,095 traps; RED sends its contribution to the spine of its group, where it
joins the open round and completes one that it gives its count, or ends REDUCE_GROUP_INVALID where there is no group of its type and operation; RGRP asks the spine
to create a group or find it as it is, RGRP.free to end its round and free it; a round with its count combines its values,
one that is late ends REDUCE_SHORT; MCAST stores to every member of its group and lands once all have answered. Value
and token land with the answer. That the spines stand in the state, values of other devices coming with the close of a
round, is log entry 116; that a time-out is an event, and which code MCAST lands, log entry 118. -/
def Obligations.Collectives : Prop :=
  (∀ (s : State) (k : Nat) (th : Thread) (ty : RedType) (op : RedOp) (tok : BitVec 8) (w64 : Bool) (o : Opnds), Acts s k th →
    s.acquirePending k = false →
    let a := s.read32 k o.a
    let gid := a.1.toNat
    let core := coreOfThread k
    let asks (u : State) (peer : Nat) (i : Instr) (kind : RemoteKind) (f : FabOp) : Prop :=
      Machine.exec i s = .next ((u.sendRequest k peer 2 0#64 kind f).advance k o.len)
    let invalid (u : State) (i : Instr) : Prop := Machine.exec i s = .next ({ u with landings := u.landings ++
      [(⟨k, destReg o.d, [codeWord .reduceGroupInvalid], none, some (u.planeOfGroup gid, gid), none⟩ : Landing)] }.advance k o.len)
    (4096 ≤ gid → ∀ i ∈ [Instr.red ty op tok o, .rgrp ty op o, .rgrpMc o, .rgrpFree o, .mcast w64 o],
      Machine.exec i s = .next (s.takeTrap k .illegalOperand 0#64)) ∧
    (gid < 4096 → s.remotePending k = true ∨ s.linkRoom (s.groupPeer gid) 2 = false →
      ∀ i ∈ [Instr.red ty op tok o, .rgrp ty op o, .rgrpMc o, .rgrpFree o], Machine.exec i s = .next { s with retry := true }) ∧
    (gid < 4096 → s.remotePending k = false → s.linkRoom (s.groupPeer gid) 2 = true →
      (let v := a.2.read k ty.is64 false 0#64 o.b
       let u := ((v.2.releasePkg core).pendD k o.d (rn ty.is64)).modThread k (·.pend tok.toNat 1)
       asks u (u.groupPeer gid) (.red ty op tok o) (.red (destReg o.d) tok.toNat (rn ty.is64)) (.red gid ty op v.1)) ∧
      (let n := a.2.read32 k o.b
       let w := n.2.read32 k o.c
       let u := (w.2.releasePkg core).pendD k o.d 1
       (n.1 = 0#32 ∨ 8192 < n.1.toNat ∨ 1000000 < w.1.toNat → invalid u (.rgrp ty op o)) ∧
       (n.1 ≠ 0#32 → n.1.toNat ≤ 8192 → w.1.toNat ≤ 1000000 →
         asks u (u.groupPeer gid) (.rgrp ty op o) (.rgrp (destReg o.d) gid (u.planeOfGroup gid))
           (.rgrp gid (some (.reduction ty op n.1.toNat (if w.1 = 0#32 then 10000 else w.1.toNat)))))) ∧
      (let n := a.2.read32 k o.b
       let p := n.2.read64 k o.c
       (p.1.toNat % 2 ≠ 0 → Machine.exec (.rgrpMc o) s = .next (a.2.takeTrap k .misaligned p.1)) ∧
       (p.1.toNat % 2 = 0 → n.1 = 0#32 ∨ 8192 < n.1.toNat → invalid ((p.2.releasePkg core).pendD k o.d 1) (.rgrpMc o)) ∧
       (∀ bs s1, p.1.toNat % 2 = 0 → n.1 ≠ 0#32 → n.1.toNat ≤ 8192 → Loaded k p.2 (pieces p.1 n.1.toNat 2) bs s1 →
         bs.length = 2 * n.1.toNat →
         let ds := (List.range n.1.toNat).map (fun i => fieldAt bs (2 * i) 2)
         let u := (s1.releasePkg core).pendD k o.d 1
         (ds.Nodup ∧ (∀ d ∈ ds, d ≤ 8191) → asks u (u.groupPeer gid) (.rgrpMc o)
           (.rgrp (destReg o.d) gid (u.planeOfGroup gid)) (.rgrp gid (some (.multicast ds 0)))) ∧
         (¬ (ds.Nodup ∧ ∀ d ∈ ds, d ≤ 8191) → invalid u (.rgrpMc o)))) ∧
      (let u := (a.2.releasePkg core).pendD k o.d 1
       asks u (u.groupPeer gid) (.rgrpFree o) (.rgrp (destReg o.d) gid (u.planeOfGroup gid)) (.rgrp gid none))) ∧
    (gid < 4096 →
      let b := a.2.read64 k o.b
      let v := b.2.read k w64 false 0#64 o.c
      ∀ e pa s1, GlobalAccess v.2 k b.1 .write (if w64 then 8 else 4) false false e pa s1 →
        ((∀ ap, placeOf pa ≠ .aperture ap) → Machine.exec (.mcast w64 o) s =
          .next (s1.parkThread k b.1 th.pc .protection .write (s1.dataLevel k b.1) e)) ∧
        ∀ ap, placeOf pa = .aperture ap →
          (s1.spineDown gid = true → Machine.exec (.mcast w64 o) s = .next (sends s1 k o [codeWord .fabricUnreachable])) ∧
          (s1.spineDown gid = false → (∀ g, AMap.get? s1.cgroups gid = some g → ∃ ty' op' n w, g.kind = .reduction ty' op' n w) →
            Machine.exec (.mcast w64 o) s = .next (sends s1 k o [codeWord .reduceGroupInvalid])) ∧
          ∀ ms w g, AMap.get? s1.cgroups gid = some g → g.kind = .multicast ms w → s1.spineDown gid = false →
            Machine.exec (.mcast w64 o) s = .next (s1.mcastTo k gid ms o (apertureTarget (s1.aperture ap) pa)
              (leBytes v.1.toNat (if w64 then 8 else 4))))) ∧
  (∀ (s : State) (k gid : Nat) (ms : List Nat) (o : Opnds) (pa : Nat) (bs : List Byte),
    ((∃ d ∈ ms, d ≠ s.device.toNat ∧ s.linkRoom d 0 = false) → s.mcastTo k gid ms o pa bs = { s with retry := true }) ∧
    ((∀ d ∈ ms, d ≠ s.device.toNat → s.linkRoom d 0 = true) → (s.device.toNat ∈ ms → s.awaitsDie pa = false) →
      let own := if s.device.toNat ∈ ms then s.outStore pa bs else (.ok, s)
      let u := own.2.pendD k o.d 1
      let r : Remote := ⟨u.nextOp, k, s.device.toNat, 0#64, 0#64, .mcast (destReg o.d) gid own.1⟩
      s.mcastTo k gid ms o pa bs = ((ms.filter (fun d => d != s.device.toNat)).foldl (fun (t : State) d =>
        t.sendPacket d 0 u.nextOp (.store pa bs.length (BitVec.ofNat 128 (leNat bs))))
          { u with nextOp := u.nextOp + 1, remotes := u.remotes ++ [r] }).advance k o.len)) ∧
  (∀ (s : State) (p : Packet) (gid : Nat), p.cls = 2 → 8192 ≤ p.dst →
    (∀ g, AMap.get? s.cgroups gid = some g → s.groupPeer gid = 8192 + 72 * g.plane + gid / 18 % 72) ∧
    (∀ ty op v, p.op = .red gid ty op v →
      let x : Contribution := ⟨p.src, p.srcInc, p.tag, v⟩
      (∀ g n w, AMap.get? s.cgroups gid = some g → g.kind = .reduction ty op n w →
        let t : State := { s with cgroups := AMap.set s.cgroups gid { g with round := g.round ++ [x] } }
        let f := t.redFold ty op ((g.round ++ [x]).map (·.value)) n
        (g.round.length + 1 < n → s.performPacket p = some t) ∧
        (g.round.length + 1 = n → s.performPacket p = some ({ f.2 with
          cgroups := AMap.set f.2.cgroups gid ({ g with round := [] } : CGroup) }.landRound (g.round ++ [x]) f.1 .ok))) ∧
      ((∀ g n w, AMap.get? s.cgroups gid = some g → g.kind ≠ .reduction ty op n w) →
        s.performPacket p = some (s.landRound [x] 0#64 .reduceGroupInvalid))) ∧
    (∀ kind, p.op = .rgrp gid kind → p.src = s.device.toNat → p.srcInc = s.incarnation.toNat →
      ∀ (r : Remote) (reg : Option Nat) (plane : Nat), s.remotes = [r] → r.tag = p.tag → r.kind = .rgrp reg gid plane →
      let lands (u : State) (c : Code) : Prop := s.performPacket p = some { u with
        remotes := [], landings := u.landings ++ [(⟨r.thread, reg, [codeWord c], none, some (plane, gid), none⟩ : Landing)] }
      (AMap.get? s.cgroups gid = none →
        (kind = none → lands s .reduceGroupInvalid) ∧
        (∀ y, kind = some y → lands { s with cgroups := AMap.set s.cgroups gid ⟨y, s.planeOfGroup gid, []⟩ } .ok)) ∧
      (∀ g, AMap.get? s.cgroups gid = some g →
        (∀ y, kind = some y → lands s (if g.kind = y then .ok else .reduceGroupInvalid)) ∧
        (kind = none → lands { s with cgroups := AMap.erase (AMap.set s.cgroups gid { g with round := [] }) gid } .ok ∨
          g.round ≠ [])))) ∧
  (∀ (s : State) (x : Contribution) (v : DWord) (c : Code),
    (x.src ≠ s.device.toNat ∨ x.inc ≠ s.incarnation.toNat → s.landRound [x] v c = s) ∧
    ∀ (r : Remote) (reg tok n : Nat) (th : Thread), x.src = s.device.toNat → x.inc = s.incarnation.toNat → s.remotes = [r] →
      r.tag = x.tag → r.kind = .red (some reg) tok n → s.thread? r.thread = some th → th.status ≠ .exited →
      cellsWf th.regs 0#32 = true → reg + n ≤ 240 → tok < 240 → tok < reg ∨ reg + n ≤ tok →
      ∃ th', (s.landRound [x] v c).thread? r.thread = some th' ∧ (s.landRound [x] v c).remotes = [] ∧
        th'.reg tok = codeWord c ∧ ∀ i, i < n → (th'.reg (reg + i)).toNat = v.toNat / 2 ^ (32 * i) % 2 ^ 32) ∧
  (∀ (s : State) (gid : Nat) (g : CGroup) (ty : RedType) (op : RedOp) (n w : Nat) (others : List DWord),
    AMap.get? s.cgroups gid = some g → g.kind = .reduction ty op n w →
    (others.length < n → n - others.length ≤ g.round.length →
      let mine := g.round.take (n - others.length)
      let f := s.redFold ty op (mine.map (·.value) ++ others) n
      Machine.exec (.redRoundClose gid others) s = .next ({ f.2 with
        cgroups := AMap.set f.2.cgroups gid ({ g with round := g.round.drop (n - others.length) } : CGroup) }.landRound mine
          f.1 .ok)) ∧
    (n ≤ others.length ∨ g.round.length < n - others.length → Machine.exec (.redRoundClose gid others) s = .next s) ∧
    (n ≤ g.round.length → Machine.exec (.redRoundTimeout gid) s = .next s) ∧
    (g.round.length < n → Machine.exec (.redRoundTimeout gid) s =
      .next ({ s with cgroups := AMap.set s.cgroups gid { g with round := [] } }.landRound g.round 0#64 .reduceShort))) ∧
  (∀ (s : State) (gid : Nat), (∀ g, AMap.get? s.cgroups gid = some g → ∃ ms w, g.kind = .multicast ms w) →
    (∀ others, Machine.exec (.redRoundClose gid others) s = .next s) ∧ Machine.exec (.redRoundTimeout gid) s = .next s) ∧
  (∀ (s : State) (ty : RedType) (op : RedOp) (v w : DWord) (m : Nat), s.redFold ty op [v] m = (v, s) ∧
    ((s.redFold ty op [v, w] (m + 1)).1 = redCombine ty op v w ∨ (s.redFold ty op [v, w] (m + 1)).1 = redCombine ty op w v)) ∧
  (∀ (s : State) (tag k gid : Nat) (reg : Option Nat) (first : Code) (codes : List Code) (r : Remote),
    (∀ p ∈ s.sendChans, ∀ q ∈ p.2.unacked, q.cls = 0 → q.tag ≠ tag) → s.remotes.find? (fun x => x.tag == tag) = some r →
    r.kind = .mcast reg gid first → r.thread = k →
    Machine.exec (.mcastLands tag codes) s = .next ({ s with remotes := s.remotes.filter (fun x => x.tag != tag) }.deliverCode
      k reg (((first :: codes).find? (fun c => c != Code.ok)).getD Code.ok))) ∧
  (∀ (op : RedOp) (a b : DWord), op = .add ∨ op = .min ∨ op = .max →
    let combined (f : FFmt) (x y z : Nat) : Prop :=
      if op = .add then RoundedSum f x y z else z = extremum f (op == .max) x y
    (let r := (redCombine .f32 op a b).toNat
     r < 2 ^ 32 ∧ combined fF32 (a.toNat % 2 ^ 32) (b.toNat % 2 ^ 32) r) ∧
    combined fF64 a.toNat b.toNat (redCombine .f64 op a b).toNat ∧
    (let r := (redCombine .bf16x2 op a b).toNat
     r < 2 ^ 32 ∧ combined fBf16 (a.toNat % 2 ^ 16) (b.toNat % 2 ^ 16) (r % 2 ^ 16) ∧
     combined fBf16 (a.toNat / 2 ^ 16 % 2 ^ 16) (b.toNat / 2 ^ 16 % 2 ^ 16) (r / 2 ^ 16))) ∧
  ∀ (ty : RedType) (op : RedOp) (a b : DWord), ty = .n32 ∨ ty = .n64 ∨ ty = .i32 ∨ ty = .i64 →
    let w := if ty.is64 then 64 else 32
    let x := a.toNat % 2 ^ w
    let y := b.toNat % 2 ^ w
    let at_ (v : Nat) : Nat := if ty = .i32 ∨ ty = .i64 then (v + 2 ^ (w - 1)) % 2 ^ w else v
    (redCombine ty op a b).toNat = match op with
      | .add => (x + y) % 2 ^ w
      | .min => if at_ x ≤ at_ y then x else y
      | .max => if at_ x ≤ at_ y then y else x
      | .and => x &&& y
      | .or => x ||| y
      | .xor => x ^^^ y

/-! ### What happens of itself (R154-R168, R283-R300, R329-R337, R344, R368-R376, R419) -/

namespace Sys2Proof.Claims

/-- What comes before a quarter of a core finds its candidates (R154): its turn and some time pass, CONV holds with nobody left
to wait for end, in quarter 0 the banks serve, and its threads fetch their words; with those threads. -/
def prepared (s : State) (core q : Nat) : List Nat × State :=
  let ts := ((s.threadsOnCore core).filter (fun p => p.2.tid / 32 % 4 == q)).map (·.1)
  let s := ts.foldl State.endConv (s.modCore core (fun c => { c with turn := (q + 1) % 4 })).passTime
  let s := if q = 0 then (s.pmc core 0x01 1 none).serveBanks core else s
  (ts, ts.foldl State.prepare (s.modCore core (fun c => (c.tickUnits q).closeIssue q)))

/-- The same for the contexts of a latency core. -/
def lcPrepared (s : State) (lc : Nat) : State :=
  ((List.range 4).map (lcThreadKey lc)).foldl State.prepare (s.passTime.pmc (1024 + lc) 0x01 1 none)

end Sys2Proof.Claims

/-- R54, R154-R156, R283, R289, R291, R295, R310, R368, R373, R376: the quarters of a core take their cycles in turn, and a
cycle lets at most one thread of each lane of its quarter issue, each a thread of the quarter at one of two PCs, an aged
one first; a latency core's cycle lets its contexts issue; the oldest walk makes its thread ready; buffers send, regions
merge, forwarded stores are acknowledged in their order, the lease clock ticks, a slice wakes, and the timebase reaches its
refresh slot. The threads that issue are those that R155 picks among the quarter's candidates, at least one where there is a
candidate whose unit is free. That a quarter out of turn does nothing is the model's reading, log entry 26, and what a
refresh slot does, log entry 48. -/
def Obligations.CoreAndMemoryEvents : Prop :=
  (∀ (s : State) (unit : Nat), unit < 4096 → ∃ t go, Machine.exec (.issueCycle unit) s = .next t ∧
    t.issue = s.issue ++ go ∧ go.length ≤ 32 ∧ go.Nodup ∧
    (∀ k ∈ go, ∃ th, (k, th) ∈ s.threadsOnCore (unit / 4) ∧ th.tid / 32 % 4 = unit % 4) ∧
    (∀ k ∈ go, ∀ k' ∈ go, ∀ th th', t.thread? k = some th → t.thread? k' = some th' →
      th.tid % 32 = th'.tid % 32 → k = k') ∧
    ((s.core (unit / 4)).turn = unit % 4 →
      let p := prepared s (unit / 4) (unit % 4)
      go = (issueOf ((p.2.candidates (unit % 4) p.1).filter (·.free))).1) ∧
    ((s.core (unit / 4)).turn ≠ unit % 4 → t = s)) ∧
  (∀ (s : State) (q k : Nat) (ts : List Nat) (th : Thread), k ∈ ts → s.thread? k = some th → s.mayIssue k th = true →
    (th.pcTraps = true → ∃ x ∈ s.candidates q ts, x.thread = k ∧ x.lane = th.tid % 32 ∧ x.free = true) ∧
    (∀ w u, th.pcTraps = false → s.nextWord k th = (.ok w, u) → ∃ x ∈ s.candidates q ts, x.thread = k ∧
      x.lane = th.tid % 32 ∧ x.pc = th.pc ∧ x.wait = th.waitCount ∧ x.unit = wordUnit w (th.tid % 32))) ∧
  (∀ (s : State) (lc : Nat), ∃ t go, Machine.exec (.issueCycle (4096 + lc)) s = .next t ∧ t.issue = s.issue ++ go ∧
    go.Nodup ∧ (∀ k ∈ go, ∃ c, c < 4 ∧ k = lcThreadKey lc c) ∧
    (∀ x ∈ (lcPrepared s lc).candidates 0 ((List.range 4).map (lcThreadKey lc)), 128 ≤ x.wait → x.thread ∈ go)) ∧
  (∀ (l : List Candidate), (∀ x ∈ l, x.lane < 32) →
    (∃ sel : List Candidate, sel.map (·.thread) = (issueOf l).1 ∧ (∀ x ∈ sel, x ∈ l) ∧ (sel.map (·.lane)).Nodup ∧
      ∃ pa pb, ∀ x ∈ sel, x.pc = pa ∨ x.pc = pb) ∧
    (l ≠ [] → (issueOf l).1 ≠ []) ∧
    (l ≠ [] → ∃ x ∈ l, (∀ y ∈ l, y.pc = x.pc → ∃ z ∈ l, z.lane = y.lane ∧ z.pc = x.pc ∧ z.thread ∈ (issueOf l).1) ∧
      (∀ y ∈ l, 64 ≤ y.wait → 64 ≤ x.wait ∧ y.wait ≤ x.wait))) ∧
  (∀ (s s1 : State) (w k : Nat) (wk : Walk) (p : Walker) (th : Thread) (e : DWord) (l pa : Nat),
    (s.cluster w).walkq = [wk] → wk.parked = false → wk.parties = [p] → p.who = .thread k → s.thread? k = some th →
    th.status = .walking → (isPerchCtx k = true → (s.perch ((k - lcThreadBase) / 4)).entered = true) →
    (s.modCluster w (fun c => { c with walkq := [] })).walkFill
      (match wk.kind with
       | .fetch => .fetch (coreOfThread k)
       | .read | .write => .data (coreOfThread k))
      ⟨p.va, wk.kind, p.clean, p.sup, 8, false, coreOfThread k, false, p.classify⟩ = (.ok e l pa, s1) →
    s1.thread? k = some th → (s1.cluster w).walkq = [] → s1.perches = s.perches →
    ∃ t th', Machine.exec (.pageWalk w) s = .next t ∧ t.thread? k = some th' ∧ th' = { th with status := .ready } ∧
      t.groups = s1.groups ∧ t.cores = s1.cores ∧ (t.cluster w).walkq = []) ∧
  (∀ (s : State) (core n : Nat), n < (s.core core).wc.length →
    Machine.exec (.wcEntrySend core n) s = .next (s.wcSend core n)) ∧
  (∀ (s : State) (d slice base : Nat) (r : Region), AMap.get? (s.die d).dir (2 ^ 46 * slice + base) = some r →
    base < 2 ^ 46 → base % (2 * r.size) = 0 → AMap.get? (s.die d).dir (2 ^ 46 * slice + (base + r.size)) = some r →
    r.size < 65536 → Machine.exec (.regionMerge d (2 ^ 46 * slice + base)) s = .next (s.modDie d (fun x => { x with
      dir := AMap.set (AMap.erase x.dir (2 ^ 46 * slice + (base + r.size))) (2 ^ 46 * slice + base)
        ⟨2 * r.size, r.state⟩ }))) ∧
  (∀ (s : State) (f : Forwarded) (h : Nat), s.forwarded = [f] → homeDie (128 * f.line) = some h →
    Machine.exec (.forwardedStoreAck 0) s = .next (s.ackFirst (f.die, h))) ∧
  (∀ (s : State) (core : Nat), (s.core core).ltime ≠ 0xFFFFFF#24 →
    Machine.exec (.ltimeTick core) s = .next (s.modCore core (fun c => { c with ltime := c.ltime + 1#24 }))) ∧
  (∀ (s : State) (d i : Nat) (g : Word), AMap.get? (s.die d).asleep i = some g →
    (g = s.pcb.thawgen → Machine.exec (.sliceWake d i) s =
      .next (s.modDie d (fun x => { x with asleep := AMap.erase x.asleep i }))) ∧
    (g ≠ s.pcb.thawgen → Machine.exec (.sliceWake d i) s = .next (s.modDie d (fun x => { x with
      asleep := AMap.erase x.asleep i, l2 := thawLines (some i) x.l2, floors := AMap.erase x.floors i })))) ∧
  ∀ (s : State), s.timebase.toNat < 2 ^ 64 - 425 → ∃ t : State, Machine.exec .refreshSlot s = .next t ∧
    t = { s with timebase := t.timebase } ∧ t.timebase.toNat % 425 = 0 ∧ s.timebase.toNat < t.timebase.toNat ∧
    t.timebase.toNat ≤ s.timebase.toNat + 425

/-- R45, R162-R168, R172, R329-R337, R366-R369, R419: the dispatcher refuses a record at the first check that fails, with its
future resolved by that code; a group finds a core with room, or a less urgent family begins to stop; a stopped family
is saved; an exited group retires; the entry at HEAD of a submission ring is consumed; a lost core is fused off and the
defect map published with its signature. In what order the checks of an entry word that does not
translate come, which candidate a pre-emption serves, what a ring cut in two does, and that the map is signed in the step
of the loss are the model's readings, log entries 55, 57, 64 and 124. -/
def Obligations.DispatcherEvents : Prop :=
  (∀ (s s1 : State) (d p l b : Nat) (x : Launch), s.headOf d p = some (l, x) → x.checked = false → s.dieUp d = true →
    let refusedWith (c : Code) (t : State) : State :=
      ((t.unqueue l).futDo [.resolve x.future c [0#32, 0#32, 0#32, 0#32], .ended l]).retryAdmissions
    (x.signature ≠ 0#64 → x.signature ≠ s.pcb.defsig →
      Machine.exec (.dispatchHead d p) s = .next (refusedWith .variantNone s)) ∧
    (x.signature = 0#64 ∨ x.signature = s.pcb.defsig →
      let slots := if x.spad = 0 then 0 else x.spslots
      let bad := x.reserved = true ∨ x.gsize = 0 ∨ 1024 < x.gsize ∨ x.ngroup = 0 ∨ 2 ^ 24 < x.ngroup ∨ 64 < x.bars ∨
        x.spad % 256 ≠ 0 ∨ (x.spad ≠ 0 ∧ (x.spslots = 0 ∨ 8192 < x.spslots)) ∨ x.cbaddr.toNat % 64 ≠ 0 ∨
        2 ^ 21 < x.spbase + slots * x.spad ∨ (x.chain = false ∧ (x.clmask = 0#64 ∨ x.diemask = 0#4)) ∨
        (x.chain = true ∧ (x.chReserved = true ∨ x.chlen = 0 ∨ 1024 < x.chlen ∨ x.ngroup ≠ x.chlen ∨
          s.segment x.chstart x.chlen = none))
      (bad → Machine.exec (.dispatchHead d p) s = .next (refusedWith .illegalOperand s)) ∧
      (¬ bad →
        (∀ c, s.partGet .fetch x.entry 12 [] 2 = (.fault c, s1) → c ≠ .ok →
          Machine.exec (.dispatchHead d p) s = .next (refusedWith c s1)) ∧
        (s.partGet .fetch x.entry 12 [] 2 = (.later, s1) → Machine.exec (.dispatchHead d p) s = .next s1) ∧
        (∀ bs, s.partGet .fetch x.entry 12 [] 2 = (.bytes bs, s1) →
          let e := Entry.ofNat (leNat bs)
          let target : Prop := x.entry.toNat % 4 = 0 ∧ entryOk e .kernel = true
          let fits : Prop := entrySpad e ≤ x.spad ∧ e.bars.toNat ≤ x.bars ∧
            (x.gsize + 127) / 128 ≤ min 16 (1024 / (16 * (e.bud.toNat + 1)))
          (¬ target → Machine.exec (.dispatchHead d p) s = .next (refusedWith .illegalTarget s1)) ∧
          (target → e.sup = true → Machine.exec (.dispatchHead d p) s = .next (refusedWith .privilege s1)) ∧
          (target → e.sup = false → ¬ fits → Machine.exec (.dispatchHead d p) s = .next (refusedWith .budgetExceeded s1)) ∧
          (target → e.sup = false → fits → ∀ c s2, s1.loadBanks x = (.error (.fault c), s2) → c ≠ .ok →
            Machine.exec (.dispatchHead d p) s = .next (refusedWith c s2)) ∧
          (target → e.sup = false → fits → ∀ m s2, s1.loadBanks x = (.ok m, s2) → Machine.exec (.dispatchHead d p) s =
            .next (s2.modLaunch l (fun y => { y with
              checked := true, budget := entryBudget e, banks := m, state := .placing })))))) ∧
    (∀ m, s.checkRecord x = (⟨some .ok, b, m⟩, s1) → Machine.exec (.dispatchHead d p) s =
      .next (s1.modLaunch l (fun y => { y with checked := true, budget := b, banks := m, state := .placing })))) ∧
  (∀ (s : State) (d p l : Nat) (x : Launch) (a : Claimant), s.claimants = [a] → a.what = .front d l → a.die = d →
    a.prio = p → s.dieUp d = true → s.launch? l = some x → x.chain = false →
    let cs := a.cores.filter (s.takesGroup l x x.placed)
    let u := s.choose cs.length
    (a.ready = false → Machine.exec (.placeGroup d p) s = .next s ∧ Machine.exec (.preempt d p) s = .next s) ∧
    (a.ready = true → cs ≠ [] → Machine.exec (.placeGroup d p) s =
      .next ((u.2.placeOne l x x.placed (cs.getD u.1 0)).leaveQueue l)) ∧
    (∀ g, a.ready = true → cs = [] → s.groups.any (fun q => a.cores.contains q.2.core && q.2.stop == .preempt) = false →
      s.victim p a.cores = some g → Machine.exec (.preempt d p) s = .next (s.beginStop g .preempt))) ∧
  (∀ (s : State) (g : Group) (p : Nat) (cores : List Nat), s.victim p cores = some g →
    p < g.prio ∧ g.core ∈ cores ∧ g.stop = .running ∧ (s.core g.core).halted = false) ∧
  (∀ (s : State) (gk : Nat) (g : Group) (x : Launch), s.group? gk = some g → g.stop = .preempt →
    s.launch? g.launch = some x → s.familyStill (s.familyOf g) = true → s.launchReclaimed g.launch = false →
    s.launchFailing g.launch = false →
    let f := s.saveFamily (s.familyOf g)
    Machine.exec (.familyStopped gk) s = .next (f.2.modDie (dieOfCore g.core) (fun d => { d with
      saved := d.saved ++ [⟨g.launch, x.prio, x.admitted, g.core, x.chain && (s.familyOf g).any (fun q => !q.2.spawned),
        f.1⟩] }))) ∧
  (∀ (s : State) (gk : Nat) (g : Group), s.group? gk = some g → s.groupExited gk = true →
    let u := s.closeFor g
    u.groupDone gk g = true → (u.chain g.core).openBy g = false → Machine.exec (.groupRetire gk) s =
      .next (((((u.performGroup gk g.core).dropGroup gk g).endLaunchIfDone g.launch).retryAdmissions).serveOpens g.core)) ∧
  (∀ (s s1 : State) (d : Nat) (e : List Byte) (base : DWord) (head : Nat), s.ringEntry d = (some (e, base, head), s1) →
    let u := s1.needDie d
    let gone (t : State) (c : Code) : State := t.consume e base head ⟨0#64, c, none⟩
    let record := e.take 64
    let h : DWord := BitVec.ofNat 64 (fieldAt e 0x10 8)
    let after := entryAfter e (entryNafter e)
    let ix := u.newEntry d
    u.partLater base = false → (entryNote e ≠ 0#64 → u.partLater (entryNote e) = false) →
    (entryBad e = true → entryKind e ≤ 4 → ∀ i : Instr, (i, entryKind e) ∈ [(Instr.submissionSkip d, 0),
        (.submissionLaunch d, 1), (.submissionSpawn d, 2), (.submissionUnbound d, 3), (.submissionDrop d, 4)] →
      Machine.exec i s = .next (gone u .illegalOperand)) ∧
    (entryBad e = false →
      (entryKind e = 0 → Machine.exec (.submissionSkip d) s = .next (gone u .ok)) ∧
      (entryKind e = 1 →
        let q := u.addLaunch record h
        let own : Prop := h = 0#64 ∨ (u.remoteHandle h = false ∧ ∃ f, u.future h = some f ∧ f.state = .unbound)
        (h ≠ 0#64 → u.remoteHandle h = false → u.future h = none →
          Machine.exec (.submissionLaunch d) s = .next (gone u .handleStale)) ∧
        (∀ f, h ≠ 0#64 → u.remoteHandle h = false → u.future h = some f → f.state ≠ .unbound →
          Machine.exec (.submissionLaunch d) s = .next (gone u .illegalOperand)) ∧
        (own → ∀ x, q.2.launch? q.1 = some x →
          (q.2.queueRoom x = false → Machine.exec (.submissionLaunch d) s = .next u) ∧
          (q.2.queueRoom x = true → Machine.exec (.submissionLaunch d) s = .next (((q.2.modFut h (fun f => { f with
            launch := some q.1, taskEnded := false, state := .queued })).pushLaunch q.1).consume e base head
              ⟨h, .ok, if h = 0#64 then none else some h⟩))) ∧
        (h ≠ 0#64 → u.remoteHandle h = true →
          ((u.die d).subAsk = none → Machine.exec (.submissionLaunch d) s =
            .next (u.subAsks d (e, base, head) none [(h, .bind h u.device.toNat)])) ∧
          ∀ a, (u.die d).subAsk = some a →
            let v := u.modDie d (fun y => { y with subAsk := none })
            let r := v.addLaunch record h
            (a.waiting ≠ 0 → Machine.exec (.submissionLaunch d) s = .next u) ∧
            (∀ c, a.waiting = 0 → a.answers = [(h, c)] → c ≠ .ok → Machine.exec (.submissionLaunch d) s =
              .next (gone v (if c = .handleStale then .handleStale else .illegalOperand))) ∧
            ∀ x, a.waiting = 0 → a.answers = [(h, .ok)] → r.2.launch? r.1 = some x → r.2.queueRoom x = true →
              Machine.exec (.submissionLaunch d) s = .next (((r.2.modFut h (fun f => { f with
                launch := some r.1, taskEnded := false, state := .queued })).pushLaunch r.1).consume e base head
                  ⟨h, .ok, some h⟩))) ∧
      (entryKind e = 2 → (∀ a ∈ after, u.remoteHandle a = false) → (u.die d).subAsk = none →
        ((∃ a ∈ after, u.future a = none) → Machine.exec (.submissionSpawn d) s = .next (gone u .handleStale)) ∧
        ((∀ a ∈ after, u.future a ≠ none) → ix.1 = none →
          Machine.exec (.submissionSpawn d) s = .next (gone u .budgetExceeded)) ∧
        (u.afterFault after = none → ix.1 ≠ none → let jx := (u.takeAfters after).newEntry d
          ∀ i, jx.1 = some i →
            let t := jx.2.createTask d i record after true hostThread
            Machine.exec (.submissionSpawn d) s = .next (t.2.consume e base head ⟨t.1, .ok, some t.1⟩))) ∧
      (entryKind e = 3 → ix.1 = none → Machine.exec (.submissionUnbound d) s = .next (gone ix.2 .budgetExceeded)) ∧
      (entryKind e = 3 → ∀ i, ix.1 = some i →
        let gen := ((AMap.get? (ix.2.die d).futures i).map (·.gen)).getD 1#16
        let hd := ix.2.mkHandle d i gen
        let f : Fut := { Fut.init with live := true, gen := gen, count := 1, loose := 1 }
        Machine.exec (.submissionUnbound d) s = .next ((ix.2.modDie d (fun x => { x with
          futures := AMap.set x.futures i f })).consume e base head ⟨hd, .ok, some hd⟩)) ∧
      (entryKind e = 4 → let hd := (entryAfter e 1).headD 0#64
        u.remoteHandle hd = false →
        (u.future hd = none → Machine.exec (.submissionDrop d) s = .next (gone u .handleStale)) ∧
        ∀ f, u.future hd = some f →
          (f.loose = 0 → Machine.exec (.submissionDrop d) s = .next (gone u .illegalOperand)) ∧
          (f.loose ≠ 0 → Machine.exec (.submissionDrop d) s =
            .next (gone ((u.modFut hd (fun f => { f with loose := f.loose - 1 })).futDo [.drop hd 1]) .ok))))) ∧
  (∀ (s : State) (core : Nat), core < 1024 → ∃ t : State, Machine.exec (.coreFusedOff core false) s = .next t ∧
    t.coreOff = s.coreOff ||| (1#1024 <<< core) ∧ t.pcb.defsig = defectSignature t.defectMap ∧ t.pcb.defsig ≠ 0#64) ∧
  (∀ (s : State) (d : Nat), d < 4 →
    (s.dieStat d = 3 → Machine.exec (.dieFail d) s = .next s) ∧
    (s.dieStat d ≠ 3 → ∃ t : State, Machine.exec (.dieFail d) s = .next t ∧ t.pcb.defsig = defectSignature t.defectMap)) ∧
  ∀ (s : State) (n : Nat), n < 4 →
    (∀ d, d < 4 → s.dieUp d = true →
      (s.pcb.links.getLsbD d = true ∧ d ≠ n) ∨ (s.pcb.links.getLsbD ((d + 3) % 4) = true ∧ (d + 3) % 4 ≠ n)) →
    ∃ t : State, Machine.exec (.dieLinkFail n) s = .next t ∧ t = { s with pcb := { s.pcb with links := t.pcb.links } } ∧
      ∀ i, i < 4 → t.pcb.links.getLsbD i = (s.pcb.links.getLsbD i && decide (i ≠ n))

/-! ### The host and bring-up (R377-R397), and the fabric (R400-R410) -/

/-- R376-R397: the messages of a queue pair are performed in order, one that has to wait holding those behind it; a host
request is performed on the pages of the lowest window that holds it or is refused; control-block writes; loading, key and
attestation commands with their codes; the power arbiter, CRIT and HOT, power states; reset, the firmware's checks with
their REASON, reduced service, training and full service. What the model chose stands in log entries: that a request
that has to wait stays in its queue pair 97, the loader's PROTECTION by ranges 103, the two steps of FULL_SERVICE 98, KEYCMD after its command 104, sleep and wake 106, THROTTLE 107, an incarnation of 0 111, what RESET keeps
137, the root at reduced service 138. -/
def Obligations.HostAndBootEvents : Prop :=
  (∀ (s : State) (qp : Nat) (rkey : Word) (va x y : DWord) (data : List Byte) (n : Nat) (i : Instr) (m : HostMsg),
    (i, m) ∈ [(Instr.hostRdmaWrite ⟨qp, rkey⟩ va data, HostMsg.write rkey va data),
      (.hostRdmaRead ⟨qp, rkey⟩ va n, .read rkey va n), (.hostRdmaCas ⟨qp, rkey⟩ va x y, .cas rkey va x y),
      (.hostRdmaFetchAdd ⟨qp, rkey⟩ va x, .fetchAdd rkey va x), (.hostRdmaRefusedOp ⟨qp, rkey⟩, .refusedOp)] →
    (AMap.getD s.hostQueues qp [] = [] →
      (∀ u, s.hostMsg m = some u →
        Machine.exec i s = .next { u with hostQueues := AMap.erase u.hostQueues qp }) ∧
      (s.hostMsg m = none → Machine.exec i s = .next { s with hostQueues := AMap.set s.hostQueues qp [m] })) ∧
    ∀ q qs, AMap.getD s.hostQueues qp [] = q :: qs → s.hostMsg q = none →
      Machine.exec i s = .next { s with hostQueues := AMap.set s.hostQueues qp (q :: qs ++ [m]) }) ∧
  (∀ (s s1 : State) (rkey : Word) (va : DWord) (data : List Byte) (n i : Nat) (ps : List HostPart), i ≠ 0 →
    (s.hostWindow rkey va.toNat data.length .write = some i → data ≠ [] →
      s.hostXlate va.toNat data.length .write false (data.length / 65536 + 2) = (.ok ps, s1) →
      s.hostMsg (.write rkey va data) = some ((s1.hostPuts data ps).hostReply false [])) ∧
    (s.hostWindow rkey va.toNat n .read = some i → n ≠ 0 →
      s.hostXlate va.toNat n .read false (n / 65536 + 2) = (.ok ps, s1) →
      s.hostMsg (.read rkey va n) = some ((s1.hostGets ps).2.hostReply false (s1.hostGets ps).1)) ∧
    (s.hostWindow rkey va.toNat 8 .atomic = some i → va.toNat % 8 = 0 →
      s.hostXlate va.toNat 8 .write true 2 = (.ok ps, s1) →
      let r := s1.hostGets ps
      let old : DWord := BitVec.ofNat 64 (leNat r.1)
      (∀ add : DWord, s.hostMsg (.fetchAdd rkey va add) =
        some ((r.2.hostPuts (leBytes (old + add).toNat 8) ps).hostReply false r.1)) ∧
      ∀ cmp new : DWord, s.hostMsg (.cas rkey va cmp new) =
        some (if old = cmp then (r.2.hostPuts (leBytes new.toNat 8) ps).hostReply false r.1 else r.2.hostReply false r.1)) ∧
    (s.hostWindow rkey va.toNat data.length .write = some i → data ≠ [] →
      s.hostXlate va.toNat data.length .write false (data.length / 65536 + 2) = (.refused, s1) →
      s.hostMsg (.write rkey va data) = some (s1.hostReply true [])) ∧
    (s.hostWindow rkey va.toNat data.length .write = some i → data ≠ [] →
      s.hostXlate va.toNat data.length .write false (data.length / 65536 + 2) = (.wait, s1) →
      s.hostMsg (.write rkey va data) = none)) ∧
  (∀ (s : State) (rkey : Word) (va : DWord) (data : List Byte) (n : Nat),
    let no : State := { s with hostReplies := s.hostReplies ++ [(true, [])] }
    (s.hostWindow rkey va.toNat data.length .write = none → s.hostMsg (.write rkey va data) = some no) ∧
    (s.hostWindow rkey va.toNat n .read = none → s.hostMsg (.read rkey va n) = some no) ∧
    (s.hostWindow rkey va.toNat 8 .atomic = none ∨ va.toNat % 8 ≠ 0 → ∀ x y : DWord,
      s.hostMsg (.fetchAdd rkey va x) = some no ∧ s.hostMsg (.cas rkey va x y) = some no) ∧
    s.hostMsg .refusedOp = some no ∧
    (rkey = 0#32 → va.toNat + n ≤ 0x1000 → n ≠ 0 → s.hostMsg (.read rkey va n) =
      some { s with hostReplies := s.hostReplies ++ [(false, s.pcbRead va.toNat n)] }) ∧
    (rkey = 0#32 → va.toNat = 0x10 → data.length = 4 → s.hostMsg (.write rkey va data) =
      some ((s.pcbWrite 0x10 data).hostReply false []))) ∧
  (∀ (s : State) (rkey : Word) (va n i : Nat) (op : HostOp), i ≠ 0 → s.hostWindow rkey va n op = some i →
    let field (j at_ len : Nat) : Nat := s.pcb.windowField (32 * j + at_) len
    i < 64 ∧ (field i 20 4).testBit 0 = true ∧ (field i 20 4).testBit op.flag = true ∧ field i 16 4 = rkey.toNat ∧
      field i 0 8 ≤ va ∧ va + n ≤ field i 0 8 + field i 8 8 ∧
      ∀ j, 0 < j → j < i → ¬ ((field j 20 4).testBit 0 = true ∧ field j 16 4 = rkey.toNat ∧ field j 0 8 ≤ va ∧
        va + n ≤ field j 0 8 + field j 8 8)) ∧
  (∀ (s : State) (off : Nat) (v : DWord), off < 65536 →
    (off % 4 = 0 → Machine.exec (.pcbRegisterWrite off false v) s = .next (s.pcbWrite off (leBytes v.toNat 4))) ∧
    (off % 8 = 0 → Machine.exec (.pcbRegisterWrite off true v) s = .next (s.pcbWrite off (leBytes v.toNat 8)))) ∧
  (∀ (s : State), s.pcb.ldcmd ≠ 0#32 → s.awaitsDie s.pcb.ldfile.toNat = false → s.awaitsDie s.pcb.ldres.toNat = false →
    s.pcb.ldlen ≠ 0#64 →
    (s.loaderRange s.pcb.ldfile.toNat s.pcb.ldlen.toNat = false →
      Machine.exec .loaderRequest s = .next (s.loaderFail .protection)) ∧
    (s.loaderRange s.pcb.ldfile.toNat s.pcb.ldlen.toNat = true →
      let r := s.partRead s.pcb.ldfile.toNat s.pcb.ldlen.toNat
      (lFileOk r.1 = false → Machine.exec .loaderRequest s = .next (r.2.loaderFail .variantCorrupt)) ∧
      (lFileOk r.1 = true →
        ((lFile r.1).select s.pcb.defsig.toNat = none →
          Machine.exec .loaderRequest s = .next (r.2.loaderFail .variantNone)) ∧
        ∀ v, (lFile r.1).select s.pcb.defsig.toNat = some v → v.pfree = true →
          (r.2.loaderPlace (lFile r.1) v = none → Machine.exec .loaderRequest s = .next (r.2.loaderFail .protection)) ∧
          ∀ u, r.2.loaderPlace (lFile r.1) v = some u → Machine.exec .loaderRequest s = .next u))) ∧
  (∀ (s u : State) (f : LFile) (v : LVariant) (c : Code), (s.loaderFail c).pcb.ldcmd = 0#32 ∧
    (s.loaderFail c).pcb.ldstat.toNat = 2 ^ 31 + codeNum c ∧
    (s.loaderPlace f v = some u → u.pcb.ldcmd = 0#32 ∧ u.pcb.ldstat = 0x80000000#32)) ∧
  (∀ (s : State), let p := s.pcb
    let slot := p.keycmd.toNat % 256
    let done (t : State) (c : Code) : State :=
      { t with pcb := { t.pcb with keycmd := t.pcb.keycmd &&& 0xFF#32, keystat := codeWord c } }
    let bad : Prop := slot = 0 ∨ p.keydata.extractLsb' 0 256 = p.keydata.extractLsb' 256 256
    (p.keycmd.toNat / 256 % 4 = 1 →
      (bad → Machine.exec .keyLoad s = .next (done s .illegalOperand)) ∧
      (¬ bad → Machine.exec .keyLoad s =
        .next (done { s with keys := AMap.set s.keys slot p.keydata, pcb := { p with keydata := 0#512 } } .ok))) ∧
    (p.keycmd.toNat / 256 % 4 = 2 →
      (slot = 0 → Machine.exec .keyClear s = .next (done s .illegalOperand)) ∧
      (slot ≠ 0 → let u := s.flushDirty.dropTlb (fun _ => true)
        Machine.exec .keyClear s = .next (done { u with keys := AMap.erase u.keys slot } .ok))) ∧
    (p.attcmd ≠ 0#32 → ∃ t : State, Machine.exec .attestRequest s = .next t ∧
      t = { s with pcb := { p with report := t.pcb.report, attcmd := 0#32, attstat := 0x80000000#32 } } ∧
      ∀ i, i < 306 → p.attFields.length = 192 →
        some (cellGet t.pcb.report 0#8 i) = (p.attFields ++ ed448Sign identity p.attFields)[i]?)) ∧
  (∀ (s : State) (w m : List Nat), s.pcb.stage.toNat < 2 → Machine.exec (.powerArbiter w m) s = .next s) ∧
  (∀ (s : State) (w0 w1 w2 w3 m0 m1 m2 m3 d : Nat), d < 4 → 2 ≤ s.pcb.stage.toNat →
    w0 + w1 + w2 + w3 ≤ s.pcb.pwrcap.toNat →
    (∀ m ∈ [m0, m1, m2, m3], 425 ≤ m ∧ m ≤ 850 ∧ m % 25 = 0) →
    ∃ t : State, Machine.exec (.powerArbiter [w0, w1, w2, w3] [m0, m1, m2, m3]) s = .next t ∧ t = { s with dies := t.dies } ∧
      t.die d = { s.die d with
        watts := [w0, w1, w2, w3].getD d 0
        clockMhz := if s.pcb.hot = true ∨ s.pcb.reduced = true then 425 else [m0, m1, m2, m3].getD d 0
        throttled := decide (s.pcb.hot = false ∧ s.pcb.reduced = false ∧ [m0, m1, m2, m3].getD d 0 < 850) }) ∧
  (∀ (s : State), s.pwrstat / 256 % 2 = 1 ↔
    s.pcb.hot = false ∧ ∃ d, d < 4 ∧ (s.die d).throttled = true ∧ s.dieStat d = 2) ∧
  (∀ (s : State), ∃ t : State, Machine.exec .thermalCrit s = .next t ∧ t.pcb = { s.pcb with crit := true, hot := true } ∧
    ∀ k th, threadOnLC k = false → t.midRun k th = false → t.mayIssue k th = false) ∧
  (∀ (s : State), (∃ t : State, Machine.exec (.temperatureCrossesThrottleLimit true) s = .next t ∧
      t = { s with pcb := { s.pcb with hot := true }, dies := t.dies } ∧ ∀ p ∈ t.dies, p.2.clockMhz = 425) ∧
    ∃ t : State, Machine.exec (.temperatureCrossesThrottleLimit false) s = .next t ∧
      t = { s with pcb := { s.pcb with hot := false, crit := false }, threads := t.threads, groups := t.groups } ∧
      (s.pcb.crit = false → t.threads = s.threads ∧ t.groups = s.groups) ∧
      (s.pcb.crit = true → ∀ k th, s.thread? k = some th → th.status = .withdrawn → threadOnLC k = false →
        (s.core (coreOfThread k)).halted = false → t.stopping k = false → ∃ th', t.thread? k = some th' ∧ th'.status = .ready)) ∧
  (∀ (s : State) (d : Nat), d < 4 →
    (s.dieUp d = true → s.dieIdle d = true → (s.die d).power = 0#2 →
      (s.pcb.lattol.toNat < 2 → Machine.exec (.powerStateEnter d) s = .next s) ∧
      (2 ≤ s.pcb.lattol.toNat → s.pcb.lattol.toNat < 20 → Machine.exec (.powerStateEnter d) s =
        .next (s.modDie d (fun x => { x with power := 1#2 }))) ∧
      (20 ≤ s.pcb.lattol.toNat → s.pcb.lattol.toNat < 200 → Machine.exec (.powerStateEnter d) s =
        .next (s.modDie d (fun x => { x with
          power := 2#2, asleep := (List.range 64).map (fun i => (i, s.pcb.thawgen)) }))) ∧
      (200 ≤ s.pcb.lattol.toNat → (∀ e, e < 4 → s.dieUp e = true → s.dieIdle e = true) →
        ∃ t : State, Machine.exec (.powerStateEnter d) s = .next t ∧
          ∀ e, e < 4 → (t.die e).power = if s.dieUp e then 3#2 else (s.die e).power) ∧
      (200 ≤ s.pcb.lattol.toNat → (∃ e, e < 4 ∧ s.dieUp e = true ∧ s.dieIdle e = false) →
        Machine.exec (.powerStateEnter d) s = .next (s.modDie d (fun x => { x with
          power := 2#2, asleep := (List.range 64).map (fun i => (i, s.pcb.thawgen)) })))) ∧
    (∀ v : Word, let t := s.pcbSet 0x10 v.toNat
      t.pcb.lattol = v ∧ (t.die d).power.toNat ≤
        (if 200 ≤ v.toNat then 3 else if 20 ≤ v.toNat then 2 else if 2 ≤ v.toNat then 1 else 0)) ∧
    (s.dieIdle d = false → Machine.exec (.powerStateEnter d) s = .next s) ∧
    ∃ t : State, Machine.exec (.powerStateWake d) s = .next t ∧ (t.die d).power = 0#2 ∧
      ∀ e, (t.die e).power = if e = d then 0#2 else if (s.die e).power = 3#2 then 2#2 else (s.die e).power) ∧
  (∀ (s : State), Machine.exec .reset s = .next { State.reset with
    mem := s.mem, rollback := s.rollback, agenda := s.agenda, choices := s.choices, free := s.free
    hostReplies := s.hostReplies, cgroups := s.cgroups, lostSpines := s.lostSpines
    recvChans := s.recvChans.filter (fun c => decide (2 ^ 28 ≤ c.1))
    peerIncs := s.peerIncs.filter (fun c => decide (2 ^ 26 ≤ c.1))
    endedIncs := s.endedIncs.filter (fun c => decide (2 ^ 26 ≤ c.1)) }) ∧
  (∀ (s : State) (image : List Byte), s.pcb.stage = 0#3 →
    let failed (n : Nat) : State := { s with pcb := { s.pcb with stage := 7#3, reason := BitVec.ofNat 8 n } }
    let key := bytesAt image 0x18 57
    let digest := shake256 (image.drop 0x100) 64
    let formed : Prop := 0x100 ≤ image.length ∧ fieldAt image 0 4 = 0x4D464854 ∧ fieldAt image 4 4 = 1 ∧
      fieldAt image 0x10 8 = image.length ∧ ∀ b ∈ bytesAt image 0xC3 61, b = 0#8
    let signed : Prop := leNat (shake256 key 32) = Config.fusedKeyHash.toNat ∧
      ed448Verify key digest (bytesAt image 0x51 114) = true
    (¬ formed → Machine.exec (.firmwareVerify image) s = .next (failed 3)) ∧
    (formed → ¬ signed → Machine.exec (.firmwareVerify image) s = .next (failed 1)) ∧
    (formed → signed → fieldAt image 8 8 < s.rollback.toNat → Machine.exec (.firmwareVerify image) s = .next (failed 2)) ∧
    (formed → signed → s.rollback.toNat ≤ fieldAt image 8 8 → Machine.exec (.firmwareVerify image) s = .next { s with
      pcb := { s.pcb with stage := 1#3 }
      fwDigest := BitVec.ofNat 256 (leNat (digest.take 32))
      fwRollback := BitVec.ofNat 64 (fieldAt image 8 8) })) ∧
  (∀ (s : State), s.pcb.stage = 1#3 →
    let failed : State := { s with pcb := { s.pcb with stage := 7#3, reason := 4#8 } }
    Machine.exec (.reducedService false) s = .next failed ∧
    (s.dieStat 0 = 3 → Machine.exec (.reducedService true) s = .next failed) ∧
    let u : State := { s.mapDies (fun d => { d with clockMhz := 425, throttled := false }) with
      clusterOff := s.clusterOff ||| Config.fusedClusters, coreOff := Config.fusedCores, device := Config.deviceNumber
      laneOff := ((List.range 1024).map (fun c => (c, Config.fusedLanes c))).filter (fun p => p.2 != 0#128)
      root := some (65536 * (Config.bootRoot % 2 ^ 30))
      pcb := { s.pcb with stage := 2#3, reduced := true, dieState := s.pcb.dieState ||| 1#16 } }
    let v := Config.bootMemory.foldl (fun s c => s.partWrite c.1 [c.2]) u.publishTables
    s.dieStat 0 ≠ 3 → Machine.exec (.reducedService true) s = .next (v.startSupervisors 0)) ∧
  (∀ (s : State) (dies links : BitVec 4) (ports : BitVec 18), s.pcb.stage = 2#3 →
    let inc := Config.randomIncarnation s.free
    Machine.exec (.fullService dies links ports) s = .next { s with
      incarnation := if inc = 0#48 then 1#48 else inc
      free := s.free + 1, sendChans := [], recvChans := s.recvChans.filter (fun c => decide (2 ^ 28 ≤ c.1))
      pcb := { s.pcb with stage := 3#3 } }) ∧
  (∀ (s : State) (ports : BitVec 18), s.pcb.stage = 3#3 → (∀ d, d < 4 → s.dieStat d ≠ 3) →
    let u : State := { s with
      rollback := if s.rollback.toNat ≤ s.fwRollback.toNat then s.fwRollback else s.rollback
      ports := s.ports.zipIdx.map (fun (x : Port × Nat) =>
        if ports.getLsbD x.2 then { x.1 with up := true, spare := true, active := 4#3, lanes := 15#5 } else x.1)
      pcb := { s.pcb with
        stage := 4#3, reduced := false, fullsvc := true, links := 15#4, dieState := 0x2222#16 } }
    Machine.exec (.fullService 15#4 15#4 ports) s =
      .next ([1, 2, 3].foldl (fun (t : State) d => if t.dieUp d then t.startSupervisors d else t) u).retryOutside) ∧
  ∀ (s : State) (dies : BitVec 4) (d : Nat), d < 4 →
    s.trainedDies dies / 16 ^ d % 16 =
      if s.dieStat d = 3 then 3 else if d = 0 ∨ dies.getLsbD d = true then 2 else 0

/-- R400-R410: a packet for another incarnation is discarded; a duplicate is counted; one whose number is awaited is
performed once and the number passes; one ahead of its turn is held. Acknowledgements, resends, floors and packets given
up; at most 16,384 of a stream unacknowledged, what is beyond waiting for its turn; restarts of a peer; answers; the health of lanes; a lost spine. Which duplicates are counted and how a peer's incarnation
is learned is log entry 110, the order in which weak lanes are judged 115. -/
def Obligations.FabricEvents : Prop :=
  (∀ (s : State) (p : Packet),
    p.dst < 8192 → p.dst ≠ s.device.toNat ∨ (p.dstInc ≠ 0 ∧ p.dstInc ≠ s.incarnation.toNat) ∨
      p.srcInc ∈ AMap.getD s.endedIncs p.src [] → Machine.exec (.fabricPacketDeliver p) s = .next s) ∧
  (∀ (s b : State) (p : Packet), p.dst = s.device.toNat → p.cls < 4 → p.dstInc = 0 ∨ p.dstInc = s.incarnation.toNat →
    p.srcInc ∉ AMap.getD s.endedIncs p.src [] →
    (AMap.get? s.peerIncs p.src = some p.srcInc ∧ b = s) ∨
      (AMap.get? s.peerIncs p.src ≠ some p.srcInc ∧ b = s.newSource p.src p.srcInc) →
    let u := b.modRecv p.src p.cls
      (fun c => if c.begun then c.raise p.floor else { c with begun := true, expected := p.floor })
    let c := u.recvChan p.src p.cls
    (∀ q ∈ c.reorder, q.seq ≠ c.expected) →
    (seqBefore p.seq c.expected = true → Machine.exec (.fabricPacketDeliver p) s =
      .next { u with pcb := { u.pcb with fabdup := u.pcb.fabdup + 1#64 } }) ∧
    (∀ v, p.seq = c.expected → c.reorder = [] →
      (u.modRecv p.src p.cls (fun x => { x with reorder := [p] })).performPacket p = some v →
      Machine.exec (.fabricPacketDeliver p) s = .next (v.modRecv p.src p.cls (fun x => { x with
        expected := (x.expected + 1) % 2 ^ 32, reorder := x.reorder.filter (fun q => q.seq != p.seq) }))) ∧
    ((∀ q ∈ c.reorder, q.seq ≠ p.seq) → c.expected < p.seq → p.seq < c.expected + 16384 →
      Machine.exec (.fabricPacketDeliver p) s =
        .next (u.modRecv p.src p.cls (fun x => { x with reorder := x.reorder ++ [p] })))) ∧
  (∀ (s : State) (peer inc old cls : Nat), cls < 4 → AMap.get? s.peerIncs peer = some old →
    let t := s.newSource peer inc
    t.recvChan peer cls = RecvChan.init ∧ AMap.get? t.peerIncs peer = some inc ∧ old ∈ AMap.getD t.endedIncs peer [] ∧
      t = { s with peerIncs := t.peerIncs, endedIncs := t.endedIncs, recvChans := t.recvChans }) ∧
  (∀ (s : State) (p : Packet) (pa n : Nat) (v : QWord), p.cls = 0 → p.dst < 8192 → s.linkRoom p.src 1 = true → s.awaitsDie pa = false →
    (p.op = .load pa n →
      (∀ c, s.outRefuses pa false = some c → s.performPacket p = some (s.sendPacket p.src 1 p.tag (.response p.tag c 0#128))) ∧
      (s.outRefuses pa false = none → let r := s.partRead pa n
        r.2.linkRoom p.src 1 = true → s.performPacket p = some (r.2.sendPacket p.src 1 p.tag (.response p.tag .ok (BitVec.ofNat 128 (leNat r.1)))))) ∧
    (p.op = .store pa n v →
      (∀ c, s.outRefuses pa true = some c → c ≠ .ok →
        s.performPacket p = some (s.sendPacket p.src 1 p.tag (.response p.tag c 0#128))) ∧
      (s.outRefuses pa true = none → s.performPacket p = some (s.outWrite pa (leBytes v.toNat n))))) ∧
  (∀ (s : State) (peer cls upTo inc : Nat), (s.sendChan peer cls).peerInc ≠ 0 → (s.sendChan peer cls).peerInc ≠ inc →
    Machine.exec (.fabricAck ⟨peer, inc⟩ cls upTo) s = .next s) ∧
  (∀ (s : State) (peer cls upTo inc : Nat), cls < 4 → peer < 8192 →
    (s.sendChan peer cls).peerInc = 0 ∨ (s.sendChan peer cls).peerInc = inc →
    ∃ t u : State, Machine.exec (.fabricAck ⟨peer, inc⟩ cls upTo) s = .next t ∧
    u = { s with sendChans := u.sendChans } ∧ t = { u.sendWaiting peer cls with remotes := t.remotes } ∧
    (∀ k, k < 4 → (u.sendChan peer k).peerInc = inc) ∧
    (let c := s.sendChan peer cls
     let rest := c.unacked.filter (fun p => seqBefore upTo p.seq)
     (u.sendChan peer cls).unacked = rest ∧ (u.sendChan peer cls).next = c.next ∧
     (u.sendChan peer cls).floor = (match rest with | [] => c.next | p :: _ => p.seq) ∧
     (u.sendChan peer cls).waiting = c.waiting ∧
     ∀ r, r ∈ t.remotes ↔ r ∈ s.remotes ∧ ¬ (cls = 0 ∧ r.kind = .store ∧
       ∃ p ∈ c.unacked, seqBefore upTo p.seq = false ∧ p.tag = r.tag))) ∧
  (∀ (s : State) (peer cls tag : Nat) (op : FabOp),
    let c := s.sendChan peer cls
    let p : Packet := ⟨s.device.toNat, peer, cls, c.next, c.floor, s.incarnation.toNat, c.peerInc, tag, op⟩
    (c.unacked.length < 16384 → c.waiting = [] → s.sendPacket peer cls tag op = s.modSend peer cls (fun c =>
      { c with next := (c.next + 1) % 2 ^ 32, unacked := c.unacked ++ [p] })) ∧
    (16384 ≤ c.unacked.length ∨ c.waiting ≠ [] →
      s.sendPacket peer cls tag op = s.modSend peer cls (fun c => { c with waiting := c.waiting ++ [(tag, op)] })) ∧
    (c.waiting = [] → ∀ k, (s.sendWaiting peer cls).sendChan peer k = s.sendChan peer k) ∧
    (c.waiting = [(tag, op)] → s.sendWaiting peer cls =
      (s.modSend peer cls (fun c => { c with waiting := [] })).sendPacket peer cls tag op)) ∧
  (∀ (s : State) (peer cls : Nat) (p : Packet), (s.sendChan peer cls).unacked = [p] → (s.sendChan peer cls).waiting = [] →
    Machine.exec (.fabricResend peer cls p.seq) s =
      .next { s with pcb := { s.pcb with fabresend := s.pcb.fabresend + 1#64 } } ∧
    ∀ r, p.cls = 0 → s.remotes = [r] → r.tag = p.tag →
      let u := s.modSend peer cls (fun c => { c with unacked := [], floor := c.next })
      (∀ reg z acq edge, r.kind = .load reg z acq edge → Machine.exec (.fabricUndeliverable peer cls p.seq) s =
        .next ({ u with remotes := [] }.failRemote r .fabricUnreachable false)) ∧
      (∀ q, r.kind = .ship q → Machine.exec (.fabricUndeliverable peer cls p.seq) s =
        .next ({ u with remotes := [] }.landShip q .fabricUnreachable .ok noWords))) ∧
  (∀ (s : State) (peer : Nat) (p : Packet) (r : Remote), (s.sendChan peer 2).unacked = [p] →
    (s.sendChan peer 2).waiting = [] → p.cls = 2 → s.remotes = [r] → r.tag = p.tag →
    let u : State := { s.modSend peer 2 (fun c => { c with unacked := [], floor := c.next }) with remotes := [] }
    (∀ reg tok n, r.kind = .red reg tok n → Machine.exec (.fabricUndeliverable peer 2 p.seq) s =
      .next ((u.deliverOpt r.thread reg (List.replicate n 0#32)).deliver r.thread tok [codeWord .fabricUnreachable])) ∧
    (∀ reg gid plane, r.kind = .rgrp reg gid plane → Machine.exec (.fabricUndeliverable peer 2 p.seq) s =
      .next (u.deliverCode r.thread reg .fabricUnreachable))) ∧
  (∀ (s : State) (peer cls floor : Nat), floor < 2 ^ 32 → (s.recvChan peer cls).begun = true →
    (s.recvChan peer cls).reorder = [] → ∃ t : State, Machine.exec (.floorNotice peer cls floor) s = .next t ∧
      t = { s with recvChans := t.recvChans } ∧ t.recvChan peer cls = { s.recvChan peer cls with expected :=
        (if seqBefore (s.recvChan peer cls).expected floor then floor else (s.recvChan peer cls).expected) }) ∧
  (∀ (s : State) (peer inc : Nat),
    (AMap.get? s.peerIncs peer ≠ some inc → inc ∉ AMap.getD s.endedIncs peer [] →
      Machine.exec (.incarnationChange peer true inc []) s = .next (s.newSource peer inc)) ∧
    ((∀ cls, cls < 4 → (s.sendChan peer cls).unacked = [] ∧ (s.sendChan peer cls).waiting = []) → ∃ t : State,
      Machine.exec (.incarnationChange peer false inc []) s = .next t ∧ t = { s with sendChans := t.sendChans } ∧
      ∀ cls, cls < 4 → t.sendChan peer cls = ⟨0, 0, [], [], inc⟩)) ∧
  (∀ (s : State) (r : Remote) (reg : Option Nat) (z : Size) (acq : Bool) (edge : Acquire) (c : Code) (v : QWord), s.remotes = [r] →
    r.kind = .load reg z acq edge →
    let u : State := { s with remotes := [] }
    (c ≠ .ok → Machine.exec (.remoteAccessReply r.tag c v) s = .next (u.failRemote r c false)) ∧
    let w := (u.deliverOpt r.thread reg (loadWords z v.toNat)).pmc (coreOfThread r.thread) 0x15 z.bytes (u.whoOf r.thread)
    (c = .ok → Machine.exec (.remoteAccessReply r.tag c v) s =
      .next (w.acquireEdge (coreOfThread r.thread) edge))) ∧
  (∀ (s : State) (n : Nat) (p : Port) (errors margins : List Nat), s.ports[n]? = some p → p.up = true →
    errors.length = 5 → margins.length = 5 →
    let active := (List.range 5).filter (fun i => p.lanes.getLsbD i)
    let weak := active.filter (fun i => decide (1024 < errors.getD i 0) || decide (margins.getD i 0 < 16))
    let q : Port := { p with
      corr := BitVec.ofNat 32 ((active.map (fun i => errors.getD i 0)).sum)
      margin := BitVec.ofNat 8 (active.foldl (fun m i => min m (margins.getD i 0)) 255) }
    (weak = [] → Machine.exec (.laneSample n errors margins) s = .next { s with ports := s.ports.set n q }) ∧
    ∀ i, weak = [i] → ∃ q', Machine.exec (.laneSample n errors margins) s = .next { s with ports := s.ports.set n q' } ∧
      q'.lanes.getLsbD i = false ∧ q'.corr = q.corr ∧ q'.margin = q.margin ∧
      (p.spare = true → p.lanes.getLsbD i = true → active.length = 4 →
        q' = { q with lanes := ~~~(1#5 <<< i), spare := false }) ∧
      (p.spare = false → p.active = 4#3 →
        q' = { q with lanes := p.lanes &&& ~~~(1#5 <<< i), active := 3#3 }) ∧
      (p.spare = false → p.active ≠ 4#3 → q' = { q with lanes := 0#5, active := 0#3, up := false })) ∧
  (∀ (s : State) (n : Nat) (p : Port) (lanes : BitVec 5), s.ports[n]? = some p → p.up = false →
    let ok := (List.range 5).filter (fun i => lanes.getLsbD i)
    3 ≤ ok.length → ∃ q : Port, Machine.exec (.portRetrain n lanes) s = .next { s with ports := s.ports.set n q } ∧
      q.up = true ∧ q.active.toNat = min 4 ok.length ∧ (q.spare = true ↔ ok.length = 5) ∧
      (∀ i, q.lanes.getLsbD i = true → lanes.getLsbD i = true) ∧
      ((List.range 5).filter (fun i => q.lanes.getLsbD i)).length = min 4 ok.length) ∧
  (∀ (s : State) (plane spine : Nat), (∀ g ∈ s.cgroups, ¬ (g.2.plane = plane ∧ spineOf g.1 = spine)) →
    (∀ r ∈ s.remotes, ∀ reg gid q, r.kind = .rgrp reg gid q → ¬ (q = plane ∧ spineOf gid = spine)) →
    (∀ l ∈ s.landings, ∀ q gid, l.gid = some (q, gid) → ¬ (q = plane ∧ spineOf gid = spine)) →
    Machine.exec (.spineLost plane spine) s = .next { s with lostSpines := (plane, spine) :: s.lostSpines }) ∧
  (∀ (s : State) (gid : Nat) (g : CGroup), s.cgroups = [(gid, g)] → g.round = [] → s.remotes = [] → s.landings = [] →
    let u : State := { s with lostSpines := (g.plane, gid / 18 % 72) :: s.lostSpines }
    Machine.exec (.spineLost g.plane (gid / 18 % 72)) s =
      .next { u with cgroups := [(gid, { g with plane := u.nextPlane g.plane gid })] }) ∧
  ∀ (s : State) (p gid i : Nat),
    let live (q : Nat) : Prop := s.portUp q = true ∧ (q, gid / 18 % 72) ∉ s.lostSpines
    i < 17 → live ((p + 1 + i) % 18) → (∀ j, j < i → ¬ live ((p + 1 + j) % 18)) → s.nextPlane p gid = (p + 1 + i) % 18

/-! ### Decoding, the step, reset and memory (R11-R14, R27-R36, R154, R388) -/

namespace Sys2Proof.Claims
/-- A word as the spec writes it: three 32-bit words, lowest address first (R11). -/
def words3 (a b c : Nat) : Nat := a + 2 ^ 32 * b + 2 ^ 64 * c
/-- Operand fields that name registers; 255 is a field not read (R18, R19). -/
def regs3 (d : Dest) (a b c : BitVec 8) : Opnds := ⟨0#24, d, .gpr a, .gpr b, .gpr c⟩
end Sys2Proof.Claims

/-- R12, R15-R20, R27, R33-R36: every well-formed word, under every guard and every hint that is not reserved, with every
operand and modifier at every value its encoding admits, encodes, and decodes to itself with the literal word behind it. So
do entry words and literal words; that a word with OPC 0xFFF is one whatever its other bits is log entry 131. -/
def Obligations.EncodeDecodeRoundTrip : Prop :=
  (∀ (i : Instr) (g : BitVec 4) (h : BitVec 6), WellFormed i → i.opnds.isSome = true → h.getLsbD 0 = false →
    ∃ w, encode ⟨g, h, i⟩ = some w ∧ decode DecodeCtx.top w i.literal = .ok ⟨g, h, i⟩) ∧
  ∀ (x : BitVec 84) (ctx : DecodeCtx) (next : Option DWord),
    (∃ w, encode ⟨guardAlways, 0#6, .entryWordNop x⟩ = some w ∧
      decode ctx w next = .ok ⟨guardAlways, 0#6, .entryWordNop x⟩) ∧
    ∃ w, encode ⟨guardAlways, 0#6, .literalWordReached x⟩ = some w ∧
      decode ctx w next = .ok ⟨guardAlways, 0#6, .literalWordReached x⟩

/-- Worked encodings of the spec decode to the instructions they stand for, one or more of every class. -/
def Obligations.SpecWordsDecode : Prop :=
  decodeTableWord 96 (words3 0x04000064 0x007003FC 0x00070003) =
    some (.iadd .i32 true ⟨100#24, .gpr 3#8, .gpr 1#8, .imm, .gpr 255#8⟩) ∧
  decodeTableWord 96 (words3 0x00000000 0x01503010 0x10324004) =
    some (.ffma .f32 .rn false ⟨0#24, .gpr 4#8, .gpr 5#8, .const 3#8, .gpr 4#8⟩) ∧
  decodeTableWord 96 (words3 0x00FFFFFA 0x3FCFF3FC 0x400701FF) =
    some (.bra ⟨0xFFFFFA#24, .none, .gpr 255#8, .gpr 255#8, .gpr 255#8⟩) ∧
  decodeTableWord 96 (words3 0x00080010 0x010073FD 0x50070008) =
    some (.ld ⟨.b32, .core, .rlx, false, 0#4, 2#2, 16#18⟩ (regs3 (.gpr 8#8) 4#8 7#8 255#8)) ∧
  decodeTableWord 96 (words3 0x50000000 0x3FCFF3FC 0x70370007) =
    some (.barsync ⟨5#6, false, 0#20⟩ (regs3 (.gpr 7#8) 255#8 255#8 255#8)) ∧
  decodeTableWord 96 (words3 0x38000002 0x05016018 0x8007000C) =
    some (.cp ⟨false, true, false⟩ ⟨3#6, true⟩ (regs3 (.gpr 12#8) 20#8 22#8 6#8)) ∧
  decodeTableWord 96 (words3 0x1581BFBF 0x3FC193FC 0x900101FF) =
    some (.mload 1#6 .n8 true true 191#8 191#8 (regs3 .none 255#8 25#8 255#8)) ∧
  decodeTableWord 96 (words3 0x10000001 0x05016020 0xA027000C) =
    some (.scanc true false false 1#6 (regs3 (.gpr 12#8) 20#8 22#8 8#8)) ∧
  decodeTableWord 96 (words3 0x00000014 0x00804030 0xB0070008) =
    some (.shipW 20#8 (regs3 (.gpr 8#8) 2#8 4#8 12#8)) ∧
  decodeTableWord 96 (words3 0x00000001 0x3FCFF3FC 0xC0170002) =
    some (.freplayAll (regs3 (.gpr 2#8) 255#8 255#8 255#8)) ∧
  decodeTableWord 96 (words3 0x00000014 0x008063FE 0xD0070008) =
    some (.red .f32 .add 20#8 (regs3 (.gpr 8#8) 2#8 6#8 255#8))

/-- R11, R13, R33: a step of a thread fetches the 96 bits at its pc, decodes them, and executes the instruction for that
thread, after which hints apply; a literal stands in the word behind. A word whose guard does not hold only passes. An
instruction that cannot go on yet (State.retry) is executed from the state before it, as if it had not issued. Where no
thread is to issue, the step is the next event of the agenda, else one of the events that stand open: the model's choice,
log entry 9. -/
def Obligations.StepRunsDecoded : Prop :=
  (∀ (s s1 s2 : State) (t : Nat) (rest : List Nat) (th : Thread) (w l : BitVec 96) (d : Decoded), s.issue = t :: rest →
    let s0 : State := { s with issue := rest }
    s.thread? t = some th → s0.mayIssue t th = true → th.pc.toNat % 4 = 0 → th.pc.toNat < 2 ^ 55 →
    s0.fetchWord false (coreOfThread t) th.pc th.sup = (.word w, s1) → reconvBit w = false ∨ th.reconvDone = true →
    (th.calling ≠ none → entryOk (Entry.ofNat w.toNat) .call = true ∧
      ((Entry.ofNat w.toNat).sup = true → th.sup = true) ∧ s1.entryFits t th (Entry.ofNat w.toNat) = true) →
    let sc := if th.calling = none then s1 else s1.modThread t (fun th => { th with calling := none })
    ((wordReadsLiteral w = false ∧ decode (th.ctx t) w none = .ok d ∧ s2 = sc) ∨
      (wordReadsLiteral w = true ∧ (∃ d0, decode (th.ctx t) w (some 0#64) = .ok d0) ∧
        sc.fetchWord false (coreOfThread t) (th.pc + 12#64) th.sup = (.word l, s2) ∧
        decode (th.ctx t) w (literalOf l) = .ok d)) →
    s2.thread? t = some { th with calling := none } →
    let u := (s2.modThread t (·.issued (!d.instr.latchesRead.isEmpty))).pmc (coreOfThread t) 0x02 1 (some th.sup)
    (th.guardHolds d.g = false → Machine.step s =
      .next (((u.advance t d.instr.len).modThread t (·.hint d.h)).reclaimThread t)) ∧
    (th.guardHolds d.g = true → (∀ r ∈ d.instr.regsNamed, r ∉ th.pending) →
      (∀ n ∈ d.instr.latchesRead, (th.latch n).valid = true) →
      (d.instr.behindAcquires = true → s2.acquirePending t = true →
        Machine.step s = .next (({ s2 with cur := t, retry := true } : State).reclaimThread t)) ∧
      ((d.instr.behindAcquires = true → s2.acquirePending t = false) →
        ∀ v, Machine.exec d.instr (({ u with cur := t, retry := false } : State).ordersBefore t d.instr) = .next v →
          (v.retry = false → Machine.step s = .next ((v.modThread t (·.hint d.h)).reclaimThread t)) ∧
          (v.retry = true → ∀ x,
            Machine.exec d.instr (({ s2 with cur := t, retry := false } : State).ordersBefore t d.instr) = .next x →
            Machine.step s = .next (x.reclaimThread t))))) ∧
  (∀ (s s1 : State) (core l : Nat) (pc : DWord) (sup : Bool) (e : DWord) (pa lane : Nat), pc.toNat % 65536 ≤ 65524 →
    pa % 128 ≤ 116 → s.xlateFetch false (fetchReq core pc sup) = (some (.ok e l pa), s1) → placeOf pa = .ws lane →
    let bs := s1.rawBytes (pa % 2 ^ 46) 12
    let held := (s1.core core).icache.find? (fun p => p.1 == pa && p.2.length == 12)
    (1024 ≤ core ∨ held = some (pa, bs) → s.fetchWord false core pc sup = (.word (BitVec.ofNat 96 (leNat bs)), s1)) ∧
    (held = none → ∃ u, s.fetchWord false core pc sup = (.word (BitVec.ofNat 96 (leNat bs)), u) ∧
      u = { s1 with cores := u.cores })) ∧
  (∀ (s : State) (e : Instr) (es : List Instr), s.issue = [] → s.agenda = e :: es → e.isWord = false →
    Machine.step s = Machine.exec e { s with agenda := es }) ∧
  ∀ (s : State) (k : Nat) (e : Instr), s.issue = [] → s.agenda = [] → (s.choose s.openEvents.length).1 = k →
    s.openEvents[k]? = some e → Machine.step s = Machine.exec e (s.choose s.openEvents.length).2

/-- R33, R23, R24: what stops a word before its meaning: a misaligned pc, a pc beyond the address space, a fetch that
faults, a decode check that fails; a register still pending suspends the thread, a stale latch traps. The decode checks in
their order: opcode, privilege, latency core. That a misaligned pc comes before one beyond the address space is log entry
22. -/
def Obligations.StepTraps : Prop :=
  (∀ (s s1 : State) (t : Nat) (rest : List Nat) (th : Thread), s.issue = t :: rest →
    let s0 : State := { s with issue := rest }
    s.thread? t = some th → s0.mayIssue t th = true →
    (th.pc.toNat % 4 ≠ 0 → Machine.step s = .next ((s0.takeTrap t .misaligned 0#64).reclaimThread t)) ∧
    (th.pc.toNat % 4 = 0 → 2 ^ 55 ≤ th.pc.toNat →
      Machine.step s = .next ((s0.takeTrap t .protection th.pc).reclaimThread t)) ∧
    (th.pc.toNat % 4 = 0 → th.pc.toNat < 2 ^ 55 →
      (∀ va c l e, s0.fetchWord false (coreOfThread t) th.pc th.sup = (.fails va (.fault c l e), s1) →
        Machine.step s = .next ((s1.parkThread t va th.pc c .fetch l e).reclaimThread t)) ∧
      ∀ w, s0.fetchWord false (coreOfThread t) th.pc th.sup = (.word w, s1) → th.calling = none →
        reconvBit w = false ∨ th.reconvDone = true →
        (∀ c, decode (th.ctx t) w (if wordReadsLiteral w then some 0#64 else none) = .bad c →
          Machine.step s = .next ((s1.takeTrap t c 0#64).reclaimThread t)) ∧
        ∀ d, wordReadsLiteral w = false → decode (th.ctx t) w none = .ok d → s1.thread? t = some th →
          th.guardHolds d.g = true →
          let u := (s1.modThread t (·.issued (!d.instr.latchesRead.isEmpty))).pmc (coreOfThread t) 0x02 1 (some th.sup)
          let waits := d.instr.regsNamed.filter (th.pending.contains ·)
          (waits ≠ [] → Machine.step s =
            .next ((s1.modThread t (fun x => { x with status := .scoreboard waits })).reclaimThread t)) ∧
          (waits = [] → (∃ n ∈ d.instr.latchesRead, (th.latch n).valid = false) →
            Machine.step s = .next ((u.takeTrap t .latchStale 0#64).reclaimThread t)))) ∧
  (∀ (ctx : DecodeCtx) (w : BitVec 96) (next : Option DWord), let f := Fields.ofNat w.toNat
    f.opc.toNat < 0xFFE →
    (decodeModifiers f (next.getD 0#64) = none → decode ctx w next = .bad .illegalOpcode) ∧
    ∀ i, decodeModifiers f (next.getD 0#64) = some i →
      (ctx.sup = false → f.opc.toNat / 256 = 0xC → decode ctx w next = .bad .privilege) ∧
      (ctx.sup = true → ctx.onLC = true → 7 ≤ f.opc.toNat / 256 → f.opc.toNat / 256 ≤ 10 → (∀ o, i ≠ .barstatX o) →
        decode ctx w next = .bad .unsupportedOnLc)) ∧
  ∀ (ctx : DecodeCtx) (w : BitVec 96) (next : Option DWord), let f := Fields.ofNat w.toNat
    (f.opc.toNat < 0xFFE → f.h.getLsbD 0 = true → decode ctx w next = .bad .illegalOpcode) ∧
    (f.opc.toNat / 256 = 0xE → decode ctx w next = .bad .illegalOpcode)

/-- R388, R390, R373, R384, R386, R396, R402: what the spec gives for reset: STAGE 0 and nothing runs, LEASE 10, PWRCAP
3,200, LATTOL 0, TRAPVEC 0, no key, every stream at 0; and the memory at reset is in canonical form. -/
def Obligations.ResetState : Prop :=
  let s := State.reset
  s.pcb.stage = 0#3 ∧ s.pcb.reason = 0#8 ∧ s.pcb.dieState = 0#16 ∧ s.pcb.leasecfg = 10#8 ∧ s.pcb.pwrcap = 3200#12 ∧
    s.pcb.lattol = 0#32 ∧ s.pcb.trapvec = 0#64 ∧ s.keys = [] ∧ s.threads = [] ∧ s.groups = [] ∧
    (∀ peer cls, (s.sendChan peer cls).next = 0 ∧ (s.sendChan peer cls).unacked = []) ∧ s.rollback = Config.fusedRollback ∧
    Memory.wf s.mem = true

/-- Every step keeps the memory in its canonical form: addresses rising, and no entry equal to what an unlisted address
reads as. What an unlisted address reads as is the model's choice (DESIGN CHOICE, assumption 1). -/
def Obligations.MemoryFormKept : Prop :=
  ∀ s s' : State, Memory.wf s.mem = true → Machine.step s = .next s' → Memory.wf s'.mem = true
end

