-- ==== Sys2Proof/Laws/Codes.lean ====
section
/-! SUPPORT. Every modifier field decodes to the modifier it encodes (R36). -/
namespace Sys2Proof

@[simp] theorem IType.ofCode_code (x : IType) : IType.ofCode x.code = Option.some x := by cases x <;> rfl
@[simp] theorem FType.ofCode_code (x : FType) : FType.ofCode x.code = Option.some x := by cases x <;> rfl
@[simp] theorem Rnd.ofCode_code (x : Rnd) : Rnd.ofCode x.code = Option.some x := by cases x <;> rfl
@[simp] theorem Fmt.ofCode_code (x : Fmt) : Fmt.ofCode x.code = Option.some x := by cases x <;> rfl
@[simp] theorem Size.ofCode_code (x : Size) : Size.ofCode x.code = Option.some x := by cases x <;> rfl
@[simp] theorem Scope.ofCode_code (x : Scope) : Scope.ofCode x.code = Option.some x := by cases x <;> rfl
@[simp] theorem Order.ofCode_code (x : Order) : Order.ofCode x.code = Option.some x := by cases x <;> rfl
@[simp] theorem Cond.ofCode_code (x : Cond) : Cond.ofCode x.code = Option.some x := by cases x <;> rfl
@[simp] theorem FCond.ofCode_code (x : FCond) : FCond.ofCode x.code = Option.some x := by cases x <;> rfl
@[simp] theorem AtomOp.ofCode_code (x : AtomOp) : AtomOp.ofCode x.code = Option.some x := by cases x <;> rfl
@[simp] theorem ShflMode.ofCode_code (x : ShflMode) : ShflMode.ofCode x.code = Option.some x := by cases x <;> rfl
@[simp] theorem ShflRel.ofCode_code (x : ShflRel) : ShflRel.ofCode x.code = Option.some x := by cases x <;> rfl
@[simp] theorem LredOp.ofCode_code (x : LredOp) : LredOp.ofCode x.code = Option.some x := by cases x <;> rfl
@[simp] theorem LredForm.ofCode_code (x : LredForm) : LredForm.ofCode x.code = Option.some x := by cases x <;> rfl
@[simp] theorem VoteKind.ofCode_code (x : VoteKind) : VoteKind.ofCode x.code = Option.some x := by cases x <;> rfl
@[simp] theorem FillSize.ofCode_code (x : FillSize) : FillSize.ofCode x.code = Option.some x := by cases x <;> rfl
@[simp] theorem MFmt.ofCode_code (x : MFmt) : MFmt.ofCode x.code = Option.some x := by cases x <;> rfl
@[simp] theorem ChSize.ofCode_code (x : ChSize) : ChSize.ofCode x.code = Option.some x := by cases x <;> rfl
@[simp] theorem RedType.ofCode_code (x : RedType) : RedType.ofCode x.code = Option.some x := by cases x <;> rfl
@[simp] theorem RedOp.ofCode_code (x : RedOp) : RedOp.ofCode x.code = Option.some x := by cases x <;> rfl

end Sys2Proof
end

