-- ==== Sys2Proof/Laws/Fields.lean ====
section
/-! SUPPORT. Every bit-field record is read back from the word it is packed in. -/
namespace Sys2Proof

theorem fld_toNat (x lo n : Nat) : (fld x lo n).toNat = x / 2 ^ lo % 2 ^ n := by simp [fld]

theorem fld_eq {n : Nat} (x lo : Nat) (v : BitVec n) (h : x / 2 ^ lo % 2 ^ n = v.toNat) : fld x lo n = v :=
  BitVec.eq_of_toNat_eq (by rw [fld_toNat, h])

theorem flag_eq (x lo : Nat) (b : Bool) (h : x / 2 ^ lo % 2 = b.toNat) : flag x lo = b := by
  cases b <;> simp_all [flag]

theorem Fields.toNat_lt (r : Fields) : r.toNat < 2 ^ 96 := by
  cases r with | mk opc g h k d a b c m =>
  have h_opc := opc.isLt
  have h_g := g.isLt
  have h_h := h.isLt
  have h_k := k.isLt
  have h_d := d.isLt
  have h_a := a.isLt
  have h_b := b.isLt
  have h_c := c.isLt
  have h_m := m.isLt
  simp only [Fields.toNat]
  omega

@[simp] theorem Fields.ofNat_toNat (r : Fields) : Fields.ofNat r.toNat = r := by
  cases r with | mk opc g h k d a b c m =>
  have h_opc := opc.isLt
  have h_g := g.isLt
  have h_h := h.isLt
  have h_k := k.isLt
  have h_d := d.isLt
  have h_a := a.isLt
  have h_b := b.isLt
  have h_c := c.isLt
  have h_m := m.isLt
  simp only [Fields.ofNat, Fields.toNat, Fields.mk.injEq]
  refine ⟨?_, ?_, ?_, ?_, ?_, ?_, ?_, ?_, ?_⟩ <;> (apply fld_eq; omega)

theorem M0.toNat_lt (r : M0) : r.toNat < 2 ^ 34 := by
  cases r with | mk ty sub sat rsv imm =>
  have h_ty := ty.isLt
  have h_sub := sub.isLt
  have h_sat := Bool.toNat_lt sat
  have h_rsv := rsv.isLt
  have h_imm := imm.isLt
  simp only [M0.toNat]
  omega

@[simp] theorem M0.ofNat_toNat (r : M0) : M0.ofNat r.toNat = r := by
  cases r with | mk ty sub sat rsv imm =>
  have h_ty := ty.isLt
  have h_sub := sub.isLt
  have h_sat := Bool.toNat_lt sat
  have h_rsv := rsv.isLt
  have h_imm := imm.isLt
  simp only [M0.ofNat, M0.toNat, M0.mk.injEq]
  refine ⟨?_, ?_, ?_, ?_, ?_⟩ <;> first | (apply fld_eq; omega) | (apply flag_eq; omega)

theorem M1.toNat_lt (r : M1) : r.toNat < 2 ^ 34 := by
  cases r with | mk ty rnd ftz sub rsv imm =>
  have h_ty := ty.isLt
  have h_rnd := rnd.isLt
  have h_ftz := Bool.toNat_lt ftz
  have h_sub := sub.isLt
  have h_rsv := rsv.isLt
  have h_imm := imm.isLt
  simp only [M1.toNat]
  omega

@[simp] theorem M1.ofNat_toNat (r : M1) : M1.ofNat r.toNat = r := by
  cases r with | mk ty rnd ftz sub rsv imm =>
  have h_ty := ty.isLt
  have h_rnd := rnd.isLt
  have h_ftz := Bool.toNat_lt ftz
  have h_sub := sub.isLt
  have h_rsv := rsv.isLt
  have h_imm := imm.isLt
  simp only [M1.ofNat, M1.toNat, M1.mk.injEq]
  refine ⟨?_, ?_, ?_, ?_, ?_, ?_⟩ <;> first | (apply fld_eq; omega) | (apply flag_eq; omega)

theorem M2.toNat_lt (r : M2) : r.toNat < 2 ^ 34 := by
  cases r with | mk df sf rnd ftz sat x2 imm =>
  have h_df := df.isLt
  have h_sf := sf.isLt
  have h_rnd := rnd.isLt
  have h_ftz := Bool.toNat_lt ftz
  have h_sat := Bool.toNat_lt sat
  have h_x2 := Bool.toNat_lt x2
  have h_imm := imm.isLt
  simp only [M2.toNat]
  omega

@[simp] theorem M2.ofNat_toNat (r : M2) : M2.ofNat r.toNat = r := by
  cases r with | mk df sf rnd ftz sat x2 imm =>
  have h_df := df.isLt
  have h_sf := sf.isLt
  have h_rnd := rnd.isLt
  have h_ftz := Bool.toNat_lt ftz
  have h_sat := Bool.toNat_lt sat
  have h_x2 := Bool.toNat_lt x2
  have h_imm := imm.isLt
  simp only [M2.ofNat, M2.toNat, M2.mk.injEq]
  refine ⟨?_, ?_, ?_, ?_, ?_, ?_, ?_⟩ <;> first | (apply fld_eq; omega) | (apply flag_eq; omega)

theorem M3.toNat_lt (r : M3) : r.toNat < 2 ^ 34 := by
  cases r with | mk w64 rsv func imm =>
  have h_w64 := Bool.toNat_lt w64
  have h_rsv := rsv.isLt
  have h_func := func.isLt
  have h_imm := imm.isLt
  simp only [M3.toNat]
  omega

@[simp] theorem M3.ofNat_toNat (r : M3) : M3.ofNat r.toNat = r := by
  cases r with | mk w64 rsv func imm =>
  have h_w64 := Bool.toNat_lt w64
  have h_rsv := rsv.isLt
  have h_func := func.isLt
  have h_imm := imm.isLt
  simp only [M3.ofNat, M3.toNat, M3.mk.injEq]
  refine ⟨?_, ?_, ?_, ?_⟩ <;> first | (apply fld_eq; omega) | (apply flag_eq; omega)

theorem M4.toNat_lt (r : M4) : r.toNat < 2 ^ 34 := by
  cases r with | mk sub arg6 off =>
  have h_sub := sub.isLt
  have h_arg6 := arg6.isLt
  have h_off := off.isLt
  simp only [M4.toNat]
  omega

@[simp] theorem M4.ofNat_toNat (r : M4) : M4.ofNat r.toNat = r := by
  cases r with | mk sub arg6 off =>
  have h_sub := sub.isLt
  have h_arg6 := arg6.isLt
  have h_off := off.isLt
  simp only [M4.ofNat, M4.toNat, M4.mk.injEq]
  refine ⟨?_, ?_, ?_⟩ <;> (apply fld_eq; omega)

theorem M5.toNat_lt (r : M5) : r.toNat < 2 ^ 34 := by
  cases r with | mk size scope order space opx scale disp =>
  have h_size := size.isLt
  have h_scope := scope.isLt
  have h_order := order.isLt
  have h_space := space.isLt
  have h_opx := opx.isLt
  have h_scale := scale.isLt
  have h_disp := disp.isLt
  simp only [M5.toNat]
  omega

@[simp] theorem M5.ofNat_toNat (r : M5) : M5.ofNat r.toNat = r := by
  cases r with | mk size scope order space opx scale disp =>
  have h_size := size.isLt
  have h_scope := scope.isLt
  have h_order := order.isLt
  have h_space := space.isLt
  have h_opx := opx.isLt
  have h_scale := scale.isLt
  have h_disp := disp.isLt
  simp only [M5.ofNat, M5.toNat, M5.mk.injEq]
  refine ⟨?_, ?_, ?_, ?_, ?_, ?_, ?_⟩ <;> (apply fld_eq; omega)

theorem M7.toNat_lt (r : M7) : r.toNat < 2 ^ 34 := by
  cases r with | mk bar obj sub imm =>
  have h_bar := bar.isLt
  have h_obj := Bool.toNat_lt obj
  have h_sub := sub.isLt
  have h_imm := imm.isLt
  simp only [M7.toNat]
  omega

@[simp] theorem M7.ofNat_toNat (r : M7) : M7.ofNat r.toNat = r := by
  cases r with | mk bar obj sub imm =>
  have h_bar := bar.isLt
  have h_obj := Bool.toNat_lt obj
  have h_sub := sub.isLt
  have h_imm := imm.isLt
  simp only [M7.ofNat, M7.toNat, M7.mk.injEq]
  refine ⟨?_, ?_, ?_, ?_⟩ <;> first | (apply fld_eq; omega) | (apply flag_eq; omega)

theorem M8.toNat_lt (r : M8) : r.toNat < 2 ^ 34 := by
  cases r with | mk bar arv rsv arg =>
  have h_bar := bar.isLt
  have h_arv := Bool.toNat_lt arv
  have h_rsv := rsv.isLt
  have h_arg := arg.isLt
  simp only [M8.toNat]
  omega

@[simp] theorem M8.ofNat_toNat (r : M8) : M8.ofNat r.toNat = r := by
  cases r with | mk bar arv rsv arg =>
  have h_bar := bar.isLt
  have h_arv := Bool.toNat_lt arv
  have h_rsv := rsv.isLt
  have h_arg := arg.isLt
  simp only [M8.ofNat, M8.toNat, M8.mk.injEq]
  refine ⟨?_, ?_, ?_, ?_⟩ <;> first | (apply fld_eq; omega) | (apply flag_eq; omega)

theorem M9.toNat_lt (r : M9) : r.toNat < 2 ^ 34 := by
  cases r with | mk bar fmt tr arg =>
  have h_bar := bar.isLt
  have h_fmt := fmt.isLt
  have h_tr := Bool.toNat_lt tr
  have h_arg := arg.isLt
  simp only [M9.toNat]
  omega

@[simp] theorem M9.ofNat_toNat (r : M9) : M9.ofNat r.toNat = r := by
  cases r with | mk bar fmt tr arg =>
  have h_bar := bar.isLt
  have h_fmt := fmt.isLt
  have h_tr := Bool.toNat_lt tr
  have h_arg := arg.isLt
  simp only [M9.ofNat, M9.toNat, M9.mk.injEq]
  refine ⟨?_, ?_, ?_, ?_⟩ <;> first | (apply fld_eq; omega) | (apply flag_eq; omega)

theorem MA.toNat_lt (r : MA) : r.toNat < 2 ^ 34 := by
  cases r with | mk bar arg =>
  have h_bar := bar.isLt
  have h_arg := arg.isLt
  simp only [MA.toNat]
  omega

@[simp] theorem MA.ofNat_toNat (r : MA) : MA.ofNat r.toNat = r := by
  cases r with | mk bar arg =>
  have h_bar := bar.isLt
  have h_arg := arg.isLt
  simp only [MA.ofNat, MA.toNat, MA.mk.injEq]
  refine ⟨?_, ?_⟩ <;> (apply fld_eq; omega)

theorem MB.toNat_lt (r : MB) : r.toNat < 2 ^ 34 := by
  cases r with | mk t sub arg =>
  have h_t := Bool.toNat_lt t
  have h_sub := sub.isLt
  have h_arg := arg.isLt
  simp only [MB.toNat]
  omega

@[simp] theorem MB.ofNat_toNat (r : MB) : MB.ofNat r.toNat = r := by
  cases r with | mk t sub arg =>
  have h_t := Bool.toNat_lt t
  have h_sub := sub.isLt
  have h_arg := arg.isLt
  simp only [MB.ofNat, MB.toNat, MB.mk.injEq]
  refine ⟨?_, ?_, ?_⟩ <;> first | (apply fld_eq; omega) | (apply flag_eq; omega)

theorem MD.toNat_lt (r : MD) : r.toNat < 2 ^ 34 := by
  cases r with | mk ty rop arg =>
  have h_ty := ty.isLt
  have h_rop := rop.isLt
  have h_arg := arg.isLt
  simp only [MD.toNat]
  omega

@[simp] theorem MD.ofNat_toNat (r : MD) : MD.ofNat r.toNat = r := by
  cases r with | mk ty rop arg =>
  have h_ty := ty.isLt
  have h_rop := rop.isLt
  have h_arg := arg.isLt
  simp only [MD.ofNat, MD.toNat, MD.mk.injEq]
  refine ⟨?_, ?_, ?_⟩ <;> (apply fld_eq; omega)

theorem Arg9Stream.toNat_lt (r : Arg9Stream) : r.toNat < 2 ^ 23 := by
  cases r with | mk rsv ow rows =>
  have h_rsv := rsv.isLt
  have h_ow := Bool.toNat_lt ow
  have h_rows := rows.isLt
  simp only [Arg9Stream.toNat]
  omega

@[simp] theorem Arg9Stream.ofNat_toNat (r : Arg9Stream) : Arg9Stream.ofNat r.toNat = r := by
  cases r with | mk rsv ow rows =>
  have h_rsv := rsv.isLt
  have h_ow := Bool.toNat_lt ow
  have h_rows := rows.isLt
  simp only [Arg9Stream.ofNat, Arg9Stream.toNat, Arg9Stream.mk.injEq]
  refine ⟨?_, ?_, ?_⟩ <;> first | (apply fld_eq; omega) | (apply flag_eq; omega)

theorem Arg9Load.toNat_lt (r : Arg9Load) : r.toNat < 2 ^ 23 := by
  cases r with | mk rsv sp n1 k1 =>
  have h_rsv := rsv.isLt
  have h_sp := Bool.toNat_lt sp
  have h_n1 := n1.isLt
  have h_k1 := k1.isLt
  simp only [Arg9Load.toNat]
  omega

@[simp] theorem Arg9Load.ofNat_toNat (r : Arg9Load) : Arg9Load.ofNat r.toNat = r := by
  cases r with | mk rsv sp n1 k1 =>
  have h_rsv := rsv.isLt
  have h_sp := Bool.toNat_lt sp
  have h_n1 := n1.isLt
  have h_k1 := k1.isLt
  simp only [Arg9Load.ofNat, Arg9Load.toNat, Arg9Load.mk.injEq]
  refine ⟨?_, ?_, ?_, ?_⟩ <;> first | (apply fld_eq; omega) | (apply flag_eq; omega)

theorem Arg9Read.toNat_lt (r : Arg9Read) : r.toNat < 2 ^ 23 := by
  cases r with | mk rsv ai clr dsp sat rnd ofmt rows =>
  have h_rsv := rsv.isLt
  have h_ai := Bool.toNat_lt ai
  have h_clr := Bool.toNat_lt clr
  have h_dsp := Bool.toNat_lt dsp
  have h_sat := Bool.toNat_lt sat
  have h_rnd := rnd.isLt
  have h_ofmt := ofmt.isLt
  have h_rows := rows.isLt
  simp only [Arg9Read.toNat]
  omega

@[simp] theorem Arg9Read.ofNat_toNat (r : Arg9Read) : Arg9Read.ofNat r.toNat = r := by
  cases r with | mk rsv ai clr dsp sat rnd ofmt rows =>
  have h_rsv := rsv.isLt
  have h_ai := Bool.toNat_lt ai
  have h_clr := Bool.toNat_lt clr
  have h_dsp := Bool.toNat_lt dsp
  have h_sat := Bool.toNat_lt sat
  have h_rnd := rnd.isLt
  have h_ofmt := ofmt.isLt
  have h_rows := rows.isLt
  simp only [Arg9Read.ofNat, Arg9Read.toNat, Arg9Read.mk.injEq]
  refine ⟨?_, ?_, ?_, ?_, ?_, ?_, ?_, ?_⟩ <;> first | (apply fld_eq; omega) | (apply flag_eq; omega)

theorem Arg9Acc.toNat_lt (r : Arg9Acc) : r.toNat < 2 ^ 23 := by
  cases r with | mk rsvHi ssp rsvLo rows =>
  have h_rsvHi := rsvHi.isLt
  have h_ssp := Bool.toNat_lt ssp
  have h_rsvLo := rsvLo.isLt
  have h_rows := rows.isLt
  simp only [Arg9Acc.toNat]
  omega

@[simp] theorem Arg9Acc.ofNat_toNat (r : Arg9Acc) : Arg9Acc.ofNat r.toNat = r := by
  cases r with | mk rsvHi ssp rsvLo rows =>
  have h_rsvHi := rsvHi.isLt
  have h_ssp := Bool.toNat_lt ssp
  have h_rsvLo := rsvLo.isLt
  have h_rows := rows.isLt
  simp only [Arg9Acc.ofNat, Arg9Acc.toNat, Arg9Acc.mk.injEq]
  refine ⟨?_, ?_, ?_, ?_⟩ <;> first | (apply fld_eq; omega) | (apply flag_eq; omega)

theorem Arg8.toNat_lt (r : Arg8) : r.toNat < 2 ^ 24 := by
  cases r with | mk hi b3 b2 b1 b0 =>
  have h_hi := hi.isLt
  have h_b3 := Bool.toNat_lt b3
  have h_b2 := Bool.toNat_lt b2
  have h_b1 := Bool.toNat_lt b1
  have h_b0 := Bool.toNat_lt b0
  simp only [Arg8.toNat]
  omega

@[simp] theorem Arg8.ofNat_toNat (r : Arg8) : Arg8.ofNat r.toNat = r := by
  cases r with | mk hi b3 b2 b1 b0 =>
  have h_hi := hi.isLt
  have h_b3 := Bool.toNat_lt b3
  have h_b2 := Bool.toNat_lt b2
  have h_b1 := Bool.toNat_lt b1
  have h_b0 := Bool.toNat_lt b0
  simp only [Arg8.ofNat, Arg8.toNat, Arg8.mk.injEq]
  refine ⟨?_, ?_, ?_, ?_, ?_⟩ <;> first | (apply fld_eq; omega) | (apply flag_eq; omega)

theorem ShflSub.toNat_lt (r : ShflSub) : r.toNat < 2 ^ 7 := by
  cases r with | mk rsv w64 rel mode =>
  have h_rsv := rsv.isLt
  have h_w64 := Bool.toNat_lt w64
  have h_rel := rel.isLt
  have h_mode := mode.isLt
  simp only [ShflSub.toNat]
  omega

@[simp] theorem ShflSub.ofNat_toNat (r : ShflSub) : ShflSub.ofNat r.toNat = r := by
  cases r with | mk rsv w64 rel mode =>
  have h_rsv := rsv.isLt
  have h_w64 := Bool.toNat_lt w64
  have h_rel := rel.isLt
  have h_mode := mode.isLt
  simp only [ShflSub.ofNat, ShflSub.toNat, ShflSub.mk.injEq]
  refine ⟨?_, ?_, ?_, ?_⟩ <;> first | (apply fld_eq; omega) | (apply flag_eq; omega)

theorem LredSub.toNat_lt (r : LredSub) : r.toNat < 2 ^ 7 := by
  cases r with | mk w64 form op =>
  have h_w64 := Bool.toNat_lt w64
  have h_form := form.isLt
  have h_op := op.isLt
  simp only [LredSub.toNat]
  omega

@[simp] theorem LredSub.ofNat_toNat (r : LredSub) : LredSub.ofNat r.toNat = r := by
  cases r with | mk w64 form op =>
  have h_w64 := Bool.toNat_lt w64
  have h_form := form.isLt
  have h_op := op.isLt
  simp only [LredSub.ofNat, LredSub.toNat, LredSub.mk.injEq]
  refine ⟨?_, ?_, ?_⟩ <;> first | (apply fld_eq; omega) | (apply flag_eq; omega)

theorem Entry.toNat_lt (r : Entry) : r.toNat < 2 ^ 96 := by
  cases r with | mk opc rsvG bud rsvD spad bars rsvC spwn sup sect callable kern index rsvM =>
  have h_opc := opc.isLt
  have h_rsvG := rsvG.isLt
  have h_bud := bud.isLt
  have h_rsvD := rsvD.isLt
  have h_spad := spad.isLt
  have h_bars := bars.isLt
  have h_rsvC := rsvC.isLt
  have h_spwn := Bool.toNat_lt spwn
  have h_sup := Bool.toNat_lt sup
  have h_sect := Bool.toNat_lt sect
  have h_callable := Bool.toNat_lt callable
  have h_kern := Bool.toNat_lt kern
  have h_index := index.isLt
  have h_rsvM := rsvM.isLt
  simp only [Entry.toNat]
  omega

@[simp] theorem Entry.ofNat_toNat (r : Entry) : Entry.ofNat r.toNat = r := by
  cases r with | mk opc rsvG bud rsvD spad bars rsvC spwn sup sect callable kern index rsvM =>
  have h_opc := opc.isLt
  have h_rsvG := rsvG.isLt
  have h_bud := bud.isLt
  have h_rsvD := rsvD.isLt
  have h_spad := spad.isLt
  have h_bars := bars.isLt
  have h_rsvC := rsvC.isLt
  have h_spwn := Bool.toNat_lt spwn
  have h_sup := Bool.toNat_lt sup
  have h_sect := Bool.toNat_lt sect
  have h_callable := Bool.toNat_lt callable
  have h_kern := Bool.toNat_lt kern
  have h_index := index.isLt
  have h_rsvM := rsvM.isLt
  simp only [Entry.ofNat, Entry.toNat, Entry.mk.injEq]
  refine ⟨?_, ?_, ?_, ?_, ?_, ?_, ?_, ?_, ?_, ?_, ?_, ?_, ?_, ?_⟩ <;> first | (apply fld_eq; omega) | (apply flag_eq; omega)

end Sys2Proof
end

