-- ==== Sys2Proof/Laws/Maps.lean ====
section
/-! SUPPORT. What reading a keyed list gives after a write, and that writes keep the canonical form. -/
namespace Sys2Proof

theorem AMap.get?_set {α : Type} (m : AMap α) (k j : Nat) (v : α) :
    AMap.get? (AMap.set m k v) j = if j = k then some v else AMap.get? m j := by
  induction m with
  | nil => simp only [AMap.set, AMap.get?]; split <;> split <;> simp_all <;> omega
  | cons c m ih =>
    obtain ⟨k', v'⟩ := c
    simp only [AMap.set]
    split
    · simp only [AMap.get?]; repeat' split
      all_goals first | rfl | omega
    · split
      · simp only [AMap.get?]; repeat' split
        all_goals first | rfl | omega
      · simp only [AMap.get?, ih]; repeat' split
        all_goals first | rfl | omega

@[simp] theorem AMap.getD_set_self {α : Type} (m : AMap α) (k : Nat) (v d : α) :
    AMap.getD (AMap.set m k v) k d = v := by simp [AMap.getD, AMap.get?_set]

theorem AMap.getD_set_of_ne {α : Type} (m : AMap α) {k j : Nat} (v d : α) (h : j ≠ k) :
    AMap.getD (AMap.set m k v) j d = AMap.getD m j d := by simp [AMap.getD, AMap.get?_set, h]

theorem AMap.sortedFrom_get? {α : Type} (m : AMap α) (l k : Nat) (hs : AMap.sortedFrom (some l) m = true) (h : k ≤ l) :
    AMap.get? m k = none := by
  induction m generalizing l with
  | nil => rfl
  | cons c m ih =>
    obtain ⟨k', v'⟩ := c
    simp only [AMap.sortedFrom, Bool.and_eq_true, decide_eq_true_eq] at hs
    simp only [AMap.get?]
    have : ¬ k' = k := by omega
    have : k < k' := by omega
    simp [*]

theorem AMap.sortedFrom_none {α : Type} (m : AMap α) (l : Nat) (hs : AMap.sortedFrom (some l) m = true) :
    AMap.sorted m = true := by
  cases m with
  | nil => rfl
  | cons c m =>
    obtain ⟨k', v'⟩ := c
    simp only [AMap.sortedFrom, Bool.and_eq_true] at hs
    exact hs.2

theorem AMap.get?_erase {α : Type} (m : AMap α) (hs : AMap.sorted m = true) (k j : Nat) :
    AMap.get? (AMap.erase m k) j = if j = k then none else AMap.get? m j := by
  induction m with
  | nil => simp [AMap.erase, AMap.get?]
  | cons c m ih =>
    obtain ⟨k', v'⟩ := c
    have hm : AMap.sortedFrom (some k') m = true := hs
    have hm' := AMap.sortedFrom_none m k' hm
    simp only [AMap.erase]
    split
    · rename_i he
      subst he
      split
      · rename_i hj
        subst hj
        exact AMap.sortedFrom_get? m j j hm (Nat.le_refl j)
      · rename_i hj
        simp only [AMap.get?]
        repeat' split
        · omega
        · exact AMap.sortedFrom_get? m k' j hm (by omega)
        · rfl
    · split
      · simp only [AMap.get?]; repeat' split
        all_goals first | rfl | omega
      · simp only [AMap.get?, ih hm']; repeat' split
        all_goals first | rfl | omega

theorem AMap.sortedFrom_set {α : Type} (m : AMap α) (l k : Nat) (v : α) (hs : AMap.sortedFrom (some l) m = true)
    (h : l < k) : AMap.sortedFrom (some l) (AMap.set m k v) = true := by
  induction m generalizing l with
  | nil => simp [AMap.set, AMap.sortedFrom, h]
  | cons c m ih =>
    obtain ⟨k', v'⟩ := c
    simp only [AMap.sortedFrom, Bool.and_eq_true, decide_eq_true_eq] at hs
    simp only [AMap.set]
    repeat' split
    · simp only [AMap.sortedFrom, Bool.and_eq_true, decide_eq_true_eq]; exact ⟨h, by omega, hs.2⟩
    · rename_i he; subst he
      simp only [AMap.sortedFrom, Bool.and_eq_true, decide_eq_true_eq]; exact ⟨h, hs.2⟩
    · simp only [AMap.sortedFrom, Bool.and_eq_true, decide_eq_true_eq]
      exact ⟨hs.1, ih k' hs.2 (by omega)⟩

theorem AMap.sorted_set {α : Type} (m : AMap α) (k : Nat) (v : α) (hs : AMap.sorted m = true) :
    AMap.sorted (AMap.set m k v) = true := by
  cases m with
  | nil => rfl
  | cons c m =>
    obtain ⟨k', v'⟩ := c
    have hm : AMap.sortedFrom (some k') m = true := hs
    simp only [AMap.set]
    repeat' split
    · simp only [AMap.sorted, AMap.sortedFrom, Bool.and_eq_true, decide_eq_true_eq]; exact ⟨by assumption, hm⟩
    · rename_i he; subst he; exact hm
    · exact AMap.sortedFrom_set m k' k v hm (by omega)

theorem AMap.sortedFrom_weaken {α : Type} (m : AMap α) (l l' : Nat) (h : l' ≤ l)
    (hs : AMap.sortedFrom (some l) m = true) : AMap.sortedFrom (some l') m = true := by
  cases m with
  | nil => rfl
  | cons c m =>
    simp only [AMap.sortedFrom, Bool.and_eq_true, decide_eq_true_eq] at hs ⊢
    exact ⟨by omega, hs.2⟩

theorem AMap.sortedFrom_erase {α : Type} (m : AMap α) (l k : Nat) (hs : AMap.sortedFrom (some l) m = true) :
    AMap.sortedFrom (some l) (AMap.erase m k) = true := by
  induction m generalizing l with
  | nil => rfl
  | cons c m ih =>
    obtain ⟨k', v'⟩ := c
    simp only [AMap.sortedFrom, Bool.and_eq_true, decide_eq_true_eq] at hs
    simp only [AMap.erase]
    repeat' split
    · exact AMap.sortedFrom_weaken m k' l (by omega) hs.2
    · simp only [AMap.sortedFrom, Bool.and_eq_true, decide_eq_true_eq]; exact hs
    · simp only [AMap.sortedFrom, Bool.and_eq_true, decide_eq_true_eq]; exact ⟨hs.1, ih k' hs.2⟩

theorem AMap.sorted_erase {α : Type} (m : AMap α) (k : Nat) (hs : AMap.sorted m = true) :
    AMap.sorted (AMap.erase m k) = true := by
  cases m with
  | nil => rfl
  | cons c m =>
    obtain ⟨k', v'⟩ := c
    have hm : AMap.sortedFrom (some k') m = true := hs
    simp only [AMap.erase]
    repeat' split
    · exact AMap.sortedFrom_none m k' hm
    · exact hm
    · exact AMap.sortedFrom_erase m k' k hm

theorem AMap.mem_of_mem_set {α : Type} (m : AMap α) (k : Nat) (v : α) (c : Nat × α) (h : c ∈ AMap.set m k v) :
    c = (k, v) ∨ c ∈ m := by
  induction m with
  | nil => simpa [AMap.set] using h
  | cons c' m ih =>
    obtain ⟨k', v'⟩ := c'
    simp only [AMap.set] at h
    split at h
    · simpa using h
    · split at h
      · simp only [List.mem_cons] at h ⊢; tauto
      · simp only [List.mem_cons] at h ⊢
        rcases h with h | h
        · exact .inr (.inl h)
        · rcases ih h with h | h
          · exact .inl h
          · exact .inr (.inr h)

theorem AMap.mem_of_mem_erase {α : Type} (m : AMap α) (k : Nat) (c : Nat × α) (h : c ∈ AMap.erase m k) : c ∈ m := by
  induction m with
  | nil => exact h
  | cons c' m ih =>
    obtain ⟨k', v'⟩ := c'
    simp only [AMap.erase] at h
    split at h
    · exact List.mem_cons_of_mem _ h
    · split at h
      · exact h
      · simp only [List.mem_cons] at h ⊢
        rcases h with h | h
        · exact .inl h
        · exact .inr (ih h)

/-- A cell write keeps the canonical form. -/
theorem cellsWf_cellSet {α : Type} [DecidableEq α] (m : AMap α) (d : α) (a : Nat) (v : α)
    (h : cellsWf m d = true) : cellsWf (cellSet m d a v) d = true := by
  simp only [cellsWf, Bool.and_eq_true, List.all_eq_true, decide_eq_true_eq] at h ⊢
  unfold cellSet
  split
  · exact ⟨AMap.sorted_erase m a h.1, fun c hc => h.2 c (AMap.mem_of_mem_erase m a c hc)⟩
  · refine ⟨AMap.sorted_set m a v h.1, fun c hc => ?_⟩
    rcases AMap.mem_of_mem_set m a v c hc with rfl | hc
    · assumption
    · exact h.2 c hc

/-- Reading a cell after a write. -/
theorem cellGet_cellSet {α : Type} [DecidableEq α] (m : AMap α) (d : α) (a b : Nat) (v : α)
    (h : cellsWf m d = true) : cellGet (cellSet m d a v) d b = if b = a then v else cellGet m d b := by
  have hs : AMap.sorted m = true := by
    simp only [cellsWf, Bool.and_eq_true] at h; exact h.1
  unfold cellGet cellSet AMap.getD
  split
  · rename_i hv
    rw [AMap.get?_erase m hs]
    split <;> simp_all
  · rw [AMap.get?_set]
    split <;> simp

end Sys2Proof
end

