-- ==== Sys2Proof/Laws/State.lean ====
section
/-! SUPPORT. What each update of State leaves: one clause per field, every clause a rewriting rule of its own; and what
reads of threads, groups, launches, cores, clusters, dies and perches give after an update. -/
namespace Sys2Proof.Machine

/-- Only `threads` differs after a thread replaced. -/
@[simp] theorem State.setThread_frame (s : State) (k : Nat) (x : Thread) :
    (s.setThread k x).cur = s.cur ∧ (s.setThread k x).retry = s.retry ∧ (s.setThread k x).issue = s.issue ∧
    (s.setThread k x).agenda = s.agenda ∧ (s.setThread k x).choices = s.choices ∧ (s.setThread k x).free = s.free ∧
    (s.setThread k x).loaderPages = s.loaderPages ∧ (s.setThread k x).nextLaunch = s.nextLaunch ∧
    (s.setThread k x).nextAge = s.nextAge ∧ (s.setThread k x).nextOp = s.nextOp ∧
    (s.setThread k x).nextAdmit = s.nextAdmit ∧ (s.setThread k x).timebase = s.timebase ∧
    (s.setThread k x).mem = s.mem ∧ (s.setThread k x).groups = s.groups ∧ (s.setThread k x).launches = s.launches ∧
    (s.setThread k x).cores = s.cores ∧ (s.setThread k x).clusters = s.clusters ∧ (s.setThread k x).dies = s.dies ∧
    (s.setThread k x).perches = s.perches ∧ (s.setThread k x).landings = s.landings ∧
    (s.setThread k x).forwarded = s.forwarded ∧ (s.setThread k x).releases = s.releases ∧
    (s.setThread k x).walked = s.walked ∧ (s.setThread k x).shipFlights = s.shipFlights ∧
    (s.setThread k x).shipResults = s.shipResults ∧ (s.setThread k x).root = s.root ∧
    (s.setThread k x).keys = s.keys ∧ (s.setThread k x).clusterOff = s.clusterOff ∧
    (s.setThread k x).coreOff = s.coreOff ∧ (s.setThread k x).laneOff = s.laneOff ∧ (s.setThread k x).pcb = s.pcb ∧
    (s.setThread k x).device = s.device ∧ (s.setThread k x).rollback = s.rollback ∧
    (s.setThread k x).fwDigest = s.fwDigest ∧ (s.setThread k x).fwRollback = s.fwRollback ∧
    (s.setThread k x).incarnation = s.incarnation ∧ (s.setThread k x).sendChans = s.sendChans ∧
    (s.setThread k x).recvChans = s.recvChans ∧ (s.setThread k x).peerIncs = s.peerIncs ∧
    (s.setThread k x).endedIncs = s.endedIncs ∧ (s.setThread k x).remotes = s.remotes ∧
    (s.setThread k x).noteWaits = s.noteWaits ∧ (s.setThread k x).futWaits = s.futWaits ∧
    (s.setThread k x).ports = s.ports ∧ (s.setThread k x).cgroups = s.cgroups ∧
    (s.setThread k x).lostSpines = s.lostSpines ∧ (s.setThread k x).hostQueues = s.hostQueues ∧
    (s.setThread k x).hostReplies = s.hostReplies := by
  simp [State.setThread]

/-- Only `threads` differs after a thread changed. -/
@[simp] theorem State.modThread_frame (s : State) (k : Nat) (f : Thread → Thread) :
    (s.modThread k f).cur = s.cur ∧ (s.modThread k f).retry = s.retry ∧ (s.modThread k f).issue = s.issue ∧
    (s.modThread k f).agenda = s.agenda ∧ (s.modThread k f).choices = s.choices ∧ (s.modThread k f).free = s.free ∧
    (s.modThread k f).loaderPages = s.loaderPages ∧ (s.modThread k f).nextLaunch = s.nextLaunch ∧
    (s.modThread k f).nextAge = s.nextAge ∧ (s.modThread k f).nextOp = s.nextOp ∧
    (s.modThread k f).nextAdmit = s.nextAdmit ∧ (s.modThread k f).timebase = s.timebase ∧
    (s.modThread k f).mem = s.mem ∧ (s.modThread k f).groups = s.groups ∧ (s.modThread k f).launches = s.launches ∧
    (s.modThread k f).cores = s.cores ∧ (s.modThread k f).clusters = s.clusters ∧ (s.modThread k f).dies = s.dies ∧
    (s.modThread k f).perches = s.perches ∧ (s.modThread k f).landings = s.landings ∧
    (s.modThread k f).forwarded = s.forwarded ∧ (s.modThread k f).releases = s.releases ∧
    (s.modThread k f).walked = s.walked ∧ (s.modThread k f).shipFlights = s.shipFlights ∧
    (s.modThread k f).shipResults = s.shipResults ∧ (s.modThread k f).root = s.root ∧
    (s.modThread k f).keys = s.keys ∧ (s.modThread k f).clusterOff = s.clusterOff ∧
    (s.modThread k f).coreOff = s.coreOff ∧ (s.modThread k f).laneOff = s.laneOff ∧ (s.modThread k f).pcb = s.pcb ∧
    (s.modThread k f).device = s.device ∧ (s.modThread k f).rollback = s.rollback ∧
    (s.modThread k f).fwDigest = s.fwDigest ∧ (s.modThread k f).fwRollback = s.fwRollback ∧
    (s.modThread k f).incarnation = s.incarnation ∧ (s.modThread k f).sendChans = s.sendChans ∧
    (s.modThread k f).recvChans = s.recvChans ∧ (s.modThread k f).peerIncs = s.peerIncs ∧
    (s.modThread k f).endedIncs = s.endedIncs ∧ (s.modThread k f).remotes = s.remotes ∧
    (s.modThread k f).noteWaits = s.noteWaits ∧ (s.modThread k f).futWaits = s.futWaits ∧
    (s.modThread k f).ports = s.ports ∧ (s.modThread k f).cgroups = s.cgroups ∧
    (s.modThread k f).lostSpines = s.lostSpines ∧ (s.modThread k f).hostQueues = s.hostQueues ∧
    (s.modThread k f).hostReplies = s.hostReplies := by
  unfold State.modThread
  split <;> simp [State.setThread]

/-- Only `groups` differs after a group replaced. -/
@[simp] theorem State.setGroup_frame (s : State) (k : Nat) (x : Group) :
    (s.setGroup k x).cur = s.cur ∧ (s.setGroup k x).retry = s.retry ∧ (s.setGroup k x).issue = s.issue ∧
    (s.setGroup k x).agenda = s.agenda ∧ (s.setGroup k x).choices = s.choices ∧ (s.setGroup k x).free = s.free ∧
    (s.setGroup k x).loaderPages = s.loaderPages ∧ (s.setGroup k x).nextLaunch = s.nextLaunch ∧
    (s.setGroup k x).nextAge = s.nextAge ∧ (s.setGroup k x).nextOp = s.nextOp ∧
    (s.setGroup k x).nextAdmit = s.nextAdmit ∧ (s.setGroup k x).timebase = s.timebase ∧
    (s.setGroup k x).mem = s.mem ∧ (s.setGroup k x).threads = s.threads ∧ (s.setGroup k x).launches = s.launches ∧
    (s.setGroup k x).cores = s.cores ∧ (s.setGroup k x).clusters = s.clusters ∧ (s.setGroup k x).dies = s.dies ∧
    (s.setGroup k x).perches = s.perches ∧ (s.setGroup k x).landings = s.landings ∧
    (s.setGroup k x).forwarded = s.forwarded ∧ (s.setGroup k x).releases = s.releases ∧
    (s.setGroup k x).walked = s.walked ∧ (s.setGroup k x).shipFlights = s.shipFlights ∧
    (s.setGroup k x).shipResults = s.shipResults ∧ (s.setGroup k x).root = s.root ∧ (s.setGroup k x).keys = s.keys ∧
    (s.setGroup k x).clusterOff = s.clusterOff ∧ (s.setGroup k x).coreOff = s.coreOff ∧
    (s.setGroup k x).laneOff = s.laneOff ∧ (s.setGroup k x).pcb = s.pcb ∧ (s.setGroup k x).device = s.device ∧
    (s.setGroup k x).rollback = s.rollback ∧ (s.setGroup k x).fwDigest = s.fwDigest ∧
    (s.setGroup k x).fwRollback = s.fwRollback ∧ (s.setGroup k x).incarnation = s.incarnation ∧
    (s.setGroup k x).sendChans = s.sendChans ∧ (s.setGroup k x).recvChans = s.recvChans ∧
    (s.setGroup k x).peerIncs = s.peerIncs ∧ (s.setGroup k x).endedIncs = s.endedIncs ∧
    (s.setGroup k x).remotes = s.remotes ∧ (s.setGroup k x).noteWaits = s.noteWaits ∧
    (s.setGroup k x).futWaits = s.futWaits ∧ (s.setGroup k x).ports = s.ports ∧
    (s.setGroup k x).cgroups = s.cgroups ∧ (s.setGroup k x).lostSpines = s.lostSpines ∧
    (s.setGroup k x).hostQueues = s.hostQueues ∧ (s.setGroup k x).hostReplies = s.hostReplies := by
  simp [State.setGroup]

/-- Only `groups` differs after a group changed. -/
@[simp] theorem State.modGroup_frame (s : State) (k : Nat) (f : Group → Group) :
    (s.modGroup k f).cur = s.cur ∧ (s.modGroup k f).retry = s.retry ∧ (s.modGroup k f).issue = s.issue ∧
    (s.modGroup k f).agenda = s.agenda ∧ (s.modGroup k f).choices = s.choices ∧ (s.modGroup k f).free = s.free ∧
    (s.modGroup k f).loaderPages = s.loaderPages ∧ (s.modGroup k f).nextLaunch = s.nextLaunch ∧
    (s.modGroup k f).nextAge = s.nextAge ∧ (s.modGroup k f).nextOp = s.nextOp ∧
    (s.modGroup k f).nextAdmit = s.nextAdmit ∧ (s.modGroup k f).timebase = s.timebase ∧
    (s.modGroup k f).mem = s.mem ∧ (s.modGroup k f).threads = s.threads ∧ (s.modGroup k f).launches = s.launches ∧
    (s.modGroup k f).cores = s.cores ∧ (s.modGroup k f).clusters = s.clusters ∧ (s.modGroup k f).dies = s.dies ∧
    (s.modGroup k f).perches = s.perches ∧ (s.modGroup k f).landings = s.landings ∧
    (s.modGroup k f).forwarded = s.forwarded ∧ (s.modGroup k f).releases = s.releases ∧
    (s.modGroup k f).walked = s.walked ∧ (s.modGroup k f).shipFlights = s.shipFlights ∧
    (s.modGroup k f).shipResults = s.shipResults ∧ (s.modGroup k f).root = s.root ∧ (s.modGroup k f).keys = s.keys ∧
    (s.modGroup k f).clusterOff = s.clusterOff ∧ (s.modGroup k f).coreOff = s.coreOff ∧
    (s.modGroup k f).laneOff = s.laneOff ∧ (s.modGroup k f).pcb = s.pcb ∧ (s.modGroup k f).device = s.device ∧
    (s.modGroup k f).rollback = s.rollback ∧ (s.modGroup k f).fwDigest = s.fwDigest ∧
    (s.modGroup k f).fwRollback = s.fwRollback ∧ (s.modGroup k f).incarnation = s.incarnation ∧
    (s.modGroup k f).sendChans = s.sendChans ∧ (s.modGroup k f).recvChans = s.recvChans ∧
    (s.modGroup k f).peerIncs = s.peerIncs ∧ (s.modGroup k f).endedIncs = s.endedIncs ∧
    (s.modGroup k f).remotes = s.remotes ∧ (s.modGroup k f).noteWaits = s.noteWaits ∧
    (s.modGroup k f).futWaits = s.futWaits ∧ (s.modGroup k f).ports = s.ports ∧
    (s.modGroup k f).cgroups = s.cgroups ∧ (s.modGroup k f).lostSpines = s.lostSpines ∧
    (s.modGroup k f).hostQueues = s.hostQueues ∧ (s.modGroup k f).hostReplies = s.hostReplies := by
  unfold State.modGroup
  split <;> simp [State.setGroup]

/-- Only `launches` differs after a launch replaced. -/
@[simp] theorem State.setLaunch_frame (s : State) (k : Nat) (x : Launch) :
    (s.setLaunch k x).cur = s.cur ∧ (s.setLaunch k x).retry = s.retry ∧ (s.setLaunch k x).issue = s.issue ∧
    (s.setLaunch k x).agenda = s.agenda ∧ (s.setLaunch k x).choices = s.choices ∧ (s.setLaunch k x).free = s.free ∧
    (s.setLaunch k x).loaderPages = s.loaderPages ∧ (s.setLaunch k x).nextLaunch = s.nextLaunch ∧
    (s.setLaunch k x).nextAge = s.nextAge ∧ (s.setLaunch k x).nextOp = s.nextOp ∧
    (s.setLaunch k x).nextAdmit = s.nextAdmit ∧ (s.setLaunch k x).timebase = s.timebase ∧
    (s.setLaunch k x).mem = s.mem ∧ (s.setLaunch k x).threads = s.threads ∧ (s.setLaunch k x).groups = s.groups ∧
    (s.setLaunch k x).cores = s.cores ∧ (s.setLaunch k x).clusters = s.clusters ∧ (s.setLaunch k x).dies = s.dies ∧
    (s.setLaunch k x).perches = s.perches ∧ (s.setLaunch k x).landings = s.landings ∧
    (s.setLaunch k x).forwarded = s.forwarded ∧ (s.setLaunch k x).releases = s.releases ∧
    (s.setLaunch k x).walked = s.walked ∧ (s.setLaunch k x).shipFlights = s.shipFlights ∧
    (s.setLaunch k x).shipResults = s.shipResults ∧ (s.setLaunch k x).root = s.root ∧
    (s.setLaunch k x).keys = s.keys ∧ (s.setLaunch k x).clusterOff = s.clusterOff ∧
    (s.setLaunch k x).coreOff = s.coreOff ∧ (s.setLaunch k x).laneOff = s.laneOff ∧ (s.setLaunch k x).pcb = s.pcb ∧
    (s.setLaunch k x).device = s.device ∧ (s.setLaunch k x).rollback = s.rollback ∧
    (s.setLaunch k x).fwDigest = s.fwDigest ∧ (s.setLaunch k x).fwRollback = s.fwRollback ∧
    (s.setLaunch k x).incarnation = s.incarnation ∧ (s.setLaunch k x).sendChans = s.sendChans ∧
    (s.setLaunch k x).recvChans = s.recvChans ∧ (s.setLaunch k x).peerIncs = s.peerIncs ∧
    (s.setLaunch k x).endedIncs = s.endedIncs ∧ (s.setLaunch k x).remotes = s.remotes ∧
    (s.setLaunch k x).noteWaits = s.noteWaits ∧ (s.setLaunch k x).futWaits = s.futWaits ∧
    (s.setLaunch k x).ports = s.ports ∧ (s.setLaunch k x).cgroups = s.cgroups ∧
    (s.setLaunch k x).lostSpines = s.lostSpines ∧ (s.setLaunch k x).hostQueues = s.hostQueues ∧
    (s.setLaunch k x).hostReplies = s.hostReplies := by
  simp [State.setLaunch]

/-- Only `launches` differs after a launch changed. -/
@[simp] theorem State.modLaunch_frame (s : State) (k : Nat) (f : Launch → Launch) :
    (s.modLaunch k f).cur = s.cur ∧ (s.modLaunch k f).retry = s.retry ∧ (s.modLaunch k f).issue = s.issue ∧
    (s.modLaunch k f).agenda = s.agenda ∧ (s.modLaunch k f).choices = s.choices ∧ (s.modLaunch k f).free = s.free ∧
    (s.modLaunch k f).loaderPages = s.loaderPages ∧ (s.modLaunch k f).nextLaunch = s.nextLaunch ∧
    (s.modLaunch k f).nextAge = s.nextAge ∧ (s.modLaunch k f).nextOp = s.nextOp ∧
    (s.modLaunch k f).nextAdmit = s.nextAdmit ∧ (s.modLaunch k f).timebase = s.timebase ∧
    (s.modLaunch k f).mem = s.mem ∧ (s.modLaunch k f).threads = s.threads ∧ (s.modLaunch k f).groups = s.groups ∧
    (s.modLaunch k f).cores = s.cores ∧ (s.modLaunch k f).clusters = s.clusters ∧ (s.modLaunch k f).dies = s.dies ∧
    (s.modLaunch k f).perches = s.perches ∧ (s.modLaunch k f).landings = s.landings ∧
    (s.modLaunch k f).forwarded = s.forwarded ∧ (s.modLaunch k f).releases = s.releases ∧
    (s.modLaunch k f).walked = s.walked ∧ (s.modLaunch k f).shipFlights = s.shipFlights ∧
    (s.modLaunch k f).shipResults = s.shipResults ∧ (s.modLaunch k f).root = s.root ∧
    (s.modLaunch k f).keys = s.keys ∧ (s.modLaunch k f).clusterOff = s.clusterOff ∧
    (s.modLaunch k f).coreOff = s.coreOff ∧ (s.modLaunch k f).laneOff = s.laneOff ∧ (s.modLaunch k f).pcb = s.pcb ∧
    (s.modLaunch k f).device = s.device ∧ (s.modLaunch k f).rollback = s.rollback ∧
    (s.modLaunch k f).fwDigest = s.fwDigest ∧ (s.modLaunch k f).fwRollback = s.fwRollback ∧
    (s.modLaunch k f).incarnation = s.incarnation ∧ (s.modLaunch k f).sendChans = s.sendChans ∧
    (s.modLaunch k f).recvChans = s.recvChans ∧ (s.modLaunch k f).peerIncs = s.peerIncs ∧
    (s.modLaunch k f).endedIncs = s.endedIncs ∧ (s.modLaunch k f).remotes = s.remotes ∧
    (s.modLaunch k f).noteWaits = s.noteWaits ∧ (s.modLaunch k f).futWaits = s.futWaits ∧
    (s.modLaunch k f).ports = s.ports ∧ (s.modLaunch k f).cgroups = s.cgroups ∧
    (s.modLaunch k f).lostSpines = s.lostSpines ∧ (s.modLaunch k f).hostQueues = s.hostQueues ∧
    (s.modLaunch k f).hostReplies = s.hostReplies := by
  unfold State.modLaunch
  split <;> simp [State.setLaunch]

/-- Only `cores` differs after a core changed. -/
@[simp] theorem State.modCore_frame (s : State) (k : Nat) (f : Core → Core) :
    (s.modCore k f).cur = s.cur ∧ (s.modCore k f).retry = s.retry ∧ (s.modCore k f).issue = s.issue ∧
    (s.modCore k f).agenda = s.agenda ∧ (s.modCore k f).choices = s.choices ∧ (s.modCore k f).free = s.free ∧
    (s.modCore k f).loaderPages = s.loaderPages ∧ (s.modCore k f).nextLaunch = s.nextLaunch ∧
    (s.modCore k f).nextAge = s.nextAge ∧ (s.modCore k f).nextOp = s.nextOp ∧
    (s.modCore k f).nextAdmit = s.nextAdmit ∧ (s.modCore k f).timebase = s.timebase ∧ (s.modCore k f).mem = s.mem ∧
    (s.modCore k f).threads = s.threads ∧ (s.modCore k f).groups = s.groups ∧ (s.modCore k f).launches = s.launches ∧
    (s.modCore k f).clusters = s.clusters ∧ (s.modCore k f).dies = s.dies ∧ (s.modCore k f).perches = s.perches ∧
    (s.modCore k f).landings = s.landings ∧ (s.modCore k f).forwarded = s.forwarded ∧
    (s.modCore k f).releases = s.releases ∧ (s.modCore k f).walked = s.walked ∧
    (s.modCore k f).shipFlights = s.shipFlights ∧ (s.modCore k f).shipResults = s.shipResults ∧
    (s.modCore k f).root = s.root ∧ (s.modCore k f).keys = s.keys ∧ (s.modCore k f).clusterOff = s.clusterOff ∧
    (s.modCore k f).coreOff = s.coreOff ∧ (s.modCore k f).laneOff = s.laneOff ∧ (s.modCore k f).pcb = s.pcb ∧
    (s.modCore k f).device = s.device ∧ (s.modCore k f).rollback = s.rollback ∧
    (s.modCore k f).fwDigest = s.fwDigest ∧ (s.modCore k f).fwRollback = s.fwRollback ∧
    (s.modCore k f).incarnation = s.incarnation ∧ (s.modCore k f).sendChans = s.sendChans ∧
    (s.modCore k f).recvChans = s.recvChans ∧ (s.modCore k f).peerIncs = s.peerIncs ∧
    (s.modCore k f).endedIncs = s.endedIncs ∧ (s.modCore k f).remotes = s.remotes ∧
    (s.modCore k f).noteWaits = s.noteWaits ∧ (s.modCore k f).futWaits = s.futWaits ∧
    (s.modCore k f).ports = s.ports ∧ (s.modCore k f).cgroups = s.cgroups ∧
    (s.modCore k f).lostSpines = s.lostSpines ∧ (s.modCore k f).hostQueues = s.hostQueues ∧
    (s.modCore k f).hostReplies = s.hostReplies := by
  simp [State.modCore]

/-- Only `clusters` differs after a cluster changed. -/
@[simp] theorem State.modCluster_frame (s : State) (k : Nat) (f : Cluster → Cluster) :
    (s.modCluster k f).cur = s.cur ∧ (s.modCluster k f).retry = s.retry ∧ (s.modCluster k f).issue = s.issue ∧
    (s.modCluster k f).agenda = s.agenda ∧ (s.modCluster k f).choices = s.choices ∧
    (s.modCluster k f).free = s.free ∧ (s.modCluster k f).loaderPages = s.loaderPages ∧
    (s.modCluster k f).nextLaunch = s.nextLaunch ∧ (s.modCluster k f).nextAge = s.nextAge ∧
    (s.modCluster k f).nextOp = s.nextOp ∧ (s.modCluster k f).nextAdmit = s.nextAdmit ∧
    (s.modCluster k f).timebase = s.timebase ∧ (s.modCluster k f).mem = s.mem ∧
    (s.modCluster k f).threads = s.threads ∧ (s.modCluster k f).groups = s.groups ∧
    (s.modCluster k f).launches = s.launches ∧ (s.modCluster k f).cores = s.cores ∧
    (s.modCluster k f).dies = s.dies ∧ (s.modCluster k f).perches = s.perches ∧
    (s.modCluster k f).landings = s.landings ∧ (s.modCluster k f).forwarded = s.forwarded ∧
    (s.modCluster k f).releases = s.releases ∧ (s.modCluster k f).walked = s.walked ∧
    (s.modCluster k f).shipFlights = s.shipFlights ∧ (s.modCluster k f).shipResults = s.shipResults ∧
    (s.modCluster k f).root = s.root ∧ (s.modCluster k f).keys = s.keys ∧
    (s.modCluster k f).clusterOff = s.clusterOff ∧ (s.modCluster k f).coreOff = s.coreOff ∧
    (s.modCluster k f).laneOff = s.laneOff ∧ (s.modCluster k f).pcb = s.pcb ∧ (s.modCluster k f).device = s.device ∧
    (s.modCluster k f).rollback = s.rollback ∧ (s.modCluster k f).fwDigest = s.fwDigest ∧
    (s.modCluster k f).fwRollback = s.fwRollback ∧ (s.modCluster k f).incarnation = s.incarnation ∧
    (s.modCluster k f).sendChans = s.sendChans ∧ (s.modCluster k f).recvChans = s.recvChans ∧
    (s.modCluster k f).peerIncs = s.peerIncs ∧ (s.modCluster k f).endedIncs = s.endedIncs ∧
    (s.modCluster k f).remotes = s.remotes ∧ (s.modCluster k f).noteWaits = s.noteWaits ∧
    (s.modCluster k f).futWaits = s.futWaits ∧ (s.modCluster k f).ports = s.ports ∧
    (s.modCluster k f).cgroups = s.cgroups ∧ (s.modCluster k f).lostSpines = s.lostSpines ∧
    (s.modCluster k f).hostQueues = s.hostQueues ∧ (s.modCluster k f).hostReplies = s.hostReplies := by
  simp [State.modCluster]

/-- Only `dies` differs after a die changed. -/
@[simp] theorem State.modDie_frame (s : State) (k : Nat) (f : Die → Die) :
    (s.modDie k f).cur = s.cur ∧ (s.modDie k f).retry = s.retry ∧ (s.modDie k f).issue = s.issue ∧
    (s.modDie k f).agenda = s.agenda ∧ (s.modDie k f).choices = s.choices ∧ (s.modDie k f).free = s.free ∧
    (s.modDie k f).loaderPages = s.loaderPages ∧ (s.modDie k f).nextLaunch = s.nextLaunch ∧
    (s.modDie k f).nextAge = s.nextAge ∧ (s.modDie k f).nextOp = s.nextOp ∧ (s.modDie k f).nextAdmit = s.nextAdmit ∧
    (s.modDie k f).timebase = s.timebase ∧ (s.modDie k f).mem = s.mem ∧ (s.modDie k f).threads = s.threads ∧
    (s.modDie k f).groups = s.groups ∧ (s.modDie k f).launches = s.launches ∧ (s.modDie k f).cores = s.cores ∧
    (s.modDie k f).clusters = s.clusters ∧ (s.modDie k f).perches = s.perches ∧
    (s.modDie k f).landings = s.landings ∧ (s.modDie k f).forwarded = s.forwarded ∧
    (s.modDie k f).releases = s.releases ∧ (s.modDie k f).walked = s.walked ∧
    (s.modDie k f).shipFlights = s.shipFlights ∧ (s.modDie k f).shipResults = s.shipResults ∧
    (s.modDie k f).root = s.root ∧ (s.modDie k f).keys = s.keys ∧ (s.modDie k f).clusterOff = s.clusterOff ∧
    (s.modDie k f).coreOff = s.coreOff ∧ (s.modDie k f).laneOff = s.laneOff ∧ (s.modDie k f).pcb = s.pcb ∧
    (s.modDie k f).device = s.device ∧ (s.modDie k f).rollback = s.rollback ∧ (s.modDie k f).fwDigest = s.fwDigest ∧
    (s.modDie k f).fwRollback = s.fwRollback ∧ (s.modDie k f).incarnation = s.incarnation ∧
    (s.modDie k f).sendChans = s.sendChans ∧ (s.modDie k f).recvChans = s.recvChans ∧
    (s.modDie k f).peerIncs = s.peerIncs ∧ (s.modDie k f).endedIncs = s.endedIncs ∧
    (s.modDie k f).remotes = s.remotes ∧ (s.modDie k f).noteWaits = s.noteWaits ∧
    (s.modDie k f).futWaits = s.futWaits ∧ (s.modDie k f).ports = s.ports ∧ (s.modDie k f).cgroups = s.cgroups ∧
    (s.modDie k f).lostSpines = s.lostSpines ∧ (s.modDie k f).hostQueues = s.hostQueues ∧
    (s.modDie k f).hostReplies = s.hostReplies := by
  simp [State.modDie]

/-- Only `dies` differs after every die changed. -/
@[simp] theorem State.mapDies_frame (s : State) (f : Die → Die) :
    (s.mapDies f).cur = s.cur ∧ (s.mapDies f).retry = s.retry ∧ (s.mapDies f).issue = s.issue ∧
    (s.mapDies f).agenda = s.agenda ∧ (s.mapDies f).choices = s.choices ∧ (s.mapDies f).free = s.free ∧
    (s.mapDies f).loaderPages = s.loaderPages ∧ (s.mapDies f).nextLaunch = s.nextLaunch ∧
    (s.mapDies f).nextAge = s.nextAge ∧ (s.mapDies f).nextOp = s.nextOp ∧ (s.mapDies f).nextAdmit = s.nextAdmit ∧
    (s.mapDies f).timebase = s.timebase ∧ (s.mapDies f).mem = s.mem ∧ (s.mapDies f).threads = s.threads ∧
    (s.mapDies f).groups = s.groups ∧ (s.mapDies f).launches = s.launches ∧ (s.mapDies f).cores = s.cores ∧
    (s.mapDies f).clusters = s.clusters ∧ (s.mapDies f).perches = s.perches ∧ (s.mapDies f).landings = s.landings ∧
    (s.mapDies f).forwarded = s.forwarded ∧ (s.mapDies f).releases = s.releases ∧ (s.mapDies f).walked = s.walked ∧
    (s.mapDies f).shipFlights = s.shipFlights ∧ (s.mapDies f).shipResults = s.shipResults ∧
    (s.mapDies f).root = s.root ∧ (s.mapDies f).keys = s.keys ∧ (s.mapDies f).clusterOff = s.clusterOff ∧
    (s.mapDies f).coreOff = s.coreOff ∧ (s.mapDies f).laneOff = s.laneOff ∧ (s.mapDies f).pcb = s.pcb ∧
    (s.mapDies f).device = s.device ∧ (s.mapDies f).rollback = s.rollback ∧ (s.mapDies f).fwDigest = s.fwDigest ∧
    (s.mapDies f).fwRollback = s.fwRollback ∧ (s.mapDies f).incarnation = s.incarnation ∧
    (s.mapDies f).sendChans = s.sendChans ∧ (s.mapDies f).recvChans = s.recvChans ∧
    (s.mapDies f).peerIncs = s.peerIncs ∧ (s.mapDies f).endedIncs = s.endedIncs ∧ (s.mapDies f).remotes = s.remotes ∧
    (s.mapDies f).noteWaits = s.noteWaits ∧ (s.mapDies f).futWaits = s.futWaits ∧ (s.mapDies f).ports = s.ports ∧
    (s.mapDies f).cgroups = s.cgroups ∧ (s.mapDies f).lostSpines = s.lostSpines ∧
    (s.mapDies f).hostQueues = s.hostQueues ∧ (s.mapDies f).hostReplies = s.hostReplies := by
  simp [State.mapDies]

/-- Only `perches` differs after a perch changed. -/
@[simp] theorem State.modPerch_frame (s : State) (k : Nat) (f : Perch → Perch) :
    (s.modPerch k f).cur = s.cur ∧ (s.modPerch k f).retry = s.retry ∧ (s.modPerch k f).issue = s.issue ∧
    (s.modPerch k f).agenda = s.agenda ∧ (s.modPerch k f).choices = s.choices ∧ (s.modPerch k f).free = s.free ∧
    (s.modPerch k f).loaderPages = s.loaderPages ∧ (s.modPerch k f).nextLaunch = s.nextLaunch ∧
    (s.modPerch k f).nextAge = s.nextAge ∧ (s.modPerch k f).nextOp = s.nextOp ∧
    (s.modPerch k f).nextAdmit = s.nextAdmit ∧ (s.modPerch k f).timebase = s.timebase ∧
    (s.modPerch k f).mem = s.mem ∧ (s.modPerch k f).threads = s.threads ∧ (s.modPerch k f).groups = s.groups ∧
    (s.modPerch k f).launches = s.launches ∧ (s.modPerch k f).cores = s.cores ∧
    (s.modPerch k f).clusters = s.clusters ∧ (s.modPerch k f).dies = s.dies ∧
    (s.modPerch k f).landings = s.landings ∧ (s.modPerch k f).forwarded = s.forwarded ∧
    (s.modPerch k f).releases = s.releases ∧ (s.modPerch k f).walked = s.walked ∧
    (s.modPerch k f).shipFlights = s.shipFlights ∧ (s.modPerch k f).shipResults = s.shipResults ∧
    (s.modPerch k f).root = s.root ∧ (s.modPerch k f).keys = s.keys ∧ (s.modPerch k f).clusterOff = s.clusterOff ∧
    (s.modPerch k f).coreOff = s.coreOff ∧ (s.modPerch k f).laneOff = s.laneOff ∧ (s.modPerch k f).pcb = s.pcb ∧
    (s.modPerch k f).device = s.device ∧ (s.modPerch k f).rollback = s.rollback ∧
    (s.modPerch k f).fwDigest = s.fwDigest ∧ (s.modPerch k f).fwRollback = s.fwRollback ∧
    (s.modPerch k f).incarnation = s.incarnation ∧ (s.modPerch k f).sendChans = s.sendChans ∧
    (s.modPerch k f).recvChans = s.recvChans ∧ (s.modPerch k f).peerIncs = s.peerIncs ∧
    (s.modPerch k f).endedIncs = s.endedIncs ∧ (s.modPerch k f).remotes = s.remotes ∧
    (s.modPerch k f).noteWaits = s.noteWaits ∧ (s.modPerch k f).futWaits = s.futWaits ∧
    (s.modPerch k f).ports = s.ports ∧ (s.modPerch k f).cgroups = s.cgroups ∧
    (s.modPerch k f).lostSpines = s.lostSpines ∧ (s.modPerch k f).hostQueues = s.hostQueues ∧
    (s.modPerch k f).hostReplies = s.hostReplies := by
  simp [State.modPerch]

theorem State.thread_setThread (s : State) (k j : Nat) (x : Thread) :
    (s.setThread k x).thread? j = if j = k then some x else s.thread? j := by
  simp [State.thread?, State.setThread, AMap.get?_set]

theorem State.thread_modThread (s : State) (k j : Nat) (f : Thread → Thread) :
    (s.modThread k f).thread? j = if j = k then (s.thread? k).map f else s.thread? j := by
  unfold State.modThread
  cases h : s.thread? k with
  | none => by_cases e : j = k <;> simp [e, h]
  | some x => simp [State.thread_setThread]

theorem State.group_setGroup (s : State) (k j : Nat) (x : Group) :
    (s.setGroup k x).group? j = if j = k then some x else s.group? j := by
  simp [State.group?, State.setGroup, AMap.get?_set]

theorem State.group_modGroup (s : State) (k j : Nat) (f : Group → Group) :
    (s.modGroup k f).group? j = if j = k then (s.group? k).map f else s.group? j := by
  unfold State.modGroup
  cases h : s.group? k with
  | none => by_cases e : j = k <;> simp [e, h]
  | some x => simp [State.group_setGroup]

theorem State.launch_setLaunch (s : State) (k j : Nat) (x : Launch) :
    (s.setLaunch k x).launch? j = if j = k then some x else s.launch? j := by
  simp [State.launch?, State.setLaunch, AMap.get?_set]

theorem State.launch_modLaunch (s : State) (k j : Nat) (f : Launch → Launch) :
    (s.modLaunch k f).launch? j = if j = k then (s.launch? k).map f else s.launch? j := by
  unfold State.modLaunch
  cases h : s.launch? k with
  | none => by_cases e : j = k <;> simp [e, h]
  | some x => simp [State.launch_setLaunch]

theorem State.core_modCore (s : State) (k j : Nat) (f : Core → Core) :
    (s.modCore k f).core j = if j = k then f (s.core k) else s.core j := by
  by_cases e : j = k
  · subst e; simp [State.core, State.modCore]
  · simp [State.core, State.modCore, AMap.getD_set_of_ne _ _ _ e, e]

theorem State.cluster_modCluster (s : State) (k j : Nat) (f : Cluster → Cluster) :
    (s.modCluster k f).cluster j = if j = k then f (s.cluster k) else s.cluster j := by
  by_cases e : j = k
  · subst e; simp [State.cluster, State.modCluster]
  · simp [State.cluster, State.modCluster, AMap.getD_set_of_ne _ _ _ e, e]

theorem State.die_modDie (s : State) (k j : Nat) (f : Die → Die) :
    (s.modDie k f).die j = if j = k then f (s.die k) else s.die j := by
  by_cases e : j = k
  · subst e; simp [State.die, State.modDie]
  · simp [State.die, State.modDie, AMap.getD_set_of_ne _ _ _ e, e]

theorem State.perch_modPerch (s : State) (k j : Nat) (f : Perch → Perch) :
    (s.modPerch k f).perch j = if j = k then f (s.perch k) else s.perch j := by
  by_cases e : j = k
  · subst e; simp [State.perch, State.modPerch]
  · simp [State.perch, State.modPerch, AMap.getD_set_of_ne _ _ _ e, e]

end Sys2Proof.Machine
end

