-- ==== Sys2Proof/Laws/Memory.lean ====
section
/-! SUPPORT. Memory: every operation that writes the bytes of HBM and the weight stores keeps the canonical form, a read
after a write gives what was written, and a write leaves every other byte alone. -/
namespace Sys2Proof.Machine

theorem Memory.wf_reset : Memory.wf State.reset.mem = true := rfl

theorem Memory.wf_cellsPut (m : List Host.Cell) (pa : Nat) (bs : List Byte) (h : Memory.wf m = true) :
    Memory.wf (cellsPut m pa bs) = true := by
  induction bs generalizing m pa with
  | nil => exact h
  | cons b bs ih => exact ih _ _ (cellsWf_cellSet m 0#8 pa b h)

theorem Memory.wf_rawPut (s : State) (pa : Nat) (bs : List Byte) (h : Memory.wf s.mem = true) :
    Memory.wf (s.rawPut pa bs).mem = true := Memory.wf_cellsPut _ _ _ h

theorem AMap.sortedFrom_filter {α : Type} (p : Nat × α → Bool) (m : AMap α) (l : Option Nat)
    (h : AMap.sortedFrom l m = true) : AMap.sortedFrom l (m.filter p) = true := by
  induction m generalizing l with
  | nil => cases l <;> rfl
  | cons c m ih =>
    obtain ⟨k, v⟩ := c
    by_cases e : p (k, v) = true <;> simp only [List.filter_cons, e, if_true, Bool.false_eq_true, if_false]
    · cases l with
      | none => exact ih _ h
      | some j =>
        simp only [AMap.sortedFrom, Bool.and_eq_true] at h ⊢
        exact ⟨h.1, ih _ h.2⟩
    · cases l with
      | none => exact ih _ (AMap.sortedFrom_none m k h)
      | some j =>
        simp only [AMap.sortedFrom, Bool.and_eq_true, decide_eq_true_eq] at h
        exact ih _ (AMap.sortedFrom_weaken m k j (by omega) h.2)

theorem Memory.wf_bootZero (s : State) (pa n : Nat) (h : Memory.wf s.mem = true) :
    Memory.wf (s.bootZero pa n).mem = true := by
  simp only [Memory.wf, cellsWf, Bool.and_eq_true, List.all_eq_true] at h ⊢
  exact ⟨AMap.sortedFrom_filter _ _ _ h.1, fun c hc => h.2 c (List.mem_filter.mp hc).1⟩

/-- A read after a write. -/
theorem cellGet_cellsPut (m : List Host.Cell) (pa a : Nat) (bs : List Byte) (h : Memory.wf m = true) :
    cellGet (cellsPut m pa bs) 0#8 a = if pa ≤ a ∧ a < pa + bs.length then bs.getD (a - pa) 0#8 else cellGet m 0#8 a := by
  induction bs generalizing m pa with
  | nil => simp [cellsPut]
  | cons b bs ih =>
    rw [cellsPut, ih _ _ (cellsWf_cellSet m 0#8 pa b h), cellGet_cellSet m 0#8 pa a b h]
    by_cases e : a = pa
    · subst e; simp
    · by_cases f : pa + 1 ≤ a ∧ a < pa + 1 + bs.length
      · rw [if_pos f, if_pos (by simp; omega), show a - pa = (a - (pa + 1)) + 1 by omega]; simp
      · rw [if_neg f, if_neg e, if_neg (by simp at f ⊢; omega)]

theorem State.rawByte_rawPut (s : State) (pa a : Nat) (bs : List Byte) (h : Memory.wf s.mem = true) :
    (s.rawPut pa bs).rawByte a = if pa ≤ a ∧ a < pa + bs.length then bs.getD (a - pa) 0#8 else s.rawByte a :=
  cellGet_cellsPut s.mem pa a bs h

/-- Stored bytes are read back. -/
theorem State.rawBytes_rawPut (s : State) (pa : Nat) (bs : List Byte) (h : Memory.wf s.mem = true) :
    (s.rawPut pa bs).rawBytes pa bs.length = bs := by
  apply List.ext_getElem
  · simp [State.rawBytes]
  · intro i h1 h2
    have hi : i < bs.length := h2
    simp [State.rawBytes, State.rawByte_rawPut s pa _ bs h, hi]

end Sys2Proof.Machine
end

