-- ==== Sys2Proof/Laws/Ops.lean ====
section
/-! SUPPORT. What each shared operation on threads can do: run a word for its thread, registers, predicates, latches,
pending results, choices, advancing and leaving loops. -/
namespace Sys2Proof.Machine

/-! ### Words and choices -/

/-- A word instruction runs for the current thread, or stops where there is none. -/
theorem onThread_cases (s : State) (f : Nat → Thread → State) :
    (∃ th, s.thread? s.cur = some th ∧ onThread s f = .next (f s.cur th)) ∨
      (s.thread? s.cur = none ∧ onThread s f = .fault .noThread) := by
  unfold onThread
  cases h : s.thread? s.cur <;> simp

theorem onThread_next {s : State} {th : Thread} (f : Nat → Thread → State) (h : s.thread? s.cur = some th) :
    onThread s f = .next (f s.cur th) := by simp [onThread, h]

/-- A choice lies below its bound, and takes nothing but the next of the choices or of the free values. -/
theorem State.choose_lt (s : State) (n : Nat) (h : 0 < n) : (s.choose n).1 < n := by
  unfold State.choose
  split <;> exact Nat.mod_lt _ h

theorem State.choose_frame (s : State) (n : Nat) :
    (s.choose n).2 = { s with choices := (s.choose n).2.choices, free := (s.choose n).2.free } := by
  unfold State.choose
  split <;> rfl

/-! ### Registers -/

@[simp] theorem Thread.setReg_pc (th : Thread) (n : Nat) (v : Word) : (th.setReg n v).pc = th.pc := by
  unfold Thread.setReg; split <;> rfl
@[simp] theorem Thread.setReg_preds (th : Thread) (n : Nat) (v : Word) : (th.setReg n v).preds = th.preds := by
  unfold Thread.setReg; split <;> rfl
@[simp] theorem Thread.setReg_status (th : Thread) (n : Nat) (v : Word) : (th.setReg n v).status = th.status := by
  unfold Thread.setReg; split <;> rfl

/-- Only the registers differ after a write of one. -/
theorem Thread.setReg_frame (th : Thread) (n : Nat) (v : Word) :
    th.setReg n v = { th with regs := (th.setReg n v).regs } := by
  unfold Thread.setReg; split <;> rfl

/-- The registers keep their canonical form. -/
theorem Thread.setReg_wf (th : Thread) (n : Nat) (v : Word) (h : cellsWf th.regs 0#32 = true) :
    cellsWf (th.setReg n v).regs 0#32 = true := by
  unfold Thread.setReg
  split
  · exact cellsWf_cellSet th.regs 0#32 n v h
  · exact h

/-- A register after a write: g240 and above discard and read zero (R49). -/
theorem Thread.reg_setReg (th : Thread) (n m : Nat) (v : Word) (h : cellsWf th.regs 0#32 = true) :
    (th.setReg n v).reg m = if m = n ∧ n < 240 then v else th.reg m := by
  unfold Thread.setReg Thread.reg
  by_cases e : n < 240
  · simp only [e, if_true, and_true]
    by_cases f : m < 240
    · simp only [f, if_true]; exact cellGet_cellSet th.regs 0#32 n m v h
    · rw [if_neg f, if_neg f, if_neg (by omega)]
  · simp [e]

theorem Thread.setReg_discards (th : Thread) (n : Nat) (v : Word) (h : 240 ≤ n) : th.setReg n v = th := by
  unfold Thread.setReg; rw [if_neg (by omega)]

/-- A predicate after a write: p7 discards and reads 1 (R50). -/
theorem Thread.pred_setPred : ∀ (p : BitVec 7) (n m : Fin 8) (b : Bool) (th : Thread), th.preds = p →
    (th.setPred n b).pred m = if m = n ∧ n.val < 7 then b else th.pred m := by
  have key : ∀ (p : BitVec 7) (n m : Nat) (b : Bool), n < 7 → m < 7 →
      (if b then p ||| BitVec.ofNat 7 (2 ^ n) else p &&& ~~~(BitVec.ofNat 7 (2 ^ n))).getLsbD m =
        if m = n then b else p.getLsbD m := by
    intro p n m b hn hm
    have hb : (BitVec.ofNat 7 (2 ^ n)).getLsbD m = decide (n = m) := by
      rw [BitVec.getLsbD_ofNat, Nat.testBit_two_pow]; simp [hm]
    generalize BitVec.ofNat 7 (2 ^ n) = x at hb ⊢
    cases b
    · rw [if_neg (by simp), BitVec.getLsbD_and, BitVec.getLsbD_not, hb]
      by_cases e : m = n
      · simp [e, hn]
      · simp [e, hm]; exact fun _ h => e h.symm
    · rw [if_pos rfl, BitVec.getLsbD_or, hb]
      by_cases e : m = n
      · simp [e]
      · simp [e]; exact fun h => absurd h.symm e
  intro p n m b th _
  unfold Thread.setPred Thread.pred
  by_cases e : n.val < 7
  · simp only [e, if_true, and_true]
    by_cases f : m.val < 7
    · simp only [f, if_true]
      rw [key th.preds n m b e f]; simp [Fin.ext_iff]
    · have : ¬ m = n := by intro h; rw [h] at f; exact f e
      simp [f, this]
  · simp [e]

/-- A push fills L0 and moves the others up (R21). -/
@[simp] theorem Thread.push_latches (th : Thread) (v : DWord) :
    (th.push v).l0 = ⟨true, v⟩ ∧ (th.push v).l1 = th.l0 ∧ (th.push v).l2 = th.l1 ∧ (th.push v).l3 = th.l2 := by
  simp [Thread.push]

/-- A resumed thread is ready with its latches invalid (R23). -/
theorem Thread.resume_latches (th : Thread) (n : Nat) : (th.resume.latch n).valid = false ∧ th.resume.status = .ready := by
  refine ⟨?_, rfl⟩
  unfold Thread.latch
  split <;> rfl

/-! ### Results on their way -/

theorem State.pendD_none (s : State) (t : Nat) (d : Dest) (n : Nat) (h : destReg d = none) : s.pendD t d n = s := by
  simp [State.pendD, h]

theorem State.sendResult_none (s : State) (t : Nat) (ws : List Word) : s.sendResult t none ws = s := rfl

/-- A result on its way adds one landing and marks its registers. -/
theorem State.sendResult_some (s : State) (t n : Nat) (ws : List Word) :
    (s.sendResult t (some n) ws).landings = s.landings ++ [⟨t, some n, ws, none, none, none⟩] ∧
      (s.sendResult t (some n) ws).threads = (s.modThread t (·.pend n ws.length)).threads := ⟨rfl, rfl⟩

/-- An exited thread discards what lands (R126, R141). -/
theorem Thread.deliver_exited (th : Thread) (r : Nat) (ws : List Word) (h : th.status = .exited) : th.deliver r ws = th := by
  simp [Thread.deliver, h]

/-! ### Advancing (R128) -/

theorem Thread.loopBack_empty (th : Thread) (h : th.depth = 0) : ∀ n, th.loopBack n = (none, th)
  | 0 => rfl
  | n + 1 => by simp [Thread.loopBack, h]

/-- Outside every loop a thread goes on behind its word. -/
theorem State.advance_of_depth (s : State) (t len : Nat) (th : Thread) (h : s.thread? t = some th) (hd : th.depth = 0) :
    s.advance t len = s.setThread t { th with pc := th.pc + BitVec.ofNat 64 len } := by
  simp [State.advance, h, Thread.loopBack_empty th hd 4]

/-- Away from the END of the innermost loop, too. -/
theorem State.advance_of_ne (s : State) (t len : Nat) (th : Thread) (h : s.thread? t = some th)
    (hd : th.pc ≠ (loopAt th.loop (th.depth - 1)).last) :
    s.advance t len = s.setThread t { th with pc := th.pc + BitVec.ofNat 64 len } := by
  simp [State.advance, h, Thread.loopBack, hd]

/-- TRAPVEC 0 makes every trap fatal with its own code (R170). -/
theorem State.takeTrap_no_handler (s : State) (t : Nat) (th : Thread) (c : Code) (va : DWord) (h : s.thread? t = some th)
    (hv : s.pcb.trapvec = 0#64) : s.takeTrap t c va = s.fatalThread t va th.pc c .read 0 0#64 := by
  simp [State.takeTrap, State.takeTrapAt, h, hv]

end Sys2Proof.Machine
end

