-- ==== Sys2Proof/Laws/PerInstr.lean ====
section
/-! SUPPORT. For every instruction: it has an encoding exactly where it has operand fields, its opcode lies in one of the
classes 0x0 to 0xD, and its modifiers fit the 34 bits of M (R12, R34, R35). -/
namespace Sys2Proof.Laws.Encoding

/-- OPC and M exist exactly where there are operand fields; they are those of a class below 0xE and fit their fields. -/
def Statement (i : Instr) : Prop :=
  i.opcM.isSome = i.opnds.isSome ∧ ∀ opc m, i.opcM = some (opc, m) → opc < 0xE00 ∧ m < 2 ^ 34

theorem of_event (i : Instr) (h : i.opcM = none) (h' : i.opnds = none) : Statement i := by simp [Statement, h, h']

theorem of_word (i : Instr) (o : Opnds) (opc m : Nat) (h : i.opcM = some (opc, m)) (h' : i.opnds = some o)
    (hc : opc < 0xE00) (hm : m < 2 ^ 34) : Statement i := by
  refine ⟨by rw [h, h']; rfl, ?_⟩
  rintro _ _ e
  obtain ⟨rfl, rfl⟩ := Prod.mk.inj (Option.some.inj (h.symm.trans e))
  exact ⟨hc, hm⟩

theorem iadd : ∀ x0 x1 x2, Statement (.iadd x0 x1 x2) := fun _ _ _ => of_word _ _ _ _ rfl rfl (by decide) (M0.toNat_lt _)
theorem isub : ∀ x0 x1 x2, Statement (.isub x0 x1 x2) := fun _ _ _ => of_word _ _ _ _ rfl rfl (by decide) (M0.toNat_lt _)
theorem iaddc : ∀ x0 x1 x2, Statement (.iaddc x0 x1 x2) := fun _ _ _ => of_word _ _ _ _ rfl rfl (by decide) (M0.toNat_lt _)
theorem isubb : ∀ x0 x1 x2, Statement (.isubb x0 x1 x2) := fun _ _ _ => of_word _ _ _ _ rfl rfl (by decide) (M0.toNat_lt _)
theorem imul : ∀ x0 x1 x2, Statement (.imul x0 x1 x2) := fun _ _ _ => of_word _ _ _ _ rfl rfl (by decide) (M0.toNat_lt _)
theorem imulh : ∀ x0 x1, Statement (.imulh x0 x1) := fun _ _ => of_word _ _ _ _ rfl rfl (by decide) (M0.toNat_lt _)
theorem imad : ∀ x0 x1 x2, Statement (.imad x0 x1 x2) := fun _ _ _ => of_word _ _ _ _ rfl rfl (by decide) (M0.toNat_lt _)
theorem idiv : ∀ x0 x1, Statement (.idiv x0 x1) := fun _ _ => of_word _ _ _ _ rfl rfl (by decide) (M0.toNat_lt _)
theorem irem : ∀ x0 x1, Statement (.irem x0 x1) := fun _ _ => of_word _ _ _ _ rfl rfl (by decide) (M0.toNat_lt _)
theorem iabs : ∀ x0 x1 x2, Statement (.iabs x0 x1 x2) := fun _ _ _ => of_word _ _ _ _ rfl rfl (by decide) (M0.toNat_lt _)
theorem ineg : ∀ x0 x1 x2, Statement (.ineg x0 x1 x2) := fun _ _ _ => of_word _ _ _ _ rfl rfl (by decide) (M0.toNat_lt _)
theorem imin : ∀ x0 x1, Statement (.imin x0 x1) := fun _ _ => of_word _ _ _ _ rfl rfl (by decide) (M0.toNat_lt _)
theorem imax : ∀ x0 x1, Statement (.imax x0 x1) := fun _ _ => of_word _ _ _ _ rfl rfl (by decide) (M0.toNat_lt _)
theorem icmp : ∀ x0 x1 x2, Statement (.icmp x0 x1 x2) := fun _ _ _ => of_word _ _ _ _ rfl rfl (by decide) (M0.toNat_lt _)
theorem land : ∀ x0 x1, Statement (.land x0 x1) := fun _ _ => of_word _ _ _ _ rfl rfl (by decide) (M0.toNat_lt _)
theorem lor : ∀ x0 x1, Statement (.lor x0 x1) := fun _ _ => of_word _ _ _ _ rfl rfl (by decide) (M0.toNat_lt _)
theorem lxor : ∀ x0 x1, Statement (.lxor x0 x1) := fun _ _ => of_word _ _ _ _ rfl rfl (by decide) (M0.toNat_lt _)
theorem landn : ∀ x0 x1, Statement (.landn x0 x1) := fun _ _ => of_word _ _ _ _ rfl rfl (by decide) (M0.toNat_lt _)
theorem lnot : ∀ x0 x1, Statement (.lnot x0 x1) := fun _ _ => of_word _ _ _ _ rfl rfl (by decide) (M0.toNat_lt _)
theorem shl : ∀ x0 x1, Statement (.shl x0 x1) := fun _ _ => of_word _ _ _ _ rfl rfl (by decide) (M0.toNat_lt _)
theorem shr : ∀ x0 x1, Statement (.shr x0 x1) := fun _ _ => of_word _ _ _ _ rfl rfl (by decide) (M0.toNat_lt _)
theorem sar : ∀ x0 x1, Statement (.sar x0 x1) := fun _ _ => of_word _ _ _ _ rfl rfl (by decide) (M0.toNat_lt _)
theorem rotl : ∀ x0 x1, Statement (.rotl x0 x1) := fun _ _ => of_word _ _ _ _ rfl rfl (by decide) (M0.toNat_lt _)
theorem popc : ∀ x0 x1, Statement (.popc x0 x1) := fun _ _ => of_word _ _ _ _ rfl rfl (by decide) (M0.toNat_lt _)
theorem clz : ∀ x0 x1, Statement (.clz x0 x1) := fun _ _ => of_word _ _ _ _ rfl rfl (by decide) (M0.toNat_lt _)
theorem ctz : ∀ x0 x1, Statement (.ctz x0 x1) := fun _ _ => of_word _ _ _ _ rfl rfl (by decide) (M0.toNat_lt _)
theorem brev : ∀ x0 x1, Statement (.brev x0 x1) := fun _ _ => of_word _ _ _ _ rfl rfl (by decide) (M0.toNat_lt _)
theorem bfx : ∀ x0 x1, Statement (.bfx x0 x1) := fun _ _ => of_word _ _ _ _ rfl rfl (by decide) (M0.toNat_lt _)
theorem bfi : ∀ x0 x1, Statement (.bfi x0 x1) := fun _ _ => of_word _ _ _ _ rfl rfl (by decide) (M0.toNat_lt _)
theorem lea : ∀ x0 x1 x2, Statement (.lea x0 x1 x2) := fun _ _ _ => of_word _ _ _ _ rfl rfl (by decide) (M0.toNat_lt _)
theorem idot4 : ∀ x0 x1 x2 x3, Statement (.idot4 x0 x1 x2 x3) := fun _ _ _ _ => of_word _ _ _ _ rfl rfl (by decide) (M0.toNat_lt _)
theorem fadd : ∀ x0 x1 x2 x3, Statement (.fadd x0 x1 x2 x3) := fun _ _ _ _ => of_word _ _ _ _ rfl rfl (by decide) (M1.toNat_lt _)
theorem fsub : ∀ x0 x1 x2 x3, Statement (.fsub x0 x1 x2 x3) := fun _ _ _ _ => of_word _ _ _ _ rfl rfl (by decide) (M1.toNat_lt _)
theorem fmul : ∀ x0 x1 x2 x3, Statement (.fmul x0 x1 x2 x3) := fun _ _ _ _ => of_word _ _ _ _ rfl rfl (by decide) (M1.toNat_lt _)
theorem ffma : ∀ x0 x1 x2 x3, Statement (.ffma x0 x1 x2 x3) := fun _ _ _ _ => of_word _ _ _ _ rfl rfl (by decide) (M1.toNat_lt _)
theorem fmin : ∀ x0 x1 x2 x3, Statement (.fmin x0 x1 x2 x3) := fun _ _ _ _ => of_word _ _ _ _ rfl rfl (by decide) (M1.toNat_lt _)
theorem fmax : ∀ x0 x1 x2 x3, Statement (.fmax x0 x1 x2 x3) := fun _ _ _ _ => of_word _ _ _ _ rfl rfl (by decide) (M1.toNat_lt _)
theorem fabs : ∀ x0 x1 x2, Statement (.fabs x0 x1 x2) := fun _ _ _ => of_word _ _ _ _ rfl rfl (by decide) (M1.toNat_lt _)
theorem fneg : ∀ x0 x1 x2, Statement (.fneg x0 x1 x2) := fun _ _ _ => of_word _ _ _ _ rfl rfl (by decide) (M1.toNat_lt _)
theorem fcmp : ∀ x0 x1 x2 x3, Statement (.fcmp x0 x1 x2 x3) := fun _ _ _ _ => of_word _ _ _ _ rfl rfl (by decide) (M1.toNat_lt _)
theorem fclass : ∀ x0 x1, Statement (.fclass x0 x1) := fun _ _ => of_word _ _ _ _ rfl rfl (by decide) (M1.toNat_lt _)
theorem frnd : ∀ x0 x1 x2 x3, Statement (.frnd x0 x1 x2 x3) := fun _ _ _ _ => of_word _ _ _ _ rfl rfl (by decide) (M1.toNat_lt _)
theorem fscale : ∀ x0 x1 x2 x3, Statement (.fscale x0 x1 x2 x3) := fun _ _ _ _ => of_word _ _ _ _ rfl rfl (by decide) (M1.toNat_lt _)
theorem fdiv : ∀ x0 x1 x2 x3, Statement (.fdiv x0 x1 x2 x3) := fun _ _ _ _ => of_word _ _ _ _ rfl rfl (by decide) (M1.toNat_lt _)
theorem fsqrt : ∀ x0 x1 x2 x3, Statement (.fsqrt x0 x1 x2 x3) := fun _ _ _ _ => of_word _ _ _ _ rfl rfl (by decide) (M1.toNat_lt _)
theorem fdot2 : ∀ x0 x1 x2 x3, Statement (.fdot2 x0 x1 x2 x3) := fun _ _ _ _ => of_word _ _ _ _ rfl rfl (by decide) (M1.toNat_lt _)
theorem cvt : ∀ x0 x1, Statement (.cvt x0 x1) := fun _ _ => of_word _ _ _ _ rfl rfl (by decide) (M2.toNat_lt _)
theorem packt : ∀ x0 x1, Statement (.packt x0 x1) := fun _ _ => of_word _ _ _ _ rfl rfl (by decide) (M2.toNat_lt _)
theorem unpackt : ∀ x0 x1, Statement (.unpackt x0 x1) := fun _ _ => of_word _ _ _ _ rfl rfl (by decide) (M2.toNat_lt _)
theorem frcp : ∀ x0 x1, Statement (.frcp x0 x1) := fun _ _ => of_word _ _ _ _ rfl rfl (by decide) (M2.toNat_lt _)
theorem frsq : ∀ x0 x1, Statement (.frsq x0 x1) := fun _ _ => of_word _ _ _ _ rfl rfl (by decide) (M2.toNat_lt _)
theorem fexp2 : ∀ x0 x1, Statement (.fexp2 x0 x1) := fun _ _ => of_word _ _ _ _ rfl rfl (by decide) (M2.toNat_lt _)
theorem flog2 : ∀ x0 x1, Statement (.flog2 x0 x1) := fun _ _ => of_word _ _ _ _ rfl rfl (by decide) (M2.toNat_lt _)
theorem fsinpi : ∀ x0 x1, Statement (.fsinpi x0 x1) := fun _ _ => of_word _ _ _ _ rfl rfl (by decide) (M2.toNat_lt _)
theorem fcospi : ∀ x0 x1, Statement (.fcospi x0 x1) := fun _ _ => of_word _ _ _ _ rfl rfl (by decide) (M2.toNat_lt _)
theorem ftanh : ∀ x0 x1, Statement (.ftanh x0 x1) := fun _ _ => of_word _ _ _ _ rfl rfl (by decide) (M2.toNat_lt _)
theorem fsigm : ∀ x0 x1, Statement (.fsigm x0 x1) := fun _ _ => of_word _ _ _ _ rfl rfl (by decide) (M2.toNat_lt _)
theorem sacc : ∀ x0 x1, Statement (.sacc x0 x1) := fun _ _ => of_word _ _ _ _ rfl rfl (by decide) (M2.toNat_lt _)
theorem mov : ∀ x0 x1, Statement (.mov x0 x1) := fun _ _ => of_word _ _ _ _ rfl rfl (by decide) (M3.toNat_lt _)
theorem movi : ∀ x0 x1 x2, Statement (.movi x0 x1 x2) := fun _ _ _ => of_word _ _ _ _ rfl rfl (by decide) (M3.toNat_lt _)
theorem sel : ∀ x0 x1, Statement (.sel x0 x1) := fun _ _ => of_word _ _ _ _ rfl rfl (by decide) (M3.toNat_lt _)
theorem plop : ∀ x0 x1 x2, Statement (.plop x0 x1 x2) := fun _ _ _ => of_word _ _ _ _ rfl rfl (by decide) (M3.toNat_lt _)
theorem pmovGet : ∀ x0, Statement (.pmovGet x0) := fun _ => of_word _ _ _ _ rfl rfl (by decide) (M3.toNat_lt _)
theorem pmovSet : ∀ x0, Statement (.pmovSet x0) := fun _ => of_word _ _ _ _ rfl rfl (by decide) (M3.toNat_lt _)
theorem sread : ∀ x0, Statement (.sread x0) := fun _ => of_word _ _ _ _ rfl rfl (by decide) (M3.toNat_lt _)
theorem swrite : ∀ x0, Statement (.swrite x0) := fun _ => of_word _ _ _ _ rfl rfl (by decide) (M3.toNat_lt _)
theorem bra : ∀ x0, Statement (.bra x0) := fun _ => of_word _ _ _ _ rfl rfl (by decide) (M4.toNat_lt _)
theorem brx : ∀ x0, Statement (.brx x0) := fun _ => of_word _ _ _ _ rfl rfl (by decide) (M4.toNat_lt _)
theorem brxEntry : ∀ x0, Statement (.brxEntry x0) := fun _ => of_word _ _ _ _ rfl rfl (by decide) (M4.toNat_lt _)
theorem call : ∀ x0, Statement (.call x0) := fun _ => of_word _ _ _ _ rfl rfl (by decide) (M4.toNat_lt _)
theorem callx : ∀ x0, Statement (.callx x0) := fun _ => of_word _ _ _ _ rfl rfl (by decide) (M4.toNat_lt _)
theorem ret : ∀ x0, Statement (.ret x0) := fun _ => of_word _ _ _ _ rfl rfl (by decide) (M4.toNat_lt _)
theorem exit : ∀ x0, Statement (.exit x0) := fun _ => of_word _ _ _ _ rfl rfl (by decide) (M4.toNat_lt _)
theorem loop : ∀ x0, Statement (.loop x0) := fun _ => of_word _ _ _ _ rfl rfl (by decide) (M4.toNat_lt _)
theorem lbrk : ∀ x0, Statement (.lbrk x0) := fun _ => of_word _ _ _ _ rfl rfl (by decide) (M4.toNat_lt _)
theorem trap : ∀ x0, Statement (.trap x0) := fun _ => of_word _ _ _ _ rfl rfl (by decide) (M4.toNat_lt _)
theorem yield : ∀ x0, Statement (.yield x0) := fun _ => of_word _ _ _ _ rfl rfl (by decide) (M4.toNat_lt _)
theorem conv : ∀ x0 x1, Statement (.conv x0 x1) := fun _ _ => of_word _ _ _ _ rfl rfl (by decide) (M4.toNat_lt _)
theorem nop : ∀ x0, Statement (.nop x0) := fun _ => of_word _ _ _ _ rfl rfl (by decide) (M4.toNat_lt _)
theorem entryWordNop : ∀ x0, Statement (.entryWordNop x0) := fun _ => of_event _ rfl rfl
theorem literalWordReached : ∀ x0, Statement (.literalWordReached x0) := fun _ => of_event _ rfl rfl
theorem ld : ∀ x0 x1, Statement (.ld x0 x1) := fun _ _ => of_word _ _ _ _ rfl rfl (by decide) (M5.toNat_lt _)
theorem loadLands : ∀ x0, Statement (.loadLands x0) := fun _ => of_event _ rfl rfl
theorem st : ∀ x0 x1, Statement (.st x0 x1) := fun _ _ => of_word _ _ _ _ rfl rfl (by decide) (M5.toNat_lt _)
theorem ldk : ∀ x0 x1, Statement (.ldk x0 x1) := fun _ _ => of_word _ _ _ _ rfl rfl (by decide) (M5.toNat_lt _)
theorem pref : ∀ x0 x1, Statement (.pref x0 x1) := fun _ _ => of_word _ _ _ _ rfl rfl (by decide) (M5.toNat_lt _)
theorem drain : ∀ x0 x1, Statement (.drain x0 x1) := fun _ _ => of_word _ _ _ _ rfl rfl (by decide) (M5.toNat_lt _)
theorem discard : ∀ x0 x1, Statement (.discard x0 x1) := fun _ _ => of_word _ _ _ _ rfl rfl (by decide) (M5.toNat_lt _)
theorem clean : ∀ x0 x1, Statement (.clean x0 x1) := fun _ _ => of_word _ _ _ _ rfl rfl (by decide) (M5.toNat_lt _)
theorem inval : ∀ x0 x1, Statement (.inval x0 x1) := fun _ _ => of_word _ _ _ _ rfl rfl (by decide) (M5.toNat_lt _)
theorem atom : ∀ x0 x1 x2, Statement (.atom x0 x1 x2) := fun _ _ _ => of_word _ _ _ _ rfl rfl (by decide) (M5.toNat_lt _)
theorem cas : ∀ x0 x1, Statement (.cas x0 x1) := fun _ _ => of_word _ _ _ _ rfl rfl (by decide) (M5.toNat_lt _)
theorem fence : ∀ x0 x1, Statement (.fence x0 x1) := fun _ _ => of_word _ _ _ _ rfl rfl (by decide) (M5.toNat_lt _)
theorem acqr : ∀ x0 x1, Statement (.acqr x0 x1) := fun _ _ => of_word _ _ _ _ rfl rfl (by decide) (M5.toNat_lt _)
theorem barinit : ∀ x0 x1, Statement (.barinit x0 x1) := fun _ _ => of_word _ _ _ _ rfl rfl (by decide) (M7.toNat_lt _)
theorem bararv : ∀ x0 x1 x2, Statement (.bararv x0 x1 x2) := fun _ _ _ => of_word _ _ _ _ rfl rfl (by decide) (M7.toNat_lt _)
theorem barwait : ∀ x0 x1, Statement (.barwait x0 x1) := fun _ _ => of_word _ _ _ _ rfl rfl (by decide) (M7.toNat_lt _)
theorem barsync : ∀ x0 x1, Statement (.barsync x0 x1) := fun _ _ => of_word _ _ _ _ rfl rfl (by decide) (M7.toNat_lt _)
theorem barstat : ∀ x0 x1, Statement (.barstat x0 x1) := fun _ _ => of_word _ _ _ _ rfl rfl (by decide) (M7.toNat_lt _)
theorem barstatClr : ∀ x0 x1, Statement (.barstatClr x0 x1) := fun _ _ => of_word _ _ _ _ rfl rfl (by decide) (M7.toNat_lt _)
theorem barstatX : ∀ x0, Statement (.barstatX x0) := fun _ => of_word _ _ _ _ rfl rfl (by decide) (M7.toNat_lt _)
theorem barinv : ∀ x0 x1, Statement (.barinv x0 x1) := fun _ _ => of_word _ _ _ _ rfl rfl (by decide) (M7.toNat_lt _)
theorem shfl : ∀ x0 x1 x2 x3 x4, Statement (.shfl x0 x1 x2 x3 x4) := fun _ _ _ _ _ => of_word _ _ _ _ rfl rfl (by decide) (M7.toNat_lt _)
theorem lred : ∀ x0 x1 x2 x3 x4, Statement (.lred x0 x1 x2 x3 x4) := fun _ _ _ _ _ => of_word _ _ _ _ rfl rfl (by decide) (M7.toNat_lt _)
theorem vote : ∀ x0 x1 x2, Statement (.vote x0 x1 x2) := fun _ _ _ => of_word _ _ _ _ rfl rfl (by decide) (M7.toNat_lt _)
theorem spawn : ∀ x0, Statement (.spawn x0) := fun _ => of_word _ _ _ _ rfl rfl (by decide) (M7.toNat_lt _)
theorem spawnW : ∀ x0, Statement (.spawnW x0) := fun _ => of_word _ _ _ _ rfl rfl (by decide) (M7.toNat_lt _)
theorem spawnWPlaced : ∀ x0, Statement (.spawnWPlaced x0) := fun _ => of_event _ rfl rfl
theorem cp : ∀ x0 x1 x2, Statement (.cp x0 x1 x2) := fun _ _ _ => of_word _ _ _ _ rfl rfl (by decide) (M8.toNat_lt _)
theorem cptLd : ∀ x0 x1 x2 x3 x4, Statement (.cptLd x0 x1 x2 x3 x4) := fun _ _ _ _ _ => of_word _ _ _ _ rfl rfl (by decide) (M8.toNat_lt _)
theorem cptSt : ∀ x0 x1 x2 x3 x4, Statement (.cptSt x0 x1 x2 x3 x4) := fun _ _ _ _ _ => of_word _ _ _ _ rfl rfl (by decide) (M8.toNat_lt _)
theorem cpg : ∀ x0 x1 x2, Statement (.cpg x0 x1 x2) := fun _ _ _ => of_word _ _ _ _ rfl rfl (by decide) (M8.toNat_lt _)
theorem cpfill : ∀ x0 x1 x2 x3 x4, Statement (.cpfill x0 x1 x2 x3 x4) := fun _ _ _ _ _ => of_word _ _ _ _ rfl rfl (by decide) (M8.toNat_lt _)
theorem shchk : ∀ x0 x1, Statement (.shchk x0 x1) := fun _ _ => of_word _ _ _ _ rfl rfl (by decide) (M8.toNat_lt _)
theorem copyLands : ∀ x0 x1, Statement (.copyLands x0 x1) := fun _ _ => of_event _ rfl rfl
theorem mload : ∀ x0 x1 x2 x3 x4 x5 x6, Statement (.mload x0 x1 x2 x3 x4 x5 x6) := fun _ _ _ _ _ _ _ => of_word _ _ _ _ rfl rfl (by decide) (M9.toNat_lt _)
theorem mswap : ∀ x0 x1, Statement (.mswap x0 x1) := fun _ _ => of_word _ _ _ _ rfl rfl (by decide) (M9.toNat_lt _)
theorem mstream : ∀ x0 x1 x2 x3 x4, Statement (.mstream x0 x1 x2 x3 x4) := fun _ _ _ _ _ => of_word _ _ _ _ rfl rfl (by decide) (M9.toNat_lt _)
theorem mgather : ∀ x0 x1 x2 x3 x4, Statement (.mgather x0 x1 x2 x3 x4) := fun _ _ _ _ _ => of_word _ _ _ _ rfl rfl (by decide) (M9.toNat_lt _)
theorem mread : ∀ x0 x1 x2, Statement (.mread x0 x1 x2) := fun _ _ _ => of_word _ _ _ _ rfl rfl (by decide) (M9.toNat_lt _)
theorem mzero : ∀ x0 x1 x2, Statement (.mzero x0 x1 x2) := fun _ _ _ => of_word _ _ _ _ rfl rfl (by decide) (M9.toNat_lt _)
theorem maccld : ∀ x0 x1 x2 x3, Statement (.maccld x0 x1 x2 x3) := fun _ _ _ _ => of_word _ _ _ _ rfl rfl (by decide) (M9.toNat_lt _)
theorem matrixGrant : ∀ x0, Statement (.matrixGrant x0) := fun _ => of_event _ rfl rfl
theorem matrixLands : ∀ x0 x1, Statement (.matrixLands x0 x1) := fun _ _ => of_event _ rfl rfl
theorem scdesc : ∀ x0 x1, Statement (.scdesc x0 x1) := fun _ _ => of_word _ _ _ _ rfl rfl (by decide) (MA.toNat_lt _)
theorem scan : ∀ x0 x1, Statement (.scan x0 x1) := fun _ _ => of_word _ _ _ _ rfl rfl (by decide) (MA.toNat_lt _)
theorem scanc : ∀ x0 x1 x2 x3 x4, Statement (.scanc x0 x1 x2 x3 x4) := fun _ _ _ _ _ => of_word _ _ _ _ rfl rfl (by decide) (MA.toNat_lt _)
theorem scanLands : ∀ x0, Statement (.scanLands x0) := fun _ => of_event _ rfl rfl
theorem chopen : ∀ x0, Statement (.chopen x0) := fun _ => of_word _ _ _ _ rfl rfl (by decide) (MA.toNat_lt _)
theorem chclose : ∀ x0, Statement (.chclose x0) := fun _ => of_word _ _ _ _ rfl rfl (by decide) (MA.toNat_lt _)
theorem chbar : ∀ x0, Statement (.chbar x0) := fun _ => of_word _ _ _ _ rfl rfl (by decide) (MA.toNat_lt _)
theorem chsend : ∀ x0 x1, Statement (.chsend x0 x1) := fun _ _ => of_word _ _ _ _ rfl rfl (by decide) (MA.toNat_lt _)
theorem chrecv : ∀ x0 x1, Statement (.chrecv x0 x1) := fun _ _ => of_word _ _ _ _ rfl rfl (by decide) (MA.toNat_lt _)
theorem mailboxEntryArrives : ∀ x0, Statement (.mailboxEntryArrives x0) := fun _ => of_event _ rfl rfl
theorem chbarComplete : ∀ x0, Statement (.chbarComplete x0) := fun _ => of_event _ rfl rfl
theorem shipW : ∀ x0 x1, Statement (.shipW x0 x1) := fun _ _ => of_word _ _ _ _ rfl rfl (by decide) (MB.toNat_lt _)
theorem shipT : ∀ x0 x1, Statement (.shipT x0 x1) := fun _ _ => of_word _ _ _ _ rfl rfl (by decide) (MB.toNat_lt _)
theorem perchRequestEnqueue : ∀ x0, Statement (.perchRequestEnqueue x0) := fun _ => of_event _ rfl rfl
theorem sectionStart : ∀ x0, Statement (.sectionStart x0) := fun _ => of_event _ rfl rfl
theorem lcret : ∀ x0, Statement (.lcret x0) := fun _ => of_word _ _ _ _ rfl rfl (by decide) (MB.toNat_lt _)
theorem sectionWatchdog : ∀ x0, Statement (.sectionWatchdog x0) := fun _ => of_event _ rfl rfl
theorem shipLands : ∀ x0, Statement (.shipLands x0) := fun _ => of_event _ rfl rfl
theorem fspawn : ∀ x0 x1, Statement (.fspawn x0 x1) := fun _ _ => of_word _ _ _ _ rfl rfl (by decide) (MB.toNat_lt _)
theorem fspawnEntryGranted : ∀ x0, Statement (.fspawnEntryGranted x0) := fun _ => of_event _ rfl rfl
theorem frefa : ∀ x0, Statement (.frefa x0) := fun _ => of_word _ _ _ _ rfl rfl (by decide) (MB.toNat_lt _)
theorem frefaOut : ∀ x0, Statement (.frefaOut x0) := fun _ => of_word _ _ _ _ rfl rfl (by decide) (MB.toNat_lt _)
theorem frefaIn : ∀ x0, Statement (.frefaIn x0) := fun _ => of_word _ _ _ _ rfl rfl (by decide) (MB.toNat_lt _)
theorem frefd : ∀ x0, Statement (.frefd x0) := fun _ => of_word _ _ _ _ rfl rfl (by decide) (MB.toNat_lt _)
theorem frefdOut : ∀ x0, Statement (.frefdOut x0) := fun _ => of_word _ _ _ _ rfl rfl (by decide) (MB.toNat_lt _)
theorem fwait : ∀ x0 x1, Statement (.fwait x0 x1) := fun _ _ => of_word _ _ _ _ rfl rfl (by decide) (MB.toNat_lt _)
theorem fwaitLands : ∀ x0, Statement (.fwaitLands x0) := fun _ => of_event _ rfl rfl
theorem fpoll : ∀ x0, Statement (.fpoll x0) := fun _ => of_word _ _ _ _ rfl rfl (by decide) (MB.toNat_lt _)
theorem fset : ∀ x0, Statement (.fset x0) := fun _ => of_word _ _ _ _ rfl rfl (by decide) (MB.toNat_lt _)
theorem rpoint : ∀ x0, Statement (.rpoint x0) := fun _ => of_word _ _ _ _ rfl rfl (by decide) (MB.toNat_lt _)
theorem tret : ∀ x0, Statement (.tret x0) := fun _ => of_word _ _ _ _ rfl rfl (by decide) (by decide)
theorem tretFatal : ∀ x0, Statement (.tretFatal x0) := fun _ => of_word _ _ _ _ rfl rfl (by decide) (by decide)
theorem freplay : ∀ x0, Statement (.freplay x0) := fun _ => of_word _ _ _ _ rfl rfl (by decide) (by decide)
theorem freplayAll : ∀ x0, Statement (.freplayAll x0) := fun _ => of_word _ _ _ _ rfl rfl (by decide) (by decide)
theorem fcancel : ∀ x0, Statement (.fcancel x0) := fun _ => of_word _ _ _ _ rfl rfl (by decide) (by decide)
theorem fcancelAll : ∀ x0, Statement (.fcancelAll x0) := fun _ => of_word _ _ _ _ rfl rfl (by decide) (by decide)
theorem tlbinv : ∀ x0, Statement (.tlbinv x0) := fun _ => of_word _ _ _ _ rfl rfl (by decide) (by decide)
theorem tlbinvAll : ∀ x0, Statement (.tlbinvAll x0) := fun _ => of_word _ _ _ _ rfl rfl (by decide) (by decide)
theorem tlbinvRoot : ∀ x0, Statement (.tlbinvRoot x0) := fun _ => of_word _ _ _ _ rfl rfl (by decide) (by decide)
theorem wsopen : ∀ x0, Statement (.wsopen x0) := fun _ => of_word _ _ _ _ rfl rfl (by decide) (by decide)
theorem wsWindowOpen : ∀ x0, Statement (.wsWindowOpen x0) := fun _ => of_event _ rfl rfl
theorem wsclose : ∀ x0, Statement (.wsclose x0) := fun _ => of_word _ _ _ _ rfl rfl (by decide) (by decide)
theorem ctxsave : ∀ x0, Statement (.ctxsave x0) := fun _ => of_word _ _ _ _ rfl rfl (by decide) (by decide)
theorem ctxload : ∀ x0, Statement (.ctxload x0) := fun _ => of_word _ _ _ _ rfl rfl (by decide) (by decide)
theorem halt : ∀ x0, Statement (.halt x0) := fun _ => of_word _ _ _ _ rfl rfl (by decide) (by decide)
theorem haltResume : ∀ x0, Statement (.haltResume x0) := fun _ => of_word _ _ _ _ rfl rfl (by decide) (by decide)
theorem red : ∀ x0 x1 x2 x3, Statement (.red x0 x1 x2 x3) := fun _ _ _ _ => of_word _ _ _ _ rfl rfl (by decide) (MD.toNat_lt _)
theorem redRoundClose : ∀ x0 x1, Statement (.redRoundClose x0 x1) := fun _ _ => of_event _ rfl rfl
theorem redRoundTimeout : ∀ x0, Statement (.redRoundTimeout x0) := fun _ => of_event _ rfl rfl
theorem mcast : ∀ x0 x1, Statement (.mcast x0 x1) := fun _ _ => of_word _ _ _ _ rfl rfl (by decide) (MD.toNat_lt _)
theorem mcastLands : ∀ x0 x1, Statement (.mcastLands x0 x1) := fun _ _ => of_event _ rfl rfl
theorem rgrp : ∀ x0 x1 x2, Statement (.rgrp x0 x1 x2) := fun _ _ _ => of_word _ _ _ _ rfl rfl (by decide) (MD.toNat_lt _)
theorem rgrpMc : ∀ x0, Statement (.rgrpMc x0) := fun _ => of_word _ _ _ _ rfl rfl (by decide) (MD.toNat_lt _)
theorem rgrpFree : ∀ x0, Statement (.rgrpFree x0) := fun _ => of_word _ _ _ _ rfl rfl (by decide) (MD.toNat_lt _)
theorem issueCycle : ∀ x0, Statement (.issueCycle x0) := fun _ => of_event _ rfl rfl
theorem pageWalk : ∀ x0, Statement (.pageWalk x0) := fun _ => of_event _ rfl rfl
theorem wcEntrySend : ∀ x0 x1, Statement (.wcEntrySend x0 x1) := fun _ _ => of_event _ rfl rfl
theorem regionMerge : ∀ x0 x1, Statement (.regionMerge x0 x1) := fun _ _ => of_event _ rfl rfl
theorem forwardedStoreAck : ∀ x0, Statement (.forwardedStoreAck x0) := fun _ => of_event _ rfl rfl
theorem ltimeTick : ∀ x0, Statement (.ltimeTick x0) := fun _ => of_event _ rfl rfl
theorem sliceWake : ∀ x0 x1, Statement (.sliceWake x0 x1) := fun _ _ => of_event _ rfl rfl
theorem refreshSlot : Statement .refreshSlot := of_event _ rfl rfl
theorem dispatchHead : ∀ x0 x1, Statement (.dispatchHead x0 x1) := fun _ _ => of_event _ rfl rfl
theorem placeGroup : ∀ x0 x1, Statement (.placeGroup x0 x1) := fun _ _ => of_event _ rfl rfl
theorem preempt : ∀ x0 x1, Statement (.preempt x0 x1) := fun _ _ => of_event _ rfl rfl
theorem familyStopped : ∀ x0, Statement (.familyStopped x0) := fun _ => of_event _ rfl rfl
theorem groupRetire : ∀ x0, Statement (.groupRetire x0) := fun _ => of_event _ rfl rfl
theorem submissionSkip : ∀ x0, Statement (.submissionSkip x0) := fun _ => of_event _ rfl rfl
theorem submissionLaunch : ∀ x0, Statement (.submissionLaunch x0) := fun _ => of_event _ rfl rfl
theorem submissionSpawn : ∀ x0, Statement (.submissionSpawn x0) := fun _ => of_event _ rfl rfl
theorem submissionUnbound : ∀ x0, Statement (.submissionUnbound x0) := fun _ => of_event _ rfl rfl
theorem submissionDrop : ∀ x0, Statement (.submissionDrop x0) := fun _ => of_event _ rfl rfl
theorem coreFusedOff : ∀ x0 x1, Statement (.coreFusedOff x0 x1) := fun _ _ => of_event _ rfl rfl
theorem dieLinkFail : ∀ x0, Statement (.dieLinkFail x0) := fun _ => of_event _ rfl rfl
theorem dieFail : ∀ x0, Statement (.dieFail x0) := fun _ => of_event _ rfl rfl
theorem hostRdmaWrite : ∀ x0 x1 x2, Statement (.hostRdmaWrite x0 x1 x2) := fun _ _ _ => of_event _ rfl rfl
theorem hostRdmaRead : ∀ x0 x1 x2, Statement (.hostRdmaRead x0 x1 x2) := fun _ _ _ => of_event _ rfl rfl
theorem hostRdmaCas : ∀ x0 x1 x2 x3, Statement (.hostRdmaCas x0 x1 x2 x3) := fun _ _ _ _ => of_event _ rfl rfl
theorem hostRdmaFetchAdd : ∀ x0 x1 x2, Statement (.hostRdmaFetchAdd x0 x1 x2) := fun _ _ _ => of_event _ rfl rfl
theorem hostRdmaRefusedOp : ∀ x0, Statement (.hostRdmaRefusedOp x0) := fun _ => of_event _ rfl rfl
theorem pcbRegisterWrite : ∀ x0 x1 x2, Statement (.pcbRegisterWrite x0 x1 x2) := fun _ _ _ => of_event _ rfl rfl
theorem loaderRequest : Statement .loaderRequest := of_event _ rfl rfl
theorem keyLoad : Statement .keyLoad := of_event _ rfl rfl
theorem keyClear : Statement .keyClear := of_event _ rfl rfl
theorem attestRequest : Statement .attestRequest := of_event _ rfl rfl
theorem powerArbiter : ∀ x0 x1, Statement (.powerArbiter x0 x1) := fun _ _ => of_event _ rfl rfl
theorem thermalCrit : Statement .thermalCrit := of_event _ rfl rfl
theorem powerStateEnter : ∀ x0, Statement (.powerStateEnter x0) := fun _ => of_event _ rfl rfl
theorem powerStateWake : ∀ x0, Statement (.powerStateWake x0) := fun _ => of_event _ rfl rfl
theorem reset : Statement .reset := of_event _ rfl rfl
theorem firmwareVerify : ∀ x0, Statement (.firmwareVerify x0) := fun _ => of_event _ rfl rfl
theorem reducedService : ∀ x0, Statement (.reducedService x0) := fun _ => of_event _ rfl rfl
theorem fullService : ∀ x0 x1 x2, Statement (.fullService x0 x1 x2) := fun _ _ _ => of_event _ rfl rfl
theorem fabricPacketDeliver : ∀ x0, Statement (.fabricPacketDeliver x0) := fun _ => of_event _ rfl rfl
theorem fabricAck : ∀ x0 x1 x2, Statement (.fabricAck x0 x1 x2) := fun _ _ _ => of_event _ rfl rfl
theorem fabricResend : ∀ x0 x1 x2, Statement (.fabricResend x0 x1 x2) := fun _ _ _ => of_event _ rfl rfl
theorem fabricUndeliverable : ∀ x0 x1 x2, Statement (.fabricUndeliverable x0 x1 x2) := fun _ _ _ => of_event _ rfl rfl
theorem floorNotice : ∀ x0 x1 x2, Statement (.floorNotice x0 x1 x2) := fun _ _ _ => of_event _ rfl rfl
theorem incarnationChange : ∀ x0 x1 x2 x3, Statement (.incarnationChange x0 x1 x2 x3) := fun _ _ _ _ => of_event _ rfl rfl
theorem remoteAccessReply : ∀ x0 x1 x2, Statement (.remoteAccessReply x0 x1 x2) := fun _ _ _ => of_event _ rfl rfl
theorem laneSample : ∀ x0 x1 x2, Statement (.laneSample x0 x1 x2) := fun _ _ _ => of_event _ rfl rfl
theorem portRetrain : ∀ x0 x1, Statement (.portRetrain x0 x1) := fun _ _ => of_event _ rfl rfl
theorem spineLost : ∀ x0 x1, Statement (.spineLost x0 x1) := fun _ _ => of_event _ rfl rfl
theorem temperatureCrossesThrottleLimit : ∀ x0, Statement (.temperatureCrossesThrottleLimit x0) := fun _ => of_event _ rfl rfl

end Sys2Proof.Laws.Encoding
end

