-- ==== Sys2Proof/Tests/Slice0.lean ====
section
/-! SUPPORT. Tests. Words written out from the encodings of the spec decode to the instructions they stand for; single
instructions on small states; and for the statements of Certificates/Slice0/Obligations.lean, states and operands that
meet their hypotheses. Expected values come from the examples of the spec or are worked out by hand from its rules. -/
namespace Sys2Proof.Tests
open Sys2Proof Sys2Proof.Machine
set_option maxRecDepth 100000
set_option exponentiation.threshold 1100

def decodesAll (l : List (Nat × Instr)) : Bool := l.all (fun p => decide (decodeTableWord 96 p.1 = some p.2))
theorem test_decode_class0 : decodesAll [
    (0x00070003007003FC04000064, .iadd .i32 true ⟨100#24, .gpr 3#8, .gpr 1#8, .imm, .gpr 255#8⟩),
    (0x00170004018083FD80000000, .isub .n64 false ⟨0#24, .gpr 4#8, .gpr 6#8, .gpr 8#8, .gpr 255#8⟩),
    (0x002700030040201488000000, .iaddc .n32 true ⟨0#24, .gpr 3#8, .gpr 1#8, .gpr 2#8, .gpr 5#8⟩),
    (0x003700030040201400000000, .isubb .i32 false ⟨0#24, .gpr 3#8, .gpr 1#8, .gpr 2#8, .gpr 5#8⟩),
    (0x00470004018083FD04000000, .imul .i64 true ⟨0#24, .gpr 4#8, .gpr 6#8, .gpr 8#8, .gpr 255#8⟩),
    (0x00570003004023FC80000000, .imulh .n32 ⟨0#24, .gpr 3#8, .gpr 1#8, .gpr 2#8, .gpr 255#8⟩),
    (0x006700030040201600000000, .imad .i16x2 false ⟨0#24, .gpr 3#8, .gpr 1#8, .gpr 2#8, .gpr 5#8⟩),
    (0x00770003004023FC00000000, .idiv .i32 ⟨0#24, .gpr 3#8, .gpr 1#8, .gpr 2#8, .gpr 255#8⟩),
    (0x00870003004023FC80000000, .irem .n32 ⟨0#24, .gpr 3#8, .gpr 1#8, .gpr 2#8, .gpr 255#8⟩),
    (0x00970003004FF3FE04000000, .iabs .i16x2 true ⟨0#24, .gpr 3#8, .gpr 1#8, .gpr 255#8, .gpr 255#8⟩),
    (0x00A70004018FF3FD00000000, .ineg .i64 false ⟨0#24, .gpr 4#8, .gpr 6#8, .gpr 255#8, .gpr 255#8⟩),
    (0x00B70003004023FC00000000, .imin .i32 ⟨0#24, .gpr 3#8, .gpr 1#8, .gpr 2#8, .gpr 255#8⟩),
    (0x00C70003004023FC80000000, .imax .n32 ⟨0#24, .gpr 3#8, .gpr 1#8, .gpr 2#8, .gpr 255#8⟩),
    (0x00D70101004023FC90000000, .icmp .n32 .lt ⟨0#24, .pred 1#3, .gpr 1#8, .gpr 2#8, .gpr 255#8⟩),
    (0x00E70003006833FC80000000, .land .n32 ⟨0#24, .gpr 3#8, .gpr 1#8, .small 3#7, .gpr 255#8⟩),
    (0x00F70003006833FC80000000, .lor .n32 ⟨0#24, .gpr 3#8, .gpr 1#8, .small 3#7, .gpr 255#8⟩),
    (0x01070003006833FC80000000, .lxor .n32 ⟨0#24, .gpr 3#8, .gpr 1#8, .small 3#7, .gpr 255#8⟩),
    (0x01170003006833FC80000000, .landn .n32 ⟨0#24, .gpr 3#8, .gpr 1#8, .small 3#7, .gpr 255#8⟩),
    (0x01270003004FF3FC00000000, .lnot .i32 ⟨0#24, .gpr 3#8, .gpr 1#8, .gpr 255#8, .gpr 255#8⟩),
    (0x01370003004023FC00000000, .shl .i32 ⟨0#24, .gpr 3#8, .gpr 1#8, .gpr 2#8, .gpr 255#8⟩),
    (0x01470003004023FC00000000, .shr .i32 ⟨0#24, .gpr 3#8, .gpr 1#8, .gpr 2#8, .gpr 255#8⟩),
    (0x01570003004023FC00000000, .sar .i32 ⟨0#24, .gpr 3#8, .gpr 1#8, .gpr 2#8, .gpr 255#8⟩),
    (0x01670003004023FC00000000, .rotl .i32 ⟨0#24, .gpr 3#8, .gpr 1#8, .gpr 2#8, .gpr 255#8⟩),
    (0x01770003004FF3FC80000000, .popc .n32 ⟨0#24, .gpr 3#8, .gpr 1#8, .gpr 255#8, .gpr 255#8⟩),
    (0x01870003004FF3FC80000000, .clz .n32 ⟨0#24, .gpr 3#8, .gpr 1#8, .gpr 255#8, .gpr 255#8⟩),
    (0x01970003004FF3FC80000000, .ctz .n32 ⟨0#24, .gpr 3#8, .gpr 1#8, .gpr 255#8, .gpr 255#8⟩),
    (0x01A70003004FF3FC80000000, .brev .n32 ⟨0#24, .gpr 3#8, .gpr 1#8, .gpr 255#8, .gpr 255#8⟩),
    (0x01B70003007003FC00000804, .bfx .i32 ⟨2052#24, .gpr 3#8, .gpr 1#8, .imm, .gpr 255#8⟩),
    (0x01C700030040201480000000, .bfi .n32 ⟨0#24, .gpr 3#8, .gpr 1#8, .gpr 2#8, .gpr 5#8⟩),
    (0x01D7000401803A1198000000, .lea .n64 3#4 ⟨0#24, .gpr 4#8, .gpr 6#8, .gpr 3#8, .small 4#7⟩),
    (0x01E70003004020140C000000, .idot4 .i32 true true ⟨0#24, .gpr 3#8, .gpr 1#8, .gpr 2#8, .gpr 5#8⟩)] = true := by decide

theorem test_decode_class1 : decodesAll [
    (0x10070003004023FC20000000, .fadd .f32 .rz false ⟨0#24, .gpr 3#8, .gpr 1#8, .gpr 2#8, .gpr 255#8⟩),
    (0x10170004018083FD40000000, .fsub .f64 .ru false ⟨0#24, .gpr 4#8, .gpr 6#8, .gpr 8#8, .gpr 255#8⟩),
    (0x1027000601B003FC00040490, .fmul .f32 .rn false ⟨263312#24, .gpr 6#8, .gpr 6#8, .imm, .gpr 255#8⟩),
    (0x103700040150301000000000, .ffma .f32 .rn false ⟨0#24, .gpr 4#8, .gpr 5#8, .const 3#8, .gpr 4#8⟩),
    (0x10470003004023FE01000000, .fmin .f16x2 true false ⟨0#24, .gpr 3#8, .gpr 1#8, .gpr 2#8, .gpr 255#8⟩),
    (0x10570003004023FF10000000, .fmax .bf16x2 false true ⟨0#24, .gpr 3#8, .gpr 1#8, .gpr 2#8, .gpr 255#8⟩),
    (0x10670003004FF3FC00000000, .fabs .f32 false ⟨0#24, .gpr 3#8, .gpr 1#8, .gpr 255#8, .gpr 255#8⟩),
    (0x10770004018FF3FD00000000, .fneg .f64 false ⟨0#24, .gpr 4#8, .gpr 6#8, .gpr 255#8, .gpr 255#8⟩),
    (0x10870102004023FC06000000, .fcmp .f32 .un false ⟨0#24, .pred 2#3, .gpr 1#8, .gpr 2#8, .gpr 255#8⟩),
    (0x10970003004023FC00000000, .fclass .f32 ⟨0#24, .gpr 3#8, .gpr 1#8, .gpr 2#8, .gpr 255#8⟩),
    (0x10A70003004FF3FC60000000, .frnd .f32 .rd false ⟨0#24, .gpr 3#8, .gpr 1#8, .gpr 255#8, .gpr 255#8⟩),
    (0x10B70003004023FC80000000, .fscale .f32 .rs false ⟨0#24, .gpr 3#8, .gpr 1#8, .gpr 2#8, .gpr 255#8⟩),
    (0x10C70003004023FC00000000, .fdiv .f32 .rn false ⟨0#24, .gpr 3#8, .gpr 1#8, .gpr 2#8, .gpr 255#8⟩),
    (0x10D70004018FF3FD20000000, .fsqrt .f64 .rz false ⟨0#24, .gpr 4#8, .gpr 6#8, .gpr 255#8, .gpr 255#8⟩),
    (0x10E700030040201600000000, .fdot2 .f16x2 .rn false ⟨0#24, .gpr 3#8, .gpr 1#8, .gpr 2#8, .gpr 5#8⟩)] = true := by decide

theorem test_decode_class2 : decodesAll [
    (0x20070003004FF3FCA8800000, .cvt ⟨.i32, .f32, .rz, false, false, false⟩ ⟨0#24, .gpr 3#8, .gpr 1#8, .gpr 255#8, .gpr 255#8⟩),
    (0x201700030180801728000000, .packt ⟨.t8, .f32, .rn, false, false, false⟩ ⟨0#24, .gpr 3#8, .gpr 6#8, .gpr 8#8, .gpr 5#8⟩),
    (0x20270004018023FEB4000000, .unpackt ⟨.f32, .t6, .rn, false, false, false⟩ ⟨0#24, .gpr 4#8, .gpr 6#8, .gpr 2#8, .gpr 255#8⟩),
    (0x20370003004FF3FEA8000000, .frcp ⟨.f32, .f32, .rn, false, false, false⟩ ⟨0#24, .gpr 3#8, .gpr 1#8, .gpr 255#8, .gpr 255#8⟩),
    (0x20470003004FF3FE20100000, .frsq ⟨.f16, .f16, .rn, false, false, true⟩ ⟨0#24, .gpr 3#8, .gpr 1#8, .gpr 255#8, .gpr 255#8⟩),
    (0x20570003004FF3FEA8000000, .fexp2 ⟨.f32, .f32, .rn, false, false, false⟩ ⟨0#24, .gpr 3#8, .gpr 1#8, .gpr 255#8, .gpr 255#8⟩),
    (0x20670003004FF3FEA8000000, .flog2 ⟨.f32, .f32, .rn, false, false, false⟩ ⟨0#24, .gpr 3#8, .gpr 1#8, .gpr 255#8, .gpr 255#8⟩),
    (0x20770003004FF3FEA8000000, .fsinpi ⟨.f32, .f32, .rn, false, false, false⟩ ⟨0#24, .gpr 3#8, .gpr 1#8, .gpr 255#8, .gpr 255#8⟩),
    (0x20870003004FF3FEA8000000, .fcospi ⟨.f32, .f32, .rn, false, false, false⟩ ⟨0#24, .gpr 3#8, .gpr 1#8, .gpr 255#8, .gpr 255#8⟩),
    (0x20970003004FF3FEA8000000, .ftanh ⟨.f32, .f32, .rn, false, false, false⟩ ⟨0#24, .gpr 3#8, .gpr 1#8, .gpr 255#8, .gpr 255#8⟩),
    (0x20A70003004FF3FEA8000000, .fsigm ⟨.f32, .f32, .rn, false, false, false⟩ ⟨0#24, .gpr 3#8, .gpr 1#8, .gpr 255#8, .gpr 255#8⟩),
    (0x20B70003004020168A200000, .sacc ⟨.f32, .i32, .rs, false, true, false⟩ ⟨0#24, .gpr 3#8, .gpr 1#8, .gpr 2#8, .gpr 5#8⟩)] = true := by decide

theorem test_decode_class3 : decodesAll [
    (0x30070004018FF3FE00000000, .mov true ⟨0#24, .gpr 4#8, .gpr 6#8, .gpr 255#8, .gpr 255#8⟩),
    (0x301700043FCFF3FC010000AB, .movi false 1#2 ⟨171#24, .gpr 4#8, .gpr 255#8, .gpr 255#8, .gpr 255#8⟩),
    (0x302700030040282400000000, .sel false ⟨0#24, .gpr 3#8, .gpr 1#8, .gpr 2#8, .pred 1#3⟩),
    (0x3037000300402014CA000000, .plop false 0xCA#8 ⟨0#24, .gpr 3#8, .gpr 1#8, .gpr 2#8, .gpr 5#8⟩),
    (0x304700033FCFF3FC00000000, .pmovGet ⟨0#24, .gpr 3#8, .gpr 255#8, .gpr 255#8, .gpr 255#8⟩),
    (0x304701FF004FF3FC0100007F, .pmovSet ⟨127#24, .none, .gpr 1#8, .gpr 255#8, .gpr 255#8⟩),
    (0x30570003004FF3FC00000000, .sread ⟨0#24, .gpr 3#8, .gpr 1#8, .gpr 255#8, .gpr 255#8⟩),
    (0x306701FF004023FC00000000, .swrite ⟨0#24, .none, .gpr 1#8, .gpr 2#8, .gpr 255#8⟩)] = true := by decide

theorem test_decode_class4 : decodesAll [
    (0x400701FF3FCFF3FC00FFFFFA, .bra ⟨16777210#24, .none, .gpr 255#8, .gpr 255#8, .gpr 255#8⟩),
    (0x401701FF018FF3FC00000000, .brx ⟨0#24, .none, .gpr 6#8, .gpr 255#8, .gpr 255#8⟩),
    (0x401701FF018FF3FC40000000, .brxEntry ⟨0#24, .none, .gpr 6#8, .gpr 255#8, .gpr 255#8⟩),
    (0x402700083FCFF3FC00000009, .call ⟨9#24, .gpr 8#8, .gpr 255#8, .gpr 255#8, .gpr 255#8⟩),
    (0x40370008018FF3FC00000000, .callx ⟨0#24, .gpr 8#8, .gpr 6#8, .gpr 255#8, .gpr 255#8⟩),
    (0x404701FF018FF3FC00000000, .ret ⟨0#24, .none, .gpr 6#8, .gpr 255#8, .gpr 255#8⟩),
    (0x405701FF3FCFF3FC00000000, .exit ⟨0#24, .none, .gpr 255#8, .gpr 255#8, .gpr 255#8⟩),
    (0x406701FFA10FF3FC00000002, .loop ⟨2#24, .none, .small 4#7, .gpr 255#8, .gpr 255#8⟩),
    (0x407701FF3FCFF3FC00000005, .lbrk ⟨5#24, .none, .gpr 255#8, .gpr 255#8, .gpr 255#8⟩),
    (0x408701FF3FCFF3FC00001234, .trap ⟨4660#24, .none, .gpr 255#8, .gpr 255#8, .gpr 255#8⟩),
    (0x409701FF3FCFF3FC00000000, .yield ⟨0#24, .none, .gpr 255#8, .gpr 255#8, .gpr 255#8⟩),
    (0x40A701FF3FCFF3FC3F000000, .conv 63#6 ⟨0#24, .none, .gpr 255#8, .gpr 255#8, .gpr 255#8⟩),
    (0x40B701FF3FCFF3FC00000000, .nop ⟨0#24, .none, .gpr 255#8, .gpr 255#8, .gpr 255#8⟩)] = true := by decide

theorem test_decode_class5 : decodesAll [
    (0x50070008010073FD00080010, .ld ⟨.b32, .core, .rlx, false, 0#4, 2#2, 16#18⟩ ⟨0#24, .gpr 8#8, .gpr 4#8, .gpr 7#8, .gpr 255#8⟩),
    (0x501701FF010FF019C803FFFC, .st ⟨.b64, .sys, .rel, false, 0#4, 0#2, 262140#18⟩ ⟨0#24, .none, .gpr 4#8, .gpr 255#8, .gpr 6#8⟩),
    (0x50270003004FF3FD00000008, .ldk ⟨.b32, .core, .rlx, false, 0#4, 0#2, 8#18⟩ ⟨0#24, .gpr 3#8, .gpr 1#8, .gpr 255#8, .gpr 255#8⟩),
    (0x503701FF010FF3FC00100000, .pref ⟨.b8, .core, .rlx, false, 1#4, 0#2, 0#18⟩ ⟨0#24, .none, .gpr 4#8, .gpr 255#8, .gpr 255#8⟩),
    (0x504701FF3FCFF3FC00000000, .drain ⟨.b8, .core, .rlx, false, 0#4, 0#2, 0#18⟩ ⟨0#24, .none, .gpr 255#8, .gpr 255#8, .gpr 255#8⟩),
    (0x505701FF004FF3FC00200000, .discard ⟨.b8, .core, .rlx, false, 2#4, 0#2, 0#18⟩ ⟨0#24, .none, .gpr 1#8, .gpr 255#8, .gpr 255#8⟩),
    (0x506701FF010073FC000C0004, .clean ⟨.b8, .core, .rlx, false, 0#4, 3#2, 4#18⟩ ⟨0#24, .none, .gpr 4#8, .gpr 7#8, .gpr 255#8⟩),
    (0x507701FF010FF3FC00000000, .inval ⟨.b8, .core, .rlx, false, 0#4, 0#2, 0#18⟩ ⟨0#24, .none, .gpr 4#8, .gpr 255#8, .gpr 255#8⟩)] = true := by decide

theorem test_decode_class6 : decodesAll [
    (0x600700030100701525040008, .atom .add ⟨.b32, .die, .acq, true, 0#4, 1#2, 8#18⟩ ⟨0#24, .gpr 3#8, .gpr 4#8, .gpr 7#8, .gpr 5#8⟩),
    (0x60070008010FF01980B00000, .atom .fmax ⟨.b64, .core, .rlx, false, 11#4, 0#2, 0#18⟩ ⟨0#24, .gpr 8#8, .gpr 4#8, .gpr 255#8, .gpr 6#8⟩),
    (0x601700030100501D3C000004, .cas ⟨.b32, .pkg, .ar, false, 0#4, 0#2, 4#18⟩ ⟨0#24, .gpr 3#8, .gpr 4#8, .gpr 5#8, .gpr 7#8⟩),
    (0x602701FF3FCFF3FC18000000, .fence ⟨.b8, .clus, .rel, false, 0#4, 0#2, 0#18⟩ ⟨0#24, .none, .gpr 255#8, .gpr 255#8, .gpr 255#8⟩),
    (0x60370008010FF3FDC0000000, .acqr ⟨.b64, .sys, .rlx, false, 0#4, 0#2, 0#18⟩ ⟨0#24, .gpr 8#8, .gpr 4#8, .gpr 255#8, .gpr 255#8⟩)] = true := by decide

theorem test_decode_class7 : decodesAll [
    (0x700701FF3FC033FC50000000, .barinit ⟨5#6, false, 0#20⟩ ⟨0#24, .none, .gpr 255#8, .gpr 3#8, .gpr 255#8⟩),
    (0x701700073FC033FC50100000, .bararv true ⟨5#6, false, 0#20⟩ ⟨0#24, .gpr 7#8, .gpr 255#8, .gpr 3#8, .gpr 255#8⟩),
    (0x70270007010033FC08000040, .barwait ⟨0#6, true, 64#20⟩ ⟨0#24, .gpr 7#8, .gpr 4#8, .gpr 3#8, .gpr 255#8⟩),
    (0x703700073FCFF3FC50000000, .barsync ⟨5#6, false, 0#20⟩ ⟨0#24, .gpr 7#8, .gpr 255#8, .gpr 255#8, .gpr 255#8⟩),
    (0x704700083FCFF3FC60000000, .barstat ⟨6#6, false, 0#20⟩ ⟨0#24, .gpr 8#8, .gpr 255#8, .gpr 255#8, .gpr 255#8⟩),
    (0x704700083FCFF3FC60200000, .barstatClr ⟨6#6, false, 0#20⟩ ⟨0#24, .gpr 8#8, .gpr 255#8, .gpr 255#8, .gpr 255#8⟩),
    (0x704700083FC033FC00100000, .barstatX ⟨0#24, .gpr 8#8, .gpr 255#8, .gpr 3#8, .gpr 255#8⟩),
    (0x705701FF3FCFF3FFF0000000, .barinv ⟨63#6, false, 0#20⟩ ⟨0#24, .none, .gpr 255#8, .gpr 255#8, .gpr 255#8⟩),
    (0x70670009022813FC20300000, .shfl .xor .operand false 2#6 ⟨0#24, .gpr 9#8, .gpr 8#8, .small 1#7, .gpr 255#8⟩),
    (0x70670008018FF3FC23100000, .shfl .up .quarter true 2#6 ⟨0#24, .gpr 8#8, .gpr 6#8, .gpr 255#8, .gpr 255#8⟩),
    (0x70770009020FF3FC21600000, .lred .or .incl false 2#6 ⟨0#24, .gpr 9#8, .gpr 8#8, .gpr 255#8, .gpr 255#8⟩),
    (0x70870101020FF3FC30100000, .vote .some 3#6 ⟨0#24, .pred 1#3, .gpr 8#8, .gpr 255#8, .gpr 255#8⟩),
    (0x70970003018023FC00000000, .spawn ⟨0#24, .gpr 3#8, .gpr 6#8, .gpr 2#8, .gpr 255#8⟩),
    (0x70970003018023FC00100000, .spawnW ⟨0#24, .gpr 3#8, .gpr 6#8, .gpr 2#8, .gpr 255#8⟩)] = true := by decide

theorem test_decode_class8 : decodesAll [
    (0x8007000C0501601838000002, .cp ⟨false, true, false⟩ ⟨3#6, true⟩ ⟨0#24, .gpr 12#8, .gpr 20#8, .gpr 22#8, .gpr 6#8⟩),
    (0x8017000C0281404000000002, .cptLd true false false ⟨0#6, false⟩ ⟨0#24, .gpr 12#8, .gpr 10#8, .gpr 20#8, .gpr 16#8⟩),
    (0x8017000C028140401800000D, .cptSt false true true ⟨1#6, true⟩ ⟨0#24, .gpr 12#8, .gpr 10#8, .gpr 20#8, .gpr 16#8⟩),
    (0x8027000C0501601800000029, .cpg ⟨true, false, false⟩ 5#21 ⟨0#24, .gpr 12#8, .gpr 20#8, .gpr 22#8, .gpr 6#8⟩),
    (0x8037000C0500301400000012, .cpfill true false .b32 ⟨0#6, false⟩ ⟨0#24, .gpr 12#8, .gpr 20#8, .gpr 3#8, .gpr 5#8⟩),
    (0x80470004028FF3FC00000008, .shchk true ⟨0#24, .gpr 4#8, .gpr 10#8, .gpr 255#8, .gpr 255#8⟩)] = true := by decide

theorem test_decode_class9 : decodesAll [
    (0x900701FF052823FC0001011F, .mload 0#6 .t8 false true 31#8 1#8 ⟨0#24, .none, .gpr 20#8, .small 2#7, .gpr 255#8⟩),
    (0x901700053FCFF3FC10000000, .mswap 1#6 ⟨0#24, .gpr 5#8, .gpr 255#8, .gpr 255#8, .gpr 255#8⟩),
    (0x902701FF05A80A8000000002, .mstream 0#6 .t8 false 2#11 ⟨0#24, .none, .gpr 22#8, .small 0#7, .small 32#7⟩),
    (0x903700050580301C24000809, .mgather 2#6 .i8 true 9#11 ⟨0#24, .gpr 5#8, .gpr 22#8, .gpr 3#8, .gpr 7#8⟩),
    (0x904700050580301C2014C804, .mread 2#6 ⟨4#11, .bf16, .rz, true, false, true, false⟩ ⟨0#24, .gpr 5#8, .gpr 22#8, .gpr 3#8, .gpr 7#8⟩),
    (0x905700053FC033FC20000004, .mzero 2#6 4#11 ⟨0#24, .gpr 5#8, .gpr 255#8, .gpr 3#8, .gpr 255#8⟩),
    (0x906700050580301C20080004, .maccld 2#6 4#11 true ⟨0#24, .gpr 5#8, .gpr 22#8, .gpr 3#8, .gpr 7#8⟩)] = true := by decide

theorem test_decode_classA : decodesAll [
    (0xA0070003010FF3FC00000001, .scdesc true ⟨0#24, .gpr 3#8, .gpr 4#8, .gpr 255#8, .gpr 255#8⟩),
    (0xA017000A0100602020000000, .scan 2#6 ⟨0#24, .gpr 10#8, .gpr 4#8, .gpr 6#8, .gpr 8#8⟩),
    (0xA027000C0501602010000001, .scanc true false false 1#6 ⟨0#24, .gpr 12#8, .gpr 20#8, .gpr 22#8, .gpr 8#8⟩),
    (0xA037000AA02843FC00000000, .chopen ⟨0#24, .gpr 10#8, .small 0#7, .small 4#7, .gpr 255#8⟩),
    (0xA04700033FCFF3FC00000000, .chclose ⟨0#24, .gpr 3#8, .gpr 255#8, .gpr 255#8, .gpr 255#8⟩),
    (0xA05700033FCFF3FC00000000, .chbar ⟨0#24, .gpr 3#8, .gpr 255#8, .gpr 255#8, .gpr 255#8⟩),
    (0xA0670003010FF3FC00000002, .chsend .b128 ⟨0#24, .gpr 3#8, .gpr 4#8, .gpr 255#8, .gpr 255#8⟩),
    (0xA07700103FCFF3FC00000001, .chrecv .b64 ⟨0#24, .gpr 16#8, .gpr 255#8, .gpr 255#8, .gpr 255#8⟩)] = true := by decide

theorem test_decode_classB : decodesAll [
    (0xB00700080080403000000014, .shipW 20#8 ⟨0#24, .gpr 8#8, .gpr 2#8, .gpr 4#8, .gpr 12#8⟩),
    (0xB00700080080403200000014, .shipT 20#8 ⟨0#24, .gpr 8#8, .gpr 2#8, .gpr 4#8, .gpr 12#8⟩),
    (0xB01701FF000FF3FC00000000, .lcret ⟨0#24, .none, .gpr 0#8, .gpr 255#8, .gpr 255#8⟩),
    (0xB027000A010063FC00000002, .fspawn 2#3 ⟨0#24, .gpr 10#8, .gpr 4#8, .gpr 6#8, .gpr 255#8⟩),
    (0xB03701FF010FF3FC00000000, .frefa ⟨0#24, .none, .gpr 4#8, .gpr 255#8, .gpr 255#8⟩),
    (0xB03701FF010063FC10000000, .frefaOut ⟨0#24, .none, .gpr 4#8, .gpr 6#8, .gpr 255#8⟩),
    (0xB03701FF008FF3FC20000000, .frefaIn ⟨0#24, .none, .gpr 2#8, .gpr 255#8, .gpr 255#8⟩),
    (0xB04701FF010FF3FC00000000, .frefd ⟨0#24, .none, .gpr 4#8, .gpr 255#8, .gpr 255#8⟩),
    (0xB04701FF008FF3FC10000000, .frefdOut ⟨0#24, .none, .gpr 2#8, .gpr 255#8, .gpr 255#8⟩),
    (0xB0570008008FF3FC00000014, .fwait 20#8 ⟨0#24, .gpr 8#8, .gpr 2#8, .gpr 255#8, .gpr 255#8⟩),
    (0xB0670009010FF3FC00000000, .fpoll ⟨0#24, .gpr 9#8, .gpr 4#8, .gpr 255#8, .gpr 255#8⟩),
    (0xB07701FF0100C3FC00000000, .fset ⟨0#24, .none, .gpr 4#8, .gpr 12#8, .gpr 255#8⟩),
    (0xB08701FF3FCFF3FC00000000, .rpoint ⟨0#24, .none, .gpr 255#8, .gpr 255#8, .gpr 255#8⟩)] = true := by decide

theorem test_decode_classC : decodesAll [
    (0xC00701FF3FCFF3FC00000000, .tret ⟨0#24, .none, .gpr 255#8, .gpr 255#8, .gpr 255#8⟩),
    (0xC00701FF3FCFF3FC00000001, .tretFatal ⟨0#24, .none, .gpr 255#8, .gpr 255#8, .gpr 255#8⟩),
    (0xC017000200CFF3FC00000000, .freplay ⟨0#24, .gpr 2#8, .gpr 3#8, .gpr 255#8, .gpr 255#8⟩),
    (0xC01700023FCFF3FC00000001, .freplayAll ⟨0#24, .gpr 2#8, .gpr 255#8, .gpr 255#8, .gpr 255#8⟩),
    (0xC027000200CFF3FC00000000, .fcancel ⟨0#24, .gpr 2#8, .gpr 3#8, .gpr 255#8, .gpr 255#8⟩),
    (0xC02700023FCFF3FC00000001, .fcancelAll ⟨0#24, .gpr 2#8, .gpr 255#8, .gpr 255#8, .gpr 255#8⟩),
    (0xC0370002010FF3FC00000000, .tlbinv ⟨0#24, .gpr 2#8, .gpr 4#8, .gpr 255#8, .gpr 255#8⟩),
    (0xC03700023FCFF3FC00000001, .tlbinvAll ⟨0#24, .gpr 2#8, .gpr 255#8, .gpr 255#8, .gpr 255#8⟩),
    (0xC0370002010FF3FC00000002, .tlbinvRoot ⟨0#24, .gpr 2#8, .gpr 4#8, .gpr 255#8, .gpr 255#8⟩),
    (0xC047000200CFF3FC00000000, .wsopen ⟨0#24, .gpr 2#8, .gpr 3#8, .gpr 255#8, .gpr 255#8⟩),
    (0xC057000200CFF3FC00000000, .wsclose ⟨0#24, .gpr 2#8, .gpr 3#8, .gpr 255#8, .gpr 255#8⟩),
    (0xC06700140200C3FC00000000, .ctxsave ⟨0#24, .gpr 20#8, .gpr 8#8, .gpr 12#8, .gpr 255#8⟩),
    (0xC0770003020FF3FC00000000, .ctxload ⟨0#24, .gpr 3#8, .gpr 8#8, .gpr 255#8, .gpr 255#8⟩),
    (0xC0870003018FF3FC00000000, .halt ⟨0#24, .gpr 3#8, .gpr 6#8, .gpr 255#8, .gpr 255#8⟩),
    (0xC0870003018FF3FC00000001, .haltResume ⟨0#24, .gpr 3#8, .gpr 6#8, .gpr 255#8, .gpr 255#8⟩)] = true := by decide

theorem test_decode_classD : decodesAll [
    (0xD0070008008063FE00000014, .red .f32 .add 20#8 ⟨0#24, .gpr 8#8, .gpr 2#8, .gpr 6#8, .gpr 255#8⟩),
    (0xD017000C00C0401800000001, .mcast true ⟨0#24, .gpr 12#8, .gpr 3#8, .gpr 4#8, .gpr 6#8⟩),
    (0xD027000200C0401600000000, .rgrp .f32 .add ⟨0#24, .gpr 2#8, .gpr 3#8, .gpr 4#8, .gpr 5#8⟩),
    (0xD027000200C0401800000001, .rgrpMc ⟨0#24, .gpr 2#8, .gpr 3#8, .gpr 4#8, .gpr 6#8⟩),
    (0xD027000200CFF3FC00000002, .rgrpFree ⟨0#24, .gpr 2#8, .gpr 3#8, .gpr 255#8, .gpr 255#8⟩)] = true := by decide

theorem test_decode_other_words : decodesAll [
    (0xFFE000000000000100000000, .entryWordNop 0x100000000#84),
    (0xFFF000000000000040490FDB, .literalWordReached 0x40490FDB#84)] = true := by decide



/-- A page of package memory at 0x10000, mapped at its own address, writable, of the group's own launch class shared. -/
def page : TlbEntry := ⟨0x10000, 3, pteClassed (BitVec.ofNat 64 (0x10000 + 2 ^ 47 + 3)) 2 0⟩

/-- One thread of one group on core 0, with the registers given. -/
def small (regs : List (Nat × Word)) : State :=
  { State.reset with
    threads := [(0, { fetchThread with regs := regs })]
    groups := [(0, { fetchGroup with bars := [⟨2#11, 0#11, false, 0#32, 0, [], 0, none⟩] })]
    launches := [(0, { Launch.blank with ngroup := 1, gsize := 1 })]
    cores := [(0, { Core.init with itlb := [fetchTlb], vtlb := [page] })]
    pcb := { State.reset.pcb with dieState := 0x2222#16 } }

def abc (a b c : Word) : State := small [(1, a), (2, b), (5, c)]
def o3 : Opnds := ⟨0#24, .gpr 3#8, .gpr 1#8, .gpr 2#8, .gpr 5#8⟩

/-- What `f` says of thread 0 after the instruction; nothing where it stops. -/
def after {α : Type} (i : Instr) (s : State) (f : Thread → α) : Option α :=
  match Machine.exec i s with
  | .next t => (t.thread? 0).map f
  | .fault _ | .refused _ => none

def gives (i : Instr) (a b c r : Word) : Bool := decide (after i (abc a b c) (·.reg 3) = some r)

/-! ### Meanings, one instruction on a small state (expected values from the spec's examples or worked by hand) -/

/-- R82-R84: saturation, wrap, carry out, borrow, product halves, division toward zero and by zero. -/
theorem test_integer_arithmetic : [
    gives (.iadd .i32 true o3) 0x7FFFFFFF#32 1#32 0#32 0x7FFFFFFF#32,
    gives (.iadd .i16x2 false o3) 0x0001FFFF#32 0x00010001#32 0#32 0x00020000#32,
    gives (.isub .n32 false o3) 0#32 1#32 0#32 0xFFFFFFFF#32,
    gives (.isub .n32 true o3) 0#32 1#32 0#32 0#32,
    gives (.iaddc .n32 true o3) 0xFFFFFFFF#32 0#32 1#32 1#32,
    gives (.isubb .i32 false o3) 5#32 3#32 1#32 1#32,
    gives (.imul .i32 true o3) 0x10000#32 0x10000#32 0#32 0x7FFFFFFF#32,
    gives (.imulh .n32 o3) 0xFFFFFFFF#32 0xFFFFFFFF#32 0#32 0xFFFFFFFE#32,
    gives (.imulh .i32 o3) 0xFFFFFFFF#32 0xFFFFFFFF#32 0#32 0#32,
    gives (.imad .i32 false o3) 0xFFFFFFFE#32 3#32 4#32 0xFFFFFFFE#32,
    gives (.idiv .i32 o3) 0xFFFFFFF9#32 2#32 0#32 0xFFFFFFFD#32,
    gives (.idiv .i32 o3) 7#32 0#32 0#32 0xFFFFFFFF#32,
    gives (.irem .i32 o3) 0xFFFFFFF9#32 2#32 0#32 0xFFFFFFFF#32,
    gives (.irem .i32 o3) 7#32 0#32 0#32 7#32].all id = true := by decide

/-- R85-R90: order, bit operations, shifts by the width and more, counts, fields. -/
theorem test_integer_bits : [
    gives (.iabs .i16x2 true o3) 0x80008001#32 0#32 0#32 0x7FFF7FFF#32,
    gives (.ineg .i32 false o3) 1#32 0#32 0#32 0xFFFFFFFF#32,
    gives (.imin .i32 o3) 0xFFFFFFFF#32 1#32 0#32 0xFFFFFFFF#32,
    gives (.imax .i32 o3) 0xFFFFFFFF#32 1#32 0#32 1#32,
    gives (.icmp .n32 .lt o3) 1#32 0xFFFFFFFF#32 0#32 1#32,
    gives (.icmp .i32 .lt o3) 1#32 0xFFFFFFFF#32 0#32 0#32,
    gives (.land .i32 o3) 0xF0F0#32 0xFF00#32 0#32 0xF000#32,
    gives (.lor .i32 o3) 0xF0F0#32 0xFF00#32 0#32 0xFFF0#32,
    gives (.lxor .i32 o3) 0xF0F0#32 0xFF00#32 0#32 0x0FF0#32,
    gives (.landn .i32 o3) 0xF0F0#32 0xFF00#32 0#32 0x00F0#32,
    gives (.lnot .i32 o3) 0#32 0#32 0#32 0xFFFFFFFF#32,
    gives (.shl .i32 o3) 1#32 32#32 0#32 0#32,
    gives (.shr .i32 o3) 0x80000000#32 31#32 0#32 1#32,
    gives (.sar .n32 o3) 0x80000000#32 100#32 0#32 0xFFFFFFFF#32,
    gives (.rotl .i32 o3) 0x80000001#32 33#32 0#32 3#32,
    gives (.popc .i16x2 o3) 0x00F0000F#32 0#32 0#32 0x00040004#32,
    gives (.clz .i32 o3) 1#32 0#32 0#32 31#32,
    gives (.ctz .i32 o3) 0#32 0#32 0#32 32#32,
    gives (.brev .i32 o3) 1#32 0#32 0#32 0x80000000#32,
    gives (.bfx .i32 o3) 0xF80#32 0x507#32 0#32 0xFFFFFFFF#32,
    gives (.bfi .i32 o3) 0#32 0xFFFFFFFF#32 0x404#32 0xF0#32,
    gives (.lea .i32 3#4 o3) 0x100#32 5#32 4#32 0x12C#32,
    gives (.idot4 .i32 false false o3) 0x01FF0102#32 0x01020304#32 10#32 20#32].all id = true := by decide

/-- R94-R102, R74: 1/3 and the square root of 2 rounded to nearest; -0 below +0; NaN; FTZ keeps the sign. -/
theorem test_float : [
    gives (.fadd .f32 .rn false o3) 0x3F800000#32 0x33800000#32 0#32 0x3F800000#32,
    gives (.fadd .f32 .ru false o3) 0x3F800000#32 0x33800000#32 0#32 0x3F800001#32,
    gives (.fsub .f32 .rd false o3) 0x3F800000#32 0x3F800000#32 0#32 0x80000000#32,
    gives (.fmul .f16x2 .rn false o3) 0x40003C00#32 0x42004200#32 0#32 0x46004200#32,
    gives (.ffma .f32 .rn false o3) 0x40000000#32 0x40400000#32 0x3F800000#32 0x40E00000#32,
    gives (.fmin .f32 false false o3) 0x80000000#32 0#32 0#32 0x80000000#32,
    gives (.fmax .f32 true false o3) 0x7FC00000#32 0#32 0#32 0x7FC00000#32,
    gives (.fabs .f32 false o3) 0xBF800000#32 0#32 0#32 0x3F800000#32,
    gives (.fneg .f32 true o3) 0x00000001#32 0#32 0#32 0x80000000#32,
    gives (.fcmp .f32 .un false o3) 0x7FC00000#32 0#32 0#32 1#32,
    gives (.fcmp .f32 .eq false o3) 0x80000000#32 0#32 0#32 1#32,
    gives (.fclass .f32 o3) 0x80000000#32 0x8#32 0#32 1#32,
    gives (.frnd .f32 .rd false o3) 0xBFC00000#32 0#32 0#32 0xC0000000#32,
    gives (.fscale .f32 .rn false o3) 0x3F800000#32 3#32 0#32 0x41000000#32,
    gives (.fdiv .f32 .rn false o3) 0x3F800000#32 0x40400000#32 0#32 0x3EAAAAAB#32,
    gives (.fsqrt .f32 .rn false o3) 0x40000000#32 0#32 0#32 0x3FB504F3#32,
    gives (.fdot2 .f16x2 .rn false o3) 0x40003C00#32 0x40003C00#32 0x3F000000#32 0x40B00000#32].all id = true := by decide

/-- The R112 example on g3; R104-R111 by hand; the draw of R70's example. -/
theorem test_conversion : [
    gives (.sacc ⟨.f32, .i32, .rn, false, false, false⟩ o3) 3#32 0x7C7E#32 0x3F800000#32 0x3F980000#32,
    gives (.cvt ⟨.i32, .f32, .rz, false, false, false⟩ o3) 0xBFC00000#32 0#32 0#32 0xFFFFFFFF#32,
    gives (.cvt ⟨.n8, .i32, .rn, false, true, false⟩ o3) 300#32 0#32 0#32 255#32,
    gives (.unpackt ⟨.f16, .i8, .rn, false, false, false⟩ o3) 0x000200FF#32 1#32 0#32 0x0000C000#32,
    gives (.frcp ⟨.f32, .f32, .rn, false, false, false⟩ o3) 0x40000000#32 0#32 0#32 0x3F000000#32,
    gives (.frsq ⟨.f32, .f32, .rn, false, false, false⟩ o3) 0x40800000#32 0#32 0#32 0x3F000000#32,
    gives (.fexp2 ⟨.f32, .f32, .rn, false, false, false⟩ o3) 0x40400000#32 0#32 0#32 0x41000000#32,
    gives (.flog2 ⟨.f32, .f32, .rn, false, false, false⟩ o3) 0x41000000#32 0#32 0#32 0x40400000#32,
    gives (.fsinpi ⟨.f32, .f32, .rn, false, false, false⟩ o3) 0x3F000000#32 0#32 0#32 0x3F800000#32,
    gives (.fcospi ⟨.f32, .f32, .rn, false, false, false⟩ o3) 0x3F800000#32 0#32 0#32 0xBF800000#32,
    gives (.ftanh ⟨.f32, .f32, .rn, false, false, false⟩ o3) 0#32 0#32 0#32 0#32,
    gives (.fsigm ⟨.f32, .f32, .rn, false, false, false⟩ o3) 0#32 0#32 0#32 0x3F000000#32].all id = true := by decide
theorem test_seed_draw : after (.cvt ⟨.f32, .f64, .rs, false, false, false⟩ ⟨0#24, .gpr 3#8, .gpr 6#8, .gpr 255#8, .gpr 255#8⟩)
    (small [(6, 0x10000000#32), (7, 0x3FF00000#32)]) (fun th => (th.reg 3, th.seed)) =
      some (0x3F800001#32, 0xB6F6B6C3#32) := by decide
/-- The R104 example. -/
theorem test_convert_pair : after (.cvt ⟨.bf16, .f32, .rn, false, false, true⟩ ⟨0#24, .gpr 6#8, .gpr 4#8, .gpr 255#8, .gpr 255#8⟩)
    (small [(4, 0x3DCCCCCD#32), (5, 0x3F800000#32)]) (·.reg 6) = some 0x3F803DCD#32 := by decide
/-- 2, -1, 0 and 200 clamped to signed bytes. -/
theorem test_pack : after (.packt ⟨.i8, .f32, .rn, false, false, false⟩ ⟨0#24, .gpr 3#8, .gpr 6#8, .gpr 8#8, .gpr 255#8⟩)
    (small [(6, 0x40000000#32), (7, 0xBF800000#32), (9, 0x43480000#32)]) (·.reg 3) = some 0x7F00FF02#32 := by decide

/-- R114-R119. -/
theorem test_moves : [
    gives (.mov false o3) 7#32 0#32 0#32 7#32,
    gives (.movi false 1#2 ⟨0xAB#24, .gpr 3#8, .gpr 1#8, .gpr 255#8, .gpr 255#8⟩) 0x11223344#32 0#32 0#32 0xAB223344#32,
    gives (.sel false o3) 7#32 8#32 0#32 8#32,
    gives (.sel false o3) 7#32 8#32 2#32 7#32,
    gives (.plop false 0xCA#8 o3) 0xFF00FF00#32 0x12345678#32 0x9ABCDEF0#32 0x12BC56F0#32,
    gives (.pmovGet o3) 0#32 0#32 0#32 0x80#32,
    gives (.sread o3) 32#32 0#32 0#32 0#32].all id = true := by decide
theorem test_pmov_set : after (.pmovSet ⟨0x3#24, .none, .gpr 1#8, .gpr 255#8, .gpr 255#8⟩) (small [(1, 6#32)]) (·.preds) =
    some 2#7 := by decide
theorem test_swrite_seed : after (.swrite ⟨0#24, .none, .gpr 1#8, .gpr 2#8, .gpr 255#8⟩) (small [(1, 12#32)]) (·.seed) =
    some 1#32 := by decide

/-- R122-R134: a branch back by two words; the link of a CALL; a LOOP entered; YIELD. -/
theorem test_branches :
    after (.bra ⟨0xFFFFFE#24, .none, .unread, .unread, .unread⟩) (small []) (·.pc) = some 0xFFE8#64 ∧
    after (.call ⟨3#24, .gpr 8#8, .unread, .unread, .unread⟩) (small []) (fun th => (th.pc, th.reg 8, th.reg 9)) =
      some (0x10024#64, 0x1000C#32, 0#32) ∧
    after (.ret ⟨0#24, .none, .gpr 6#8, .unread, .unread⟩) (small [(6, 0x20000#32)]) (·.pc) = some 0x20000#64 ∧
    after (.brx ⟨0#24, .none, .gpr 6#8, .unread, .unread⟩) (small [(6, 0x20000#32)]) (·.pc) = some 0x20000#64 ∧
    after (.lbrk ⟨1#24, .none, .unread, .unread, .unread⟩) (small []) (·.pc) = some 0x1000C#64 := by decide
theorem test_loop_and_rest :
    after (.loop ⟨2#24, .none, .gpr 1#8, .unread, .unread⟩) (small [(1, 5#32)]) (fun th => (th.pc, th.depth, loopAt th.loop 0)) =
      some (0x1000C#64, 1, ⟨0x1000C#64, 0x10018#64, 5#32⟩) ∧
    after (.yield ⟨0#24, .none, .unread, .unread, .unread⟩) (small []) (·.status) = some .yielded ∧
    after (.exit ⟨0#24, .none, .unread, .unread, .unread⟩) (small []) (·.status) = some .exited ∧
    after (.nop ⟨0#24, .none, .unread, .unread, .unread⟩) (small []) (·.pc) = some 0x1000C#64 := by decide

/-! ### Witnesses: states and operands that meet the hypotheses of the statements -/

open Sys2Proof.Claims

def th0 : Thread := { fetchThread with regs := [] }

theorem witness_acts : Acts (small []) 0 th0 ∧ th0.depth ≤ 4 ∧ th0.status = .ready ∧ (small []).taskReclaimed 0 = false ∧
    Claims.Dest.plain o3.d = true ∧ cellsWf th0.regs 0#32 = true := ⟨⟨rfl, rfl⟩, by decide⟩

/-- IntegerArithmeticResults, FieldAndDotResults: types that are not packed. -/
theorem witness_types : IType.i64 ≠ .i16x2 ∧ IType.n32.is64 = false := by decide

/-- RegisterAndPredicateWrites: operand fields at both ends of each range that R18 gives; a field of no range. Register
235 with two more words ends below 240; the thread's group and launch. -/
theorem witness_operand_fields :
    (∀ x ∈ [0, 239, 255, 0x100, 0x1FF, 0x200, 0x203, 0x208, 0x20F, 0x240, 0x24E, 0x27B, 0x280, 0x2BF, 0x2C0, 0x2FF, 0x300, 0x301,
      0x302, 0x303], operandFieldOk (BitVec.ofNat 10 x) = true ∧ x < 1024) ∧
    operandFieldOk (BitVec.ofNat 10 0x204) = false ∧ operandFieldOk (BitVec.ofNat 10 0x3FF) = false ∧
    cellsWf th0.regs 0#32 = true ∧ 235 ≤ 236 ∧ 236 < 235 + [1#32, 2#32].length ∧
    ((small []).groupOf 0).isSome = true ∧ ((small []).launchOf 0).isSome = true ∧ threadOnLC 0 = false ∧
    threadOnLC lcThreadBase = true := by decide

/-- SpecialRegisterDestination: a refused value at its lower limit and one that is taken, for the registers with a rule. -/
theorem witness_special_destination : (decide ((1#32).toNat % 64 ≠ 0) && decide (2 ^ 23 ≤ (0x800000#32).toNat) &&
    decide (2 ≤ (2#32).toNat) && decide (16 ≤ (16#32).toNat)) = true ∧
    (decide ((64#32).toNat % 64 = 0) && decide ((0x7FFFFF#32).toNat < 2 ^ 23) && decide ((1#32).toNat < 2) &&
      decide ((15#32).toNat < 16)) = true := by decide

/-- ComputingFrame: an instruction that computes, with its operands. -/
theorem witness_computes : computes (.iadd .i32 false o3) = true ∧ (Instr.iadd .i32 false o3).opnds = some o3 ∧
    computes (.sacc ⟨.f32, .i32, .rn, false, false, false⟩ o3) = true ∧ inDest o3.d 2 = false := by decide

/-- SpecialRegisterByIndex: an index for each clause, at the limits of its range. -/
theorem witness_special_index :
    ((small [(1, 64#32)]).read32 0 o3.a).1.toNat = 64 ∧ ((small [(1, 23#32)]).read32 0 o3.a).1.toNat = 23 ∧
    ((small [(1, 42#32)]).read32 0 o3.a).1.toNat = 42 ∧ ((small [(1, 22#32)]).read32 0 o3.a).1.toNat = 22 ∧
    ((small [(1, 60#32)]).read32 0 o3.a).1.toNat = 60 ∧ th0.sup = true ∧
    sregRefuses 40 2#32 = true ∧ sregRefuses 40 1#32 = false := by decide

/-- RoundingRules: 3 exactly, a number just above 2^79; the largest exponent and fraction of `.f16`. FloatArithmeticResults:
two finite numbers, one an infinity. -/
theorem witness_stands_for : StandsFor 3 0 false 3 ∧ StandsFor (2 ^ 79) 0 true (2 ^ 79 + 1 / 2) ∧ 31 < 2 ^ fF16.ew ∧
    1023 < 2 ^ (fF16.p - 1) ∧ (fF16, 15) ∈ formats := by
  refine ⟨⟨by decide, by norm_num⟩, ⟨by decide, ?_⟩, by decide, by decide, by simp [formats]⟩
  norm_num
theorem witness_numbers : num (.fin true 3 1 false) = some (-6) ∧ num (.inf false) = none ∧
    num (.fin false 0 0 false) = some 0 ∧ [Ex.fin true 3 1 false].map num = [-6].map some := by
  simp [num]; norm_num
/-- FloatBitResults: 1.5 rounds to 2, to the even one of the two nearest; 1 toward zero. -/
theorem witness_integral : mag fF32 0x3FC00000 = 3 / 2 ∧ IntegerOf .rn false (3 / 2) 2 ∧ IntegerOf .rz false (3 / 2) 1 ∧
    0x3FC00000 % 2 ^ 31 < top fF32 ∧ top fF32 = 0x7F800000 := by
  refine ⟨?_, ?_, ?_, by decide, by decide⟩
  · have h : fF32.decode 0x3FC00000 = .fin false 0xC00000 (-23) false := by decide
    simp [mag, h, num]; norm_num
  · norm_num [IntegerOf]
  · norm_num [IntegerOf]
theorem witness_rounding : 65535 < 65536 ∧ 0x7F800000 < 2 ^ fF32.width ∧ (fF32.decode 0x3F800000).isNan = false ∧
    (fF32.decode 0x7FC00000).isNan = true ∧ Rnd.rn ≠ .rs := by decide

/-- ConversionResults: SACC with and without a scale of 255. -/
theorem witness_sacc : (0xFF#32).toNat % 256 = 255 ∧ (0x7C7E#32).toNat % 256 ≠ 255 ∧ (0x7C7E#32).toNat / 256 % 256 ≠ 255 := by decide

def jump : Opnds := ⟨0#24, .none, .gpr 6#8, .unread, .unread⟩

/-- IndirectBranches: a misaligned target, the first beyond the address space, the last within it. -/
theorem witness_targets : ((small [(6, 2#32)]).read64 0 jump.a).1.toNat % 4 ≠ 0 ∧
    ((small [(7, 0x800000#32)]).read64 0 jump.a).1.toNat = 2 ^ 55 ∧
    ((small [(6, 0xFFFFFFFC#32), (7, 0x7FFFFF#32)]).read64 0 jump.a).1.toNat = 2 ^ 55 - 4 := by decide

/-- A state with an instruction or entry word of a thread at 0x10000 (core 0 holds its translation). -/
def placed (w : Nat) (regs : List (Nat × Word)) : State :=
  { State.reset.withFetchWord 96 w with threads := [(0, { fetchThread with regs := regs })] }

/-- Entry words: kernel entries are no CALL targets; a CALL entry of user privilege, one of supervisor privilege, one that
declares more registers than the group holds. -/
def entryWord (low : Nat) : Nat := 0xFFE * 2 ^ 84 + low

def fetched (s : State) : Option (BitVec 96) :=
  match (s.fetchWord true 0 0x10000#64 true).1 with
  | .word w => some w
  | .fails _ _ | .miss _ => none

theorem witness_fetch : fetched (placed (entryWord 0) []) = some (BitVec.ofNat 96 (entryWord 0)) := by decide

theorem witness_entry_words :
    entryOk (Entry.ofNat (entryWord (2 ^ 32))) .call = false ∧ entryOk (Entry.ofNat (entryWord (2 ^ 33))) .call = true ∧
    (Entry.ofNat (entryWord (2 ^ 33 + 2 ^ 35))).sup = true ∧
    (small []).entryFits 0 th0 (Entry.ofNat (entryWord (2 ^ 33 + 14 * 2 ^ 76))) = true ∧
    (small []).entryFits 0 th0 (Entry.ofNat (entryWord (2 ^ 33 + 2 ^ 48))) = false := by decide

/-- LoopRules: a count, none, a full stack; a thread at the END of its entry with two passes left, and with one. -/
def looping (n : Word) : Thread :=
  { th0 with depth := 4, loop := List.replicate 4 ⟨0x8000#64, 0x10000#64, n⟩ }
theorem witness_loops : ((small [(1, 1#32)]).read32 0 o3.a).1 ≠ 0#32 ∧ ((small []).read32 0 o3.a).1 = 0#32 ∧
    th0.depth < 4 ∧ (looping 2#32).pc = (loopAt (looping 2#32).loop 3).last ∧
    2 ≤ (loopAt (looping 2#32).loop 3).count.toNat ∧ (loopAt (looping 1#32).loop 3).count.toNat < 2 := by decide

/-- PassingWords: a thread that is held by CONV, one that is not; alone in its quarter no mate is missing. -/
theorem witness_conv : th0.conv = false ∧ ({ th0 with conv := true } : Thread).conv = true ∧
    (∀ m ∈ (small []).quarterMates 0 th0, (small []).heldAt m th0.pc = true) ∧
    (let s : State := { small [] with threads := [(0, th0), (1, { th0 with tid := 1, pc := 0x20000#64 })] }
     ∃ m ∈ s.quarterMates 0 th0, s.heldAt m th0.pc = false) := by decide

/-- A latency core's context: 1 of latency core 0 of die 0, and its perch with a section that runs. -/
def request : ShipReq := ⟨0, 0x10000#64, 0x20000#64, 0x20000, [1#32, 2#32, 3#32, 4#32], true, 0, 0, some 0, some 8, 20, true,
  none, 1024, none, false⟩
def onLc (ctx : Nat) : State :=
  { small [] with
    cur := lcThreadBase + ctx
    threads := [(0, { th0 with status := .shipWait 0 }), (lcThreadBase + ctx, { th0 with group := none })]
    perches := [(0, ⟨[], [], some request, true, 4194305, none⟩)] }
theorem witness_latency_core : threadOnLC (lcThreadBase + 1) = true ∧ isPerchCtx (lcThreadBase + 1) = false ∧
    isPerchCtx lcThreadBase = true ∧ ((onLc 0).perch ((lcThreadBase - lcThreadBase) / 4)).running = some request ∧
    (onLc 0).cur = lcThreadBase ∧ ((onLc 0).thread? lcThreadBase).isSome = true ∧ ((onLc 0).perch 0).entered = true ∧
    4194304 < ((onLc 0).perch 0).cycles := by decide

/-- A thread whose trap frame stands at 0x10000 with the handler given; the page translates. -/
def framed (handler : BitVec 8) (state : BitVec 8) : State :=
  { small [] with
    mem := (if handler = 0#8 then [] else [(0x10002, handler)]) ++ (if state = 0#8 then [] else [(0x10025, state)])
    threads := [(0, { th0 with ctxbase := 0x10000#64 })]
    pcb := { (small []).pcb with trapvec := 0x20000#64 } }
def thF : Thread := { th0 with ctxbase := 0x10000#64 }

theorem witness_trap_frame : ∃ s', FrameReady (framed 2#8 0#8) 0 thF 0#64 0x20000#64 s' ∧
    (framed 2#8 0#8).thread? 0 = some thF ∧ (framed 2#8 0#8).pcb.trapvec ≠ 0#64 ∧ (0#64).getLsbD 40 = false :=
  ⟨_, ⟨_, _, _, _, _, _, _, _, _, rfl, rfl, rfl, rfl⟩, by decide⟩

/-- TrapsTaken: BUSY set; no handler; TRAPVEC 0. -/
theorem witness_double_trap : (∃ s', FrameReady (framed 2#8 1#8) 0 thF 0x10000000000#64 0x20000#64 s') ∧
    (∃ s', FrameReady (framed 0#8 0#8) 0 thF 0#64 0#64 s') ∧ (0x10000000000#64).getLsbD 40 = true ∧
    (small []).pcb.trapvec = 0#64 :=
  ⟨⟨_, ⟨_, _, _, _, _, _, _, _, _, rfl, rfl, rfl, rfl⟩⟩, ⟨_, ⟨_, _, _, _, _, _, _, _, _, rfl, rfl, rfl, rfl⟩⟩, by decide⟩

/-- TrapReturn: the frame is read; a frame of zeros is good (STATE 0, RPC 0), one with RPC 2 is not. The frame's word that
holds BUSY translates for writing; on a page that is not writable it faults, and its reads do not. -/
def framedOn (perm : Nat) : State :=
  { framed 0#8 0#8 with
    cores := [(0, { Core.init with itlb := [fetchTlb], vtlb := [⟨0x10000, 3, pteClassed (BitVec.ofNat 64 (0x10000 + 2 ^ 47 + perm)) 2 0⟩] })] }
def badRpc : List Byte := List.replicate 8 0#8 ++ [2#8] ++ List.replicate 103 0#8
theorem witness_trap_return : (∃ e l pa s0 e' l' pa' s1 s2 f x y z s3,
      (framedOn 3).frameAt 0 0x10000#64 .read = (some (.ok e l pa), s0) ∧
      s0.frameAt 0 0x10078#64 .read = (some (.ok e' l' pa'), s1) ∧ s1.frameReads 0 0x10008#64 14 = (.bytes f, s2) ∧
      s2.frameAt 0 0x10020#64 .write = (some (.ok x y z), s3) ∧
      f.length = 112 ∧ fieldAt f 0x08 8 % 4 = 0 ∧ fieldAt f 0x1C 4 / 4 % 8 ≤ 4) ∧
    fieldAt badRpc 0x08 8 % 4 ≠ 0 :=
  ⟨⟨_, _, _, _, _, _, _, _, _, _, _, _, _, _, rfl, rfl, rfl, rfl, by decide⟩, by decide⟩
theorem witness_trap_return_parks : ∃ e l pa s0 e' l' pa' s1 s2 f c y x s3,
      (framedOn 1).frameAt 0 0x10000#64 .read = (some (.ok e l pa), s0) ∧
      s0.frameAt 0 0x10078#64 .read = (some (.ok e' l' pa'), s1) ∧ s1.frameReads 0 0x10008#64 14 = (.bytes f, s2) ∧
      s2.frameAt 0 0x10020#64 .write = (some (.fault c y x), s3) ∧ c ≠ .wsReadonly :=
  ⟨_, _, _, _, _, _, _, _, _, _, _, _, _, _, rfl, rfl, rfl, rfl, by decide⟩

/-! Memory accesses: a scratchpad range of the launch, and the page at 0x10000. -/

def g0 : Group := { fetchGroup with bars := [⟨2#11, 0#11, false, 0#32, 0, [], 0, none⟩], spSize := 4096 }
def reach (regs : List (Nat × Word)) : State :=
  { small regs with
    groups := [(0, g0)], clusters := [(0, { Cluster.init with owners := [⟨0, 0, 4096⟩] })] }
def mSp : MemMod := ⟨.b32, .core, .rlx, true, 0#4, 0#2, 0#18⟩
def mGl : MemMod := ⟨.b32, .core, .rlx, false, 0#4, 0#2, 0#18⟩
def oAddr : Opnds := ⟨0#24, .gpr 8#8, .gpr 6#8, .unread, .gpr 2#8⟩

/-- AccessChecks: each check has a case: misaligned in either memory, beyond the launch's range by one byte, beyond the
address space; a latency core. -/
theorem witness_access_checks : memAccess (.ld mSp oAddr) = some (mSp, oAddr, true) ∧
    (reach []).acquirePending 0 = false ∧ threadOnLC 0 = false ∧ threadOnLC (lcThreadBase + 1) = true ∧
    ((reach [(6, 2#32)]).effAddr 0 mSp oAddr true).1.toNat % 2 ^ 21 % 4 ≠ 0 ∧
    ((reach [(6, 4096#32)]).effAddr 0 mSp oAddr true).1.toNat % 4 = 0 ∧
    (reach []).groupOf 0 = some g0 ∧ (reach []).spadOutside g0.launch 0 4096 4 ≠ none ∧
    (reach []).spadOutside g0.launch 0 4092 4 = none ∧
    ((reach [(7, 0x800000#32)]).effAddr 0 mGl oAddr true).1.toNat = 2 ^ 55 := by decide

theorem witness_scratchpad : SpadAccess ((reach [(6, 4092#32)]).effAddr 0 mSp oAddr true).2 0 g0 4092 4 ∧
    SpadAccess (((reach [(6, 4092#32)]).effAddr 0 mSp oAddr true).2.readData 0 .b32 oAddr.c).2 0 g0 4092 4 ∧
    mSp.order.acqs = false ∧ mSp.order = .rlx ∧ mSp.size = .b32 :=
  ⟨⟨by decide, by decide, by decide, by decide⟩, ⟨by decide, by decide, by decide, by decide⟩, by decide⟩

/-- An armed barrier object at offset 0 of the scratchpad: the stores that meet it trap, those beside it do not. -/
def armed : Cluster := { Cluster.init with owners := [⟨0, 0, 4096⟩], spad := [(0, 2#8), (3, 0x80#8)], armed := [0] }
theorem witness_clobber : armed.objectIn 12 4 = some 0 ∧ armed.objectIn 16 4 = none ∧ armed.objArmed 0 = true := by decide

theorem witness_atomic_operations : 0xFFFFFFFF < 256 ^ 4 ∧ 0xFFFFFFFFFFFFFFFF < 256 ^ 8 := by decide

def at64k : State := reach [(6, 0x10000#32)]
theorem witness_global : ∃ e pa s1, GlobalAccess (at64k.effAddr 0 mGl oAddr true).2 0
    (at64k.effAddr 0 mGl oAddr true).1 .read 4 false false e pa s1 ∧ placeOf pa = .hbm 0 :=
  ⟨_, _, _, ⟨by decide, by decide, _, rfl⟩, by decide⟩
theorem witness_global_store : ∃ e pa s1, GlobalAccess ((at64k.effAddr 0 mGl oAddr true).2.readData 0 .b32 oAddr.c).2 0
    (at64k.effAddr 0 mGl oAddr true).1 .write 4 false false e pa s1 ∧ placeOf pa = .hbm 0 ∧
    ¬ (mGl.order.rels = true ∧ s1.releaseWaits 0 mGl.scope = true) ∧ s1.storeRoom 0 pa e false = true :=
  ⟨_, _, _, ⟨by decide, by decide, _, rfl⟩, by decide, by decide, by decide⟩
theorem witness_global_atomic : ∃ e pa s1, GlobalAccess ((at64k.effAddr 0 mGl oAddr true).2.readData 0 .b32 oAddr.c).2 0
    (at64k.effAddr 0 mGl oAddr true).1 .write 4 true false e pa s1 ∧ placeOf pa = .hbm 0 :=
  ⟨_, _, _, ⟨by decide, by decide, _, rfl⟩, by decide⟩
/-- The page at 0x10000 of thread 0 stands at another frame: of a weight store, the control block or an aperture. -/
def atFrame (e : Nat) : State :=
  { at64k with
    cores := [(0, { Core.init with vtlb := [⟨0x10000, 3, pteClassed (BitVec.ofNat 64 (e + 2 ^ 47 + 3)) 2 0⟩] })]
    dies := [(0, { Die.init with window := .open })]
    pcb := { at64k.pcb with apertures := [(1, 0x8000000000050000#64)] } }
/-- What the access of thread 0 at 0x10000 reaches in it. -/
def reached (e : Nat) (kind : Access) (atomic : Bool) : Option Place :=
  match ((atFrame e).xlateHit (.data 0) (threadReq (atFrame e) 0 0x10000#64 kind 4 atomic false)).1 with
  | some (.ok _ _ pa) => some (placeOf pa)
  | some (.fault _ _ _) | some .mig | some .wait | none => none

/-- GlobalLoad, GlobalStore, GlobalAtomic: every kind of place is reached; an atomic reaches no control block. -/
theorem witness_places :
    reached (2 ^ 63 + 2 ^ 40) .read false = some (.ws 0) ∧ reached (2 ^ 63 + 2 ^ 40) .write true = some (.ws 0) ∧
    reached (2 ^ 46 + 2 ^ 41) .read false = some .pcb ∧ reached (2 ^ 46 + 2 ^ 41) .write false = some .pcb ∧
    reached (2 ^ 46 + 2 ^ 41) .write true = none ∧ reached (2 ^ 45 + 2 ^ 40) .read false = some (.aperture 1) ∧
    reached (2 ^ 45 + 2 ^ 40) .write true = some (.aperture 1) ∧
    (atFrame 0).linkRoom (apertureDevice ((atFrame 0).aperture 1)) 0 = true ∧
    ((atFrame 0).modSend 5 0 (fun c => { c with unacked := c.unacked })).linkRoom 5 0 = true := by decide

/-- StoreFrame: a page that is not the core's own. -/
theorem witness_store_frame : placeOf 0x10000 = .hbm 0 ∧ ownedBy page.entry 0 = false ∧ 0x1007C % 128 + 4 ≤ 128 := by decide

/-- OrderingInstructions: PREF's translation is found, is found to fault, is not there, has failed in a walk. -/
def prefState (va : Nat) : State := reach [(6, BitVec.ofNat 32 va)]
def prefReq (s : State) : Req := threadReq (s.effAddr 0 mGl oAddr true).2 0 (s.effAddr 0 mGl oAddr true).1 .read 0 false false
def prefSees (s : State) : Option Xl × State := (s.effAddr 0 mGl oAddr true).2.xlateHit (.data 0) (prefReq s)
def failedWalk (s : State) : State := { s with walked := [⟨.thread 0, 3, .read, .pageNotPresent, 0, 0#64⟩] }
theorem witness_pref :
    (match (prefSees (prefState 0x10000)).1 with
      | some (.ok _ _ pa) => decide (homeDie pa = some 0) && !((prefSees (prefState 0x10000)).2.refreshing pa)
      | some (.fault _ _ _) | some .mig | some .wait | none => false) = true ∧
    (prefSees { prefState 0x10000 with pcb := { (small []).pcb with dieState := 0x2220#16 } }).1 = some .wait ∧
    (prefSees (prefState 0x30000)).1 = none ∧ ((prefSees (prefState 0x30000)).2.takeWalked (.thread 0) 0x30000#64 .read).1 = none ∧
    ((prefSees (failedWalk (prefState 0x30000))).2.takeWalked (.thread 0) 0x30000#64 .read).1.isSome = true := by decide
/-- A FENCE of each order; a tensor that is named by the register, one that is not; lines to sweep. -/
theorem witness_fences : ((reach []).acquirePending 0 = false ∧ (reach []).remotePending 0 = false ∧ (reach []).loadPending 0 = false) ∧
    ({ mGl with opx := 2#4 } : MemMod).tensorForm = true ∧ ((reach [(1, 64#32)]).read32 0 (.gpr 1#8)).1.toNat = 64 ∧
    ((reach [(1, 63#32)]).read32 0 (.gpr 1#8)).1.toNat = 63 ∧ (reach []).forceWaits 0 .sys 0x10000 4 = false ∧
    AMap.sorted ((reach []).core 0).l1 = true ∧ AMap.sorted ((reach []).die 0).l2 = true ∧ dieOfCore 0 = 0 := by decide
/-- A release of a thread that waits for a packet: an ACQR of `.sys` that reads from it waits too. -/
theorem witness_acqr_waits :
    ({ reach [] with
       releases := [(0x10000, [(0, 5)])]
       remotes := [⟨5, 0, 0, 0#64, 0#64, .store⟩] } : State).forceWaits 0 .sys 0x10000 4 = true := by decide

theorem witness_maintenance : ∃ e pa s1 e' pa' s2, GlobalAccess (at64k.effAddr 0 mGl oAddr true).2 0
    (at64k.effAddr 0 mGl oAddr true).1 .write 0 false false e pa s1 ∧
    GlobalAccess (at64k.effAddr 0 mGl oAddr true).2 0 (at64k.effAddr 0 mGl oAddr true).1 .write 0 false true e' pa' s2 ∧
    mGl.tensorForm = false ∧ at64k.remotePending 0 = false ∧ at64k.acquirePending 0 = false :=
  ⟨_, _, _, _, _, _, ⟨by decide, by decide, _, rfl⟩, ⟨by decide, by decide, _, rfl⟩, by decide⟩


/-! Loads that land, barriers, sets, spawned groups. -/

/-- LoadLands: a landing for register 3 of thread 0. -/
theorem witness_landing : let u : State := { reach [] with landings := [⟨0, some 3, [7#32], none, none, none⟩] }
    u.landings[0]? = some ⟨0, some 3, [7#32], none, none, none⟩ ∧ u.thread? 0 = some th0 ∧ th0.status ≠ .exited := by decide

/-- ConstantLoad: index -1 and 4096 out of the banks, 4095 within, 1 odd for a pair. -/
theorem witness_constant_index : (((small [(1, 0#32)]).read32 0 o3.a).1.toNat : Int) + (0x3FFFF#18).toInt = -1 ∧
    (((small [(1, 4096#32)]).read32 0 o3.a).1.toNat : Int) + (0#18).toInt = 4096 ∧
    (((small [(1, 4095#32)]).read32 0 o3.a).1.toNat : Int) + (0#18).toInt = 4095 := by decide

def bReg : BarMod := ⟨0#6, false, 0#20⟩
def bObj : BarMod := ⟨0#6, true, 16#20⟩
/-- The group's barrier register 0 as given; an armed idle object at offset 16 of the scratchpad. -/
def barState (b : Barrier) (regs : List (Nat × Word)) : State :=
  { reach regs with
    groups := [(0, { g0 with bars := [b] })]
    clusters := [(0, { Cluster.init with owners := [⟨0, 0, 4096⟩], spad := [(16, 2#8), (19, 0x80#8)], armed := [16] })] }
def idle : Barrier := ⟨2#11, 0#11, false, 0#32, 0, [], 0, none⟩
def lastButOne : Barrier := { idle with arrivals := 1#11 }
def off : Barrier := { idle with expected := 0#11 }
def signed : Barrier := { idle with arrivals := 1#11, signatures := [⟨1, 1, 5#64, 0#32, .none⟩] }

theorem witness_barrier_register (b : Barrier) :
    OnBarrier (barState b []) 0 0 { g0 with bars := [b] } bReg o3 (.reg 0 0) (barState b []) :=
  ⟨⟨_, ⟨rfl, rfl⟩, rfl⟩, rfl, ⟨by simp [bReg], rfl, rfl⟩⟩
theorem witness_barrier_object :
    OnBarrier (barState idle []) 0 0 { g0 with bars := [idle] } bObj ⟨0#24, .gpr 3#8, .gpr 1#8, .gpr 2#8, .unread⟩
      (.obj 0 16) (barState idle []) :=
  ⟨⟨_, ⟨rfl, rfl⟩, rfl⟩, rfl, ⟨by decide, by decide, rfl, rfl⟩⟩
/-- BarrierInstructions: a count of 0, of 2,047, of 2,048; an object offset that is misaligned, one beyond the launch;
a barrier that is idle, off, full with one more, signed, in its phase or past it; a selector. -/
theorem witness_barrier_cases :
    ((barState idle []).read32 0 o3.b).1 = 0#32 ∧ 2047 < ((barState idle [(2, 2048#32)]).read32 0 o3.b).1.toNat ∧
    ((barState idle [(2, 2047#32)]).read32 0 o3.b).1.toNat = 2047 ∧
    (barState idle []).barIdle (.reg 0 0) = true ∧ (barState lastButOne []).barIdle (.reg 0 0) = false ∧
    ((barState off []).barrier (.reg 0 0)).expected = 0#11 ∧ ((barState signed []).barrier (.reg 0 0)).signatures ≠ [] ∧
    ((barState lastButOne []).barrier (.reg 0 0)).arrivals.toNat + 1 ≤ 2 ∧
    (barState lastButOne []).slicesOn (.reg 0 0) = false ∧
    ((barState idle []).barrier (.reg 0 0)).phase = (0#32).getLsbD 0 ∧
    ((barState idle []).barrier (.reg 0 0)).phase ≠ (1#32).getLsbD 0 ∧
    ((barState idle []).cluster 0).objArmed 16 = true ∧ (barState idle []).barIdle (.obj 0 16) = true ∧
    ((barState idle []).cluster 0).objArmed 32 = false ∧
    (barState idle []).spadOutside 0 0 4096 16 ≠ none ∧ (8 : Nat) % 16 ≠ 0 ∧
    (barState idle []).group? (groupKey 0 0) = some { g0 with bars := [idle] } := by decide

/-- BarrierPhase: one more arrival leaves the phase, or completes it; a thread that waits. -/
theorem witness_phase : idle.arrivals.toNat + 1 < idle.expected.toNat ∧
    lastButOne.arrivals.toNat + 1 = lastButOne.expected.toNat ∧ (barState lastButOne []).barWaiters (.reg 0 0) = [] ∧
    (barState lastButOne []).taskReclaimed 0 = false := by decide

/-- BarrierPhase: a thread that waits for the phase, which the arrival completes; one that waits for the next. STATUS is
merged: the first code stays, the count rises and stops at 65,535. -/
def waiting (tok : Bool) : State :=
  { barState lastButOne [] with threads := [(0, th0), (1, { th0 with tid := 1, status := .barReg 0 tok (.gpr 3#8) 12 })] }
theorem witness_waiters :
    WaitsOn (.reg 0 0) 1 { th0 with tid := 1, status := .barReg 0 false (.gpr 3#8) 12 } ((waiting false).barrier (.reg 0 0)).phase
      (.gpr 3#8) 12 ∧
    (waiting false).barWaiters (.reg 0 0) ≠ [] ∧ AMap.sorted (waiting false).threads = true ∧ (waiting false).taskReclaimed 1 = false ∧
    ((waiting false).barrier (.reg 0 0)).arrivals.toNat + 1 = ((waiting false).barrier (.reg 0 0)).expected.toNat ∧
    (waiting true).thread? 1 = some { th0 with tid := 1, status := .barReg 0 true (.gpr 3#8) 12 } ∧
    statusWith 0#32 .protection = BitVec.ofNat 32 (65536 + codeNum .protection) ∧
    statusWith 0xFFFF0003#32 .protection = 0xFFFF0003#32 := by
  refine ⟨?_, ?_, ?_, ?_, ?_, ?_, ?_, ?_⟩ <;> first | decide | exact ⟨rfl, rfl⟩
theorem witness_phase_object : ((barState idle []).barrier (.obj 0 16)).arrivals.toNat + 1 <
      ((barState idle []).barrier (.obj 0 16)).expected.toNat ∧
    cellsWf ((barState idle []).cluster 0).spad 0#8 = true ∧ (16 : Nat) % 16 = 0 := by decide

/-- ConvergenceSets: the last signer of two, thread 0, and the one that waits. -/
def signers : List Signature := [⟨0, 0, 5#64, 0#32, .gpr 3#8⟩, ⟨1, 1, 5#64, 0#32, .gpr 4#8⟩]
theorem witness_fire :
    let s : State := { barState signed [] with threads := [(0, th0), (1, { th0 with tid := 1, status := .signed 0 12 })] }
    AMap.sorted s.threads = true ∧ (signers.map (·.thread)).Nodup ∧
    signers[1]? = some ⟨1, 1, 5#64, 0#32, .gpr 4#8⟩ ∧ (voteFire .every signers)[1]? = some [1#32] ∧
    (s.thread? 1).map (·.status) = some (.signed 0 12) ∧ s.taskReclaimed 1 = false ∧ s.taskReclaimed 0 = false ∧
    (s.thread? 0).map (·.status) = some .ready := by decide

/-- ConvergenceSets: a barrier for one signs alone; one that two sign waits, and one that another quarter signs refuses. -/
theorem witness_sets :
    (rankInsert ⟨0, 0, 5#64, 0#32, .gpr 3#8⟩ []).length = 1 ∧
    (rankInsert ⟨0, 0, 5#64, 0#32, .gpr 3#8⟩ signed.signatures).length = 2 ∧ signed.sigInstr ≠ some (.vote .every 0#6 blankOpnds) ∧
    [(⟨0, 0, 5#64, 0#32, .none⟩ : Signature)][0]? = some ⟨0, 0, 5#64, 0#32, .none⟩ ∧
    (voteFire .every [⟨0, 0, 5#64, 0#32, .none⟩]) = [[1#32]] := by decide

/-- SpawnInstructions: the entry words it tells apart, room for a group and a thread that waits for it. -/
def spawnEntry : Nat := entryWord (2 ^ 36)
theorem witness_spawn :
    entryOk (Entry.ofNat spawnEntry) .spawn = true ∧ entryOk (Entry.ofNat (entryWord 0)) .spawn = false ∧
    (Entry.ofNat (entryWord (2 ^ 36 + 2 ^ 35))).sup = true ∧ groupFits 1024 (entryBudget (Entry.ofNat spawnEntry)) = true ∧
    groupFits 1024 240 = false ∧ (placed spawnEntry []).launchFailing 0 = false ∧
    (placed spawnEntry []).spawnRoom fetchGroup 1 16 0 = true ∧
    (placed spawnEntry []).spawnRoom fetchGroup 1024 240 64 = false ∧ (placed spawnEntry []).stopping 0 = false := by decide
theorem witness_spawn_fetch : fetched (placed spawnEntry []) = some (BitVec.ofNat 96 spawnEntry) := by decide

/-! Engines, scans, chains. -/

def cp0 : DirMod := ⟨true, true, false⟩
def arv0 : ArvMod := ⟨0#6, true⟩
def o4 : Opnds := ⟨0#24, .gpr 20#8, .gpr 6#8, .gpr 8#8, .gpr 10#8⟩
/-- Scratchpad offsets in r6, r8, a length in r10. -/
def atOff (d x n : Word) : State := reach [(6, d), (8, x), (10, n)]

/-- CopyInstructions: a copy whose checks all pass; a barrier register that is not there, a length beyond 2^30, a range beyond
the launch's, ranges that meet, a barrier for none. The list of checks gives the first that fails. -/
theorem witness_copy_checks :
    let g1 : Group := { g0 with bars := [off] }
    let first (s : State) (v : ArvMod) (g : Group) (d x n : Nat) : Option (Code × Nat) :=
      [arvFirst g v, Claims.fails (2 ^ 30 < n) .illegalOperand 0, outside s g true d n, outside s g true x n,
        Claims.fails (meet d x n = true) .illegalOperand 0, arvLast g v].findSome? id
    copyRoom (reach []) g0 ∧ first (reach []) arv0 g0 0 256 256 = none ∧ first (reach []) arv0 g0 0 255 256 = some (.illegalOperand, 0) ∧
      first (reach []) ⟨1#6, true⟩ g0 0 256 256 = some (.illegalOperand, 0) ∧
      first (reach []) arv0 g0 0 256 (2 ^ 30 + 1) = some (.illegalOperand, 0) ∧
      first (reach []) arv0 g0 4000 256 97 = some (.protection, 4096) ∧
      first (reach []) arv0 g1 0 256 256 = some (.barrierOverrun, 0) := by decide
theorem witness_copy : Acts (atOff 0#32 256#32 64#32) 0 { th0 with regs := [(8, 256#32), (6, 0#32), (10, 64#32)] } ∨
    (∃ th, Acts (atOff 0#32 256#32 64#32) 0 th ∧ th.group = some 0 ∧ (atOff 0#32 256#32 64#32).groupOf 0 = some g0 ∧
      (atOff 0#32 256#32 64#32).taskReclaimed 0 = false) := .inr ⟨_, ⟨rfl, rfl⟩, rfl, rfl, by decide⟩
/-- A full share of the copy queue, and of the reservation table. -/
def copyOp (kind : CopyKind) : CopyOp := ⟨5, 0, 0, 0, 0, 0x10000#64, true, kind, false, none, none, true, 0, 0, [], false, false, none⟩
def matOp (kind : MatKind) : MatOp := ⟨5, 0, 0, 0, 0, 0, 0x10000#64, true, kind, 0, none, true, false, 0, [], .ok, 0, false, none⟩
def withCluster (c : Cluster) : State := { reach [] with clusters := [(0, { c with owners := [⟨0, 0, 4096⟩] })] }
theorem witness_full_queues :
    ¬ copyRoom (withCluster { Cluster.init with copyq := List.replicate 16 (copyOp (.cp true true 0#64 256#64 64)) }) g0 ∧
    ¬ matRoom (withCluster { Cluster.init with matq := List.replicate 8 (matOp .swap) }) g0 ∧ matRoom (reach []) g0 := by decide
/-- MatrixInstructions: rows 0-1,023 all zeroed, one row beyond; a register that is not there. -/
theorem witness_matrix_checks :
    (Claims.fails (1024 ≤ 0 ∨ 1024 < 0 + 1024) Code.illegalOperand 0) = none ∧
    (Claims.fails (1024 ≤ 1 ∨ 1024 < 1 + 1024) Code.illegalOperand 0) = some (.illegalOperand, 0) ∧
    g0.bars.length ≤ (1#6).toNat ∧ ¬ g0.bars.length ≤ (0#6).toNat ∧ barCheck g0 0 = none := by decide
theorem witness_engine_landings :
    let cp : CopyOp := copyOp (.cp true true 0#64 256#64 64)
    let fill : CopyOp := copyOp (.fill true 16#64 8 4 0xAABBCCDD#32)
    let s (op : CopyOp) : State := { withCluster { Cluster.init with copyq := [op] } with choices := [0] }
    (s cp).choices = 0 :: [] ∧ (((s cp).cluster 0).copyq.find? (fun o => o.id == 5) = some cp ∧ cp.started = true ∧
      meet 0 256 64 = false ∧ cellsWf ((s cp).cluster 0).spad 0#8 = true) ∧
    (((s fill).cluster 0).copyq.find? (fun o => o.id == 5) = some fill ∧ fill.started = true) := by
  decide
theorem witness_matrix_landings :
    let swap : MatOp := matOp .swap
    let u : State := withCluster { Cluster.init with matq := [swap], shadow := { Plane.init with owner := some 0 } }
    (u.cluster 0).matq.find? (fun o => o.id == 5) = some swap ∧ (∀ q ∈ (u.cluster 0).matq, q.granted = true → q.isLoad = false) ∧
      (u.cluster 0).shadow.owner = some swap.launch ∧ (withCluster Cluster.init |>.cluster 0).shadow.owner = none ∧
      swap.core / 4 = 0 ∧ 1023 + 1 ≤ 1024 ∧ AMap.sorted (u.cluster 0).acc = true := by decide
theorem witness_integer_pass : MFmt.i8 = MFmt.i8 ∧ (∀ p ∈ [((255 : Nat), (255 : Nat))], p.1 < 256 ∧ p.2 < 256) ∧
    passValue .i8 .n8 0 [(255, 255)] = 2 ^ 32 - 255 := by decide

/-- ScanInstructions: a tile of two elements of 32 bits at 0, its result at 0; each check. -/
theorem witness_scan_checks :
    let first (g : Group) (src dst es n : Nat) (bad : Bool) : Option (Code × Nat) :=
      (scanChecks (reach []) g 0#6 (BitVec.ofNat 64 src) (BitVec.ofNat 64 dst) (BitVec.ofNat 32 (n - 1 + 256 * es)) bad).findSome? id
    first g0 0 0 1 2 false = none ∧ first g0 0 0 0 2 false = some (.illegalOperand, 0) ∧
      first g0 2 0 1 2 false = some (.misaligned, 2) ∧ first g0 0 2 1 2 false = some (.misaligned, 2) ∧
      first g0 4092 0 1 2 false = some (.protection, 4096) ∧ first g0 0 4 1 2 false = some (.illegalOperand, 0) ∧
      first g0 0 0 1 2 true = some (.illegalOperand, 0) ∧ first { g0 with bars := [off] } 0 0 1 2 false = some (.barrierOverrun, 0) := by
  decide
def scanOp (kind : ScanKind) : ScanOp := ⟨5, 0, 0, kind, 0, none⟩
/-- One component, one micro-operation: t8 the sum of c0 of both sides, OUT t8. -/
def okDesc : List Byte :=
  [1#8, 1#8, 8#8] ++ List.replicate 21 0#8 ++ [0#8, 0#8, 4#8, 0x18#8] ++ List.replicate 36 0#8
theorem witness_scan_landings :
    let u (kind : ScanKind) (g : Group) : State :=
      { reach [] with groups := [(0, g)], cores := [(0, { Core.init with scanq := [scanOp kind] })] }
    ((u (.scan 0 0 1 2) g0).core 0).scanq = scanOp (.scan 0 0 1 2) :: [] ∧
    (u (.scan 0 0 1 2) g0).scanDesc (scanOp (.scan 0 0 1 2)) 1 = none ∧
    (u (.scan 0 0 1 2) { g0 with desc := some okDesc }).scanDesc (scanOp (.scan 0 0 1 2)) 1 = some (scanDescOf okDesc) ∧
    (scanDescOf (List.replicate 64 0xFF#8)).valid = false ∧ (scanDescOf okDesc).valid = true ∧
    (reach []).taskReclaimed 0 = false ∧ (reach []).thread? 0 ≠ none := by decide

/-- A launch of three groups with a Chain; group 0 has opened the stop of core 0 as its head, formed; member 1 stands on
core 1. -/
def chained (x : ChainStop) : State :=
  { reach [(1, 0#32), (2, 3#32)] with
    launches := [(0, { Launch.blank with ngroup := 3, gsize := 1, chain := true, chlen := 3 })]
    cores := [(0, { Core.init with itlb := [fetchTlb], vtlb := [page], chain := x }),
      (1, { Core.init with chain := { ChainStop.init with owner := some (0, 1), len := 3, formed := true } })] }
def opened : ChainStop := { ChainStop.init with owner := some (0, 0), len := 3, formed := true }
def word1 : ChEntry := ⟨false, [7#32]⟩
theorem witness_stop_open : StopOpen (chained opened) 0 { th0 with regs := [(1, 0#32), (2, 3#32)] } g0 ∨
    ∃ th, StopOpen (chained opened) 0 th g0 ∧ th.group = some 0 ∧ g0.spawned = false :=
  .inr ⟨_, ⟨⟨rfl, rfl⟩, rfl, rfl, rfl⟩, rfl, rfl⟩
/-- ChainInstructions: the stop not open; CHOPEN's bounds, at their limits; claims that match the mailbox or do not. -/
theorem witness_chain_cases :
    (chained ChainStop.init).chain 0 = ChainStop.init ∧ ChainStop.init.owner ≠ some (0, 0) ∧ ChainStop.init.waiting = [] ∧
    ((chained opened).launchOf 0).isSome = true ∧ ((chained opened).read32 0 o3.a).1.toNat = 0 ∧
    ((chained opened).read32 0 o3.b).1.toNat = 3 ∧ (0 + 3 ≤ 3 ∧ 0 ≤ g0.index ∧ g0.index < 0 + 3) ∧
    (∀ e ∈ [word1], e.carry = false ∧ e.words.length = 1) ∧ ¬ (word1.words.length = 2) := by decide
theorem witness_chain_events :
    let send : ChSend := ⟨0, some 3, none, some word1⟩
    let s : State := chained { opened with sends := [send] }
    let t : State := chained { opened with owner := some (0, 2), chbars := [(0, some 3)], tokens := 1 }
    (s.chain 0).owner = some (0, 0) ∧ (s.chain 0).formed = true ∧ s.launchGone 0 = false ∧ (s.chain 0).sends = [send] ∧
      s.succCore 0 = some 1 ∧ (s.chain 1).mailbox.length + (s.chain 1).saved < 2 ∧
      (t.chain 0).chbars = [(0, some 3)] ∧ 2 + 1 = (t.chain 0).head + (t.chain 0).len ∧ 2 ≠ (t.chain 0).head ∧
      0 < (t.chain 0).tokens := by decide

/-- ShippedSections: addresses misaligned or beyond the space; a lock that translates; a perch with room; a section's entry
word fetched by a latency core; entry words for each clause. -/
def shipping (a b : Nat) : State :=
  small [(6, BitVec.ofNat 32 a), (7, BitVec.ofNat 32 (a / 2 ^ 32)), (8, BitVec.ofNat 32 b), (9, BitVec.ofNat 32 (b / 2 ^ 32))]
def oShip : Opnds := ⟨0#24, .gpr 12#8, .gpr 6#8, .gpr 8#8, .gpr 1#8⟩
theorem witness_ship_addresses : ((shipping 2 0).read64 0 oShip.a).1.toNat % 4 ≠ 0 ∧ ((shipping 4 4).read64 0 oShip.b).1.toNat % 8 ≠ 0 ∧
    ((shipping 4 (2 ^ 55)).read64 0 oShip.b).1.toNat = 2 ^ 55 ∧ ((shipping 0x10000 0x10000).read64 0 oShip.b).1.toNat = 0x10000 ∧
    isPerchCtx 0 = false := by decide
theorem witness_ship_lock : ∃ e l pa s1, (shipping 0x10000 0x10000).xlateHit (.data 0)
      { threadReq (shipping 0x10000 0x10000) 0 0x10000#64 .read 0 false false with classify := false } =
    (some (.ok e l pa), s1) ∧ pteWs e = false ∧ placeOf pa = .hbm 0 := ⟨_, _, _, _, rfl, by decide⟩
def perched (p : Perch) (entry : Nat) : State :=
  let s : State := placed entry []
  { s with perches := [(0, p)], cores := AMap.set s.cores 1024 { Core.init with vtlb := [fetchTlb] } }
def sectionReq : ShipReq := { request with entry := 0x10000#64 }
/-- The state in which the head request's section is about to fetch its entry word. -/
def sectionTaken : State :=
  let s : State := perched ⟨[sectionReq], [], none, false, 0, none⟩ (entryWord (2 ^ 34))
  (s.modPerch 0 (fun p => { p with queue := [], running := some sectionReq, entered := false, cycles := 0 })).setThread
    (lcThreadKey 0 0) (s.perchContext 0 sectionReq)
theorem witness_section : (match (sectionTaken.fetchWord true 1024 0x10000#64 true).1 with
      | .word w => decide (w = BitVec.ofNat 96 (entryWord (2 ^ 34)))
      | .fails _ _ | .miss _ => false) = true ∧
    ((perched ⟨[sectionReq], [], none, false, 0, none⟩ (entryWord (2 ^ 34))).perch 0).running = none ∧
    ((perched ⟨[sectionReq], [], none, false, 0, none⟩ (entryWord (2 ^ 34))).perch 0).queue = sectionReq :: [] ∧
    sectionReq.args.length = 4 := by decide
theorem witness_section_entries : entryOk (Entry.ofNat (entryWord (2 ^ 34))) .shipped = true ∧
    (Entry.ofNat (entryWord (2 ^ 34))).spad = 0#16 ∧ (Entry.ofNat (entryWord (2 ^ 34))).bars = 0#8 ∧
    (Entry.ofNat (entryWord (2 ^ 34 + 2 ^ 35))).sup = true ∧ entryOk (Entry.ofNat (entryWord 0)) .shipped = false := by decide
theorem witness_section_ends :
    let r : ShipResult := ⟨0, request, .ok, .ok, [1#32, 2#32, 3#32, 4#32]⟩
    let s : State := { onLc 1 with shipFlights := [(0, request)], shipResults := [r] }
    ((onLc 0).perch 0).entered = true ∧ 4194304 < ((onLc 0).perch 0).cycles ∧ ((perched ⟨[], [], none, true, 4194304, none⟩ 0).perch 0).cycles ≤ 4194304 ∧
    s.shipFlights = [(0, request)] ∧ s.shipResults[0]? = some r ∧ r.req.remote = none ∧ r.req.sender = some 0 ∧
    r.req.sysScope = false ∧ (s.thread? 0).any (fun th => th.status == .shipWait r.req.id) = true ∧ r.req.d = some 8 ∧
    r.req.tok = 20 ∧ (8 + 4 ≤ r.req.tok) ∧ (s.perch 0).queue.length + 1 < 256 ∧ (s.perch 0).parkedSenders = [] := by decide

/-- Futures 5 to 8 of die 0: held and unbound, held and resolved, loose, held and at its largest count. -/
def fut (f : Fut → Fut) : Fut := f { Fut.init with live := true, count := 1 }
def futured (r6 : Nat) : State :=
  { small [(2, 65535#32), (6, BitVec.ofNat 32 r6)] with
    launches := [(0, { Launch.blank with ngroup := 1, gsize := 1, holdings := [(0x50001#64, 1), (0x60001#64, 1), (0x80001#64, 1)] })]
    dies := [(0, { Die.init with futures := [(5, fut id), (6, fut (fun f => { f with state := .resolved, r0 := 9#32 })),
      (7, fut (fun f => { f with loose := 1 })), (8, fut (fun f => { f with count := 2 ^ 24 - 1 }))] })] }
def hands (n : Nat) : DWord := BitVec.ofNat 64 (n * 65536 + 1)
theorem witness_futures :
    let h (n : Nat) : Option Fut := (futured 0).future (hands n)
    let hs := (futured 0).holdings ((futured 0).taskKey 0)
    isPerchCtx 0 = false ∧ (futured 0).taskReclaimed 0 = false ∧ (futured 0).remoteHandle (hands 5) = false ∧ h 4 = none ∧
    heldOf hs (hands 7) = 0 ∧ heldOf hs (hands 5) ≠ 0 ∧ holdFull hs (hands 7) = false ∧
    (h 5).map (fun f => (f.state, f.launch)) = some (.unbound, none) ∧ (h 6).map (·.state) = some .resolved ∧
    (h 5).map (·.loose) = some 0 ∧ (h 7).map (·.loose) = some 1 ∧ (h 8).map (·.count) = some (2 ^ 24 - 1) ∧
    (futured 0).ownFuture 0 (hands 5) = false ∧ hands 5 ≠ 0#64 ∧ (futured 0).remotePending 0 = false ∧
    ((futured 0x50001).read64 0 oAddr.a).1 = hands 5 ∧ ((futured 0).read32 0 o3.b).1.toNat = 65535 := by decide
/-- A handle of the task's own future; a reclaimed task; holdings that are full. -/
theorem witness_futures_rest :
    let own : State := { futured 0 with launches := [(0, { Launch.blank with future := 0x50001#64 })] }
    let gone : State := { own with dies := [(0, { Die.init with futures := [(5, fut (fun f => { f with
      reclaimed := true, launch := some 0 }))] })] }
    own.ownFuture 0 (hands 5) = true ∧ gone.taskReclaimed 0 = true ∧
    holdFull ((List.range 16).map (fun n => (hands (20 + n), 1))) (hands 7) = true ∧ (16 : Nat) ≤ ((List.range 16).map (fun n => (hands (20 + n), 1))).length := by
  decide
theorem witness_fspawn_granted :
    let w : WaitingSpawn := ⟨0, some 8, List.replicate 64 0#8, [], 0⟩
    let s : State := { futured 0 with choices := [0], dies := [(0, { Die.init with spawns := [w] })] }
    (s.die 0).spawns = w :: [] ∧ (s.die 0).freeFrom (s.choose 65536).1 = some 0 := by decide
theorem witness_fwait_lands :
    let th : Thread := { th0 with status := .fwait (hands 6) (.gpr 8#8) 3 12 }
    let s (h : DWord) : State := { futured 0 with threads := [(0, { th with status := .fwait h (.gpr 8#8) 3 12 })] }
    (s (hands 6)).thread? 0 = some th ∧ (s (hands 6)).stopping 0 = false ∧ (s (hands 6)).remoteHandle (hands 6) = false ∧
    th.got = none ∧ (s (hands 6)).future (hands 6) ≠ none ∧ (s (hands 4)).future (hands 4) = none ∧
    (s (hands 6)).taskReclaimed 0 = false ∧ th.depth = 0 ∧ cellsWf th.regs 0#32 = true ∧ 8 + 4 ≤ 240 ∧ 3 < 8 := by decide

/-- CopyInstructions: a queue with eight operations under way takes a ninth, which waits; SHCHK may start; CPG's offset 16
is an armed object without slices. -/
def going (n : Nat) : CopyOp := { copyOp (.cp true true 0#64 256#64 64) with id := n }
theorem witness_add_copy :
    let c : Cluster := { Cluster.init with copyq := (List.range 8).map going }
    let op : CopyOp := { going 8 with started := false }
    ((c.copyq ++ [op]).map (·.id)).Nodup ∧ ((c.addCopy op).copyq.filter (·.started)).length = 8 ∧
    ((Cluster.init.addCopy op).copyq.map (·.started)) = [true] := by decide
theorem witness_shchk_cpg : (reach []).acquirePending 0 = false ∧ (reach []).copyShareFull 0 = false ∧
    (reach []).spadOutside 0 0 4032 64 = none ∧ ((reach []).cluster 0).slices.length < 256 ∧
    ((barState idle []).barrier (.obj 0 16)).expected = 2#11 ∧ (16 : Nat) * (1#21).toNat = 16 := by decide

/-- EngineLandings: nothing armed meets the destination; an operation that waits alone in its lane. -/
theorem witness_engine_starts :
    let op : CopyOp := copyOp (.cp true true 0#64 256#64 64)
    op.parked = false ∧ op.started = true ∧ op.pos = 0 ∧ op.phase = 0 ∧ op.held = [] ∧ op.clobber = false ∧ op.result = none ∧
    (∀ x ∈ [(64 : Nat)], ¬ (x < 0 + 64 ∧ 0 < x + 16)) ∧ (∀ x ∈ armed.armed, x < 0 + 64) ∧
    (matOp .swap).parked = false ∧ ({ matOp .swap with granted := false } : MatOp).granted = false ∧ (1023 + 1 ≤ 1024) := by decide

/-- ScanInstructions: a tile of two elements at the end of the scratchpad. SCANC of the head with INIT, one whose carry is in
the mailbox, one that has its carry and has sent. -/
def scanning (op : ScanOp) (x : ChainStop) : State :=
  { reach [] with
    groups := [(0, { g0 with desc := some okDesc })]
    launches := [(0, { Launch.blank with ngroup := 3, gsize := 1, chain := true, chlen := 3 })]
    cores := [(0, { Core.init with scanq := [op], chain := x })] }
theorem witness_scanc :
    let op (init : Bool) (carry : Option (List (List Word))) : ScanOp := scanOp (.scanc false init false 0 0 1 2 carry none)
    let claim : ChainStop := { opened with claimq := [⟨some 5, 0, none, 0⟩], mailbox := [⟨true, [7#32]⟩] }
    let s : State := scanning (op false none) claim
    (s.core 0).scanq = op false none :: [] ∧ s.scanDesc (op false none) 1 = some (scanDescOf okDesc) ∧
    (s.chain 0).claimq = [⟨some 5, 0, none, 0⟩] ∧ (s.chain 0).mailbox = [⟨true, [7#32]⟩] ∧ (op false none).id = 5 ∧
    ([7#32] : List Word).length = (scanDescOf okDesc).ncomp ∧ ([7#32, 8#32] : List Word).length ≠ (scanDescOf okDesc).ncomp ∧
    (∀ z ∈ opened.sends, z.op ≠ some (op true (some [[7#32]])).id) ∧
    (∃ z ∈ ({ opened with sends := [⟨0, none, some 5, some ⟨true, [7#32]⟩⟩] } : ChainStop).sends, z.op = some 5) ∧
    (2097144 + 4 * 1 * [[1#32], [2#32]].length ≤ 2 ^ 21) ∧ ([[1#32], [2#32]].length ≤ 256) := by decide
/-- ChainInstructions: CHBAR of the head, of a middle member without a token, and with one; and before the segment forms. -/
theorem witness_chbar :
    let mid (n : Nat) : ChainStop := { ChainStop.init with owner := some (0, 1), len := 3, formed := true, tokens := n, chbars := [(0, some 3)] }
    (mid 0).owner = some (0, 1) ∧ (1 ≠ (mid 0).head ∧ (mid 0).tokens = 0) ∧ ¬ (1 + 1 = (mid 1).head + (mid 1).len) ∧
    (chained opened).succCore 0 = some 1 ∧ (opened.head = 0 ∧ opened.closing = []) ∧
    ¬ (255 ≤ ((chained opened).chain 1).tokens) ∧
    (let early (i n k : Nat) : ChainStop := { ChainStop.init with owner := some (0, i), len := n, chbars := [(0, some 3)], passed := k }
     (early 0 2 0).formed = false ∧ 1 ≠ (early 1 2 0).head ∧ 0 + 1 = (early 0 1 0).head + (early 0 1 0).len ∧
     ¬ (0 + 1 = (early 0 2 254).head + (early 0 2 254).len) ∧ (early 0 2 254).passed < 255 ∧ 255 ≤ (early 0 2 255).passed) := by decide

/-- ShippedSections: a section that has ended and whose `.sys` release waits for an answer of another device. -/
def ended (rs : List Remote) : State :=
  { onLc 0 with
    remotes := rs
    perches := [(0, ⟨[], [], some { request with sysScope := true }, true, 9, some (.ok, .ok, [1#32, 2#32, 3#32, 4#32])⟩)] }
theorem witness_section_waits :
    (ended [⟨5, lcThreadKey 0 0, 0, 0#64, 0#64, .store⟩]).remotePending (lcThreadKey 0 0) = true ∧
    (ended []).remotePending (lcThreadKey 0 0) = false ∧ lcThreadKey 0 0 = lcThreadBase ∧
    ((ended []).perch 0).running = some { request with sysScope := true } ∧ ((onLc 0).perch 0).ending = none := by decide
/-- Loads one after another, and the pieces that translate for writing or are read by the part, evaluated. -/
def hit (k : Nat) (s : State) (va : DWord) (kind : Access) (n : Nat) : Option (DWord × Nat × State) :=
  match s.xlateHit (.data (coreOfThread k)) (threadReq s k va kind n false false) with
  | (some (.ok e _ pa), s1) =>
    if (n ≠ 0 → va.toNat % n = 0) ∧ va.toNat < 2 ^ 55 ∧ placeOf pa = .hbm 0 ∧ homeDie pa ≠ none then some (e, pa, s1) else none
  | _ => none
theorem hit_spec {k s va kind n e pa s1} (h : hit k s va kind n = some (e, pa, s1)) :
    GlobalAccess s k va kind n false false e pa s1 ∧ placeOf pa = .hbm 0 ∧ homeDie pa ≠ none := by
  unfold hit at h
  split at h
  · rename_i e' l pa' s1' hx
    split at h
    · rename_i hc
      simp only [Option.some.injEq, Prod.mk.injEq] at h
      obtain ⟨rfl, rfl, rfl⟩ := h
      exact ⟨⟨hc.1, hc.2.1, _, hx⟩, hc.2.2.1, hc.2.2.2⟩
    · cases h
  · cases h
/-- One load of memory, and the state after it. -/
def loadOne (k : Nat) (s : State) (p : DWord × Nat) : Option (List Byte × State) :=
  match hit k s p.1 .read p.2 with
  | some (e, pa, s1) => some (s1.coreLoad (coreOfThread k) pa p.2 e false (s1.whoOf k))
  | none => none
theorem loadOne_spec {k s va n r} (h : loadOne k s (va, n) = some r) : ∃ e pa h s1, GlobalAccess s k va .read n false false e pa s1 ∧
    placeOf pa = .hbm h ∧ r = s1.coreLoad (coreOfThread k) pa n e false (s1.whoOf k) := by
  unfold loadOne at h
  split at h
  · rename_i e pa s1 hx
    exact ⟨e, pa, 0, s1, (hit_spec hx).1, (hit_spec hx).2.1, (Option.some.inj h).symm⟩
  · cases h
/-- Loads that each leave the state as it is, one after another. -/
theorem loaded_of {k s} : ∀ l, (∀ p ∈ l, ∃ bs, loadOne k s p = some (bs, s)) → ∃ bs, Loaded k s l bs s
  | [], _ => ⟨[], rfl, rfl⟩
  | (va, n) :: l, h => by
    obtain ⟨bs, hb⟩ := h (va, n) (by simp)
    obtain ⟨rest, hr⟩ := loaded_of l (fun p hp => h p (by simp [hp]))
    obtain ⟨e, pa, h', s1, ha, hp, hv⟩ := loadOne_spec hb
    refine ⟨bs ++ rest, e, pa, h', s1, rest, ha, hp, ?_, ?_⟩
    · rw [← hv]
    · rw [← hv]; exact hr

def areaRead (k : Nat) : State → List (DWord × Nat) → Option (List Byte × State)
  | s, [] => some ([], s)
  | s, (va, n) :: l =>
    match hit k s va .read 0 with
    | some (e, pa, s1) =>
      let r := s1.partReadKey (some (pteKey e)) pa n
      (areaRead k r.2 l).map (fun x => (r.1 ++ x.1, x.2))
    | none => none
theorem areaRead_spec {k} : ∀ {l s bs s'}, areaRead k s l = some (bs, s') → AreaRead k s l bs s'
  | [], s, bs, s', h => by simp [areaRead] at h; exact ⟨h.1, h.2.symm⟩
  | (va, n) :: l, s, bs, s', h => by
    unfold areaRead at h
    split at h
    · rename_i e pa s1 hx
      obtain ⟨⟨bs1, s2⟩, hy, hz⟩ := Option.map_eq_some_iff.mp h
      simp only [Prod.mk.injEq] at hz
      obtain ⟨rfl, rfl⟩ := hz
      obtain ⟨ha, -, hp⟩ := hit_spec hx
      exact ⟨e, pa, s1, bs1, ha, hp, rfl, areaRead_spec hy⟩
    · cases h

/-- The first line of the record stands in core 0's L1: loads of it leave the state as it is. -/
def warm (s : State) : State :=
  { s with
    rollback := 0#64
    cores := [(0, { Core.init with itlb := [fetchTlb], vtlb := [page], l1 := [(512, ⟨0#1024, 0#128, 0#6, 0#8, false, false⟩)] })] }
/-- FSPAWN: record and after-list at 0x10000 load; no reference yet; a misaligned record, a misaligned list. -/
theorem witness_fspawn :
    (∃ bs, Loaded 0 (warm (futured 0x10000)) (pieces 0x10000#64 8 8 ++ pieces 0x10040#64 1 8) bs (warm (futured 0x10000))) ∧
    ((warm (futured 0x10000)).read64 0 oAddr.a).2 = warm (futured 0x10000) := by
  refine ⟨loaded_of _ (fun p hp => ?_), by decide⟩
  have h : ∀ p ∈ pieces 0x10000#64 8 8 ++ pieces 0x10040#64 1 8,
      (loadOne 0 (warm (futured 0x10000)) p).map (·.2) = some (warm (futured 0x10000)) := by decide +kernel
  obtain ⟨⟨bs, s'⟩, hx, hs⟩ := Option.map_eq_some_iff.mp (h p hp)
  exact ⟨bs, by rw [hx]; exact congrArg (fun z => some (bs, z)) hs⟩
theorem witness_fspawn_cases :
    let s : State := warm (futured 0x10000)
    (s.future (hands 5)).isSome = true ∧ s.future (hands 4) = none ∧ s.remoteHandle (hands 5) = false ∧ s.remoteHandle (hands 4) = false ∧
    (s.holdings (s.taskKey 0)).length < 16 ∧ (s.die 0).spawns = [] ∧ (s.die 0).freeFrom 5 = some 9 ∧
    s.acquirePending 0 = false ∧ ((futured 0x10020).read64 0 oAddr.a).1.toNat % 64 ≠ 0 ∧
    isPerchCtx 0 = false ∧ s.taskReclaimed 0 = false := by decide
/-- Handles of another device of the fabric (which devices it has is of Config): device 1's, with room on the link and a
reference held. -/
def away : DWord := BitVec.ofNat 64 (2 ^ 34 + 5 * 65536 + 1)
theorem witness_remote_handle (h : Config.fabricDevice 1 = true) : (futured 0).remoteHandle away = true ∧
    (futured 0).linkRoom (handleDevice away) 0 = true ∧ heldOf [(away, 1)] away ≠ 0 := by
  refine ⟨?_, by decide, by decide⟩
  have e : handleDevice away = 1 := by decide
  simp [State.remoteHandle, e, h]
  decide

/-! Supervisor instructions, collectives, events. -/

/-- RecordsTranslationsWindows: no record with index 5, one with it; addresses at the limits of TLBINV and TLBINV.root; windows. -/
theorem witness_records :
    let rec_ : FaultRec := ⟨5, .pageNotPresent, .read, 0, 1⟩
    let s : State := { small [(1, 5#32)] with dies := [(0, { Die.init with records := [rec_] }), (1, { Die.init with window := .open })] }
    ((small [(1, 1024#32)]).read32 0 o3.a).1.toNat = 1024 ∧
    ((s.releasePkg 0).die 0).records.any (fun r => r.index == 5) = true ∧
    (((small []).releasePkg 0).die 0).records.any (fun r => r.index == 5) = false ∧
    ((small []).releasePkg 0).remoteBusy = false ∧ homeDie 0x10000 = some 0 ∧ homeDie (2 ^ 45) = none ∧ 2 ^ 45 % 65536 = 0 ∧
    (s.die 0).window ≠ .open ∧ (s.die 1).window = .open ∧ (s.die 0).window = .closed := by decide
theorem witness_window_opens :
    let s : State := { small [] with dies := [(1, { Die.init with window := .opening, windowWaits := [(0, .gpr 3#8)] })] }
    (s.die 1).windowWaits = [(0, .gpr 3#8)] ∧ s.groups.any (fun g => dieOfCore g.2.core == 1) = false ∧
    s.groups.any (fun g => dieOfCore g.2.core == 0) = true := by decide

/-- ContextsAndHalts: a group of another launch on core 1, saved to 0x10000; an image of one thread there, loaded. -/
def twoGroups (regs : List (Nat × Word)) : State :=
  { reach regs with
    groups := [(0, g0), (64, { g0 with core := 1, launch := 1, family := 1, spSize := 0 })]
    launches := [(0, { Launch.blank with ngroup := 1, gsize := 1 }), (1, { Launch.blank with ngroup := 1, gsize := 1, ident := 1#32 })] }
/-- The page at 0x10000 in die 0's weight store, with an image's header in it: a group of one thread. -/
def imaged : State :=
  { twoGroups [(1, 0x10000#32)] with
    mem := [(2 ^ 40 + 16, 1#8)]
    cores := [(0, { Core.init with vtlb := [⟨0x10000, 3, pteClassed (BitVec.ofNat 64 (2 ^ 40 + 2 ^ 63 + 2 ^ 47 + 1)) 2 0⟩] })] }
/-- An image of one thread that carries a STATUS of its own is refused. -/
def imageOf (status : Byte) : Image := ⟨List.replicate 16 0#8 ++ [1#8] ++ List.replicate 19 0#8 ++ [status] ++ List.replicate 923 0#8, []⟩
theorem witness_ctxload_codes : (imageOf 1#8).more = false ∧ ((twoGroups []).launchNamed (imageOf 0#8)).map (·.1) = some 0 ∧
    ((twoGroups []).restoreFamily 2 [imageOf 1#8]).1 = .illegalOperand := by decide +kernel
theorem witness_halt : 256 * dieOfThread 0 + 1 ≠ coreOfThread 0 ∧ 256 * dieOfThread 0 + 0 = coreOfThread 0 ∧
    ((small []).core 1).halted = false ∧ ((small []).core 1).halts = [] := by decide

/-- Collectives: a reduction group 5 of two signed words, a multicast group 6 of device 1, planes trained. -/
def grouped (regs : List (Nat × Word)) : State :=
  { reach regs with
    ports := List.replicate 18 { Port.init with up := true, active := 4#3, lanes := 15#5 }
    remotes := [⟨8, 0, 8192, 0#64, 0x10000#64, .red (some 3) 20 1⟩]
    cgroups := [(5, ⟨.reduction .n32 .add 2 10000, 5, [⟨0, 0, 8, 7#64⟩]⟩), (6, ⟨.multicast [1] 0, 6, []⟩)] }
theorem witness_collective : (grouped []).acquirePending 0 = false ∧ (grouped []).remotePending 0 = false ∧
    ((grouped []).releasePkg 0).spineDown 5 = false ∧ ((small []).releasePkg 0).spineDown 5 = true ∧
    AMap.get? ((grouped []).releasePkg 0).cgroups 4095 = none ∧
    (AMap.get? ((grouped []).releasePkg 0).cgroups 5).map (·.kind) = some (.reduction .n32 .add 2 10000) ∧
    (AMap.get? (grouped []).cgroups 6).map (·.kind) = some (.multicast [1] 0) ∧ (grouped []).linkRoom 1 0 = true ∧
    (grouped []).device.toNat ∉ [1] ∧ (8192 : Nat) ≤ 8192 ∧ (10000 : Nat) ≤ 1000000 ∧
    ((grouped [(5, 0x10000#32)]).read64 0 (.gpr 5#8)).1.toNat % 2 = 0 := by decide
theorem witness_mcast_lands : let r : Remote := ⟨9, 0, 0, 0#64, 0#64, .mcast (some 3) 6 .ok⟩
    let s : State := { grouped [] with remotes := [r] }
    (∀ p ∈ s.sendChans, ∀ q ∈ p.2.unacked, q.cls = 0 → q.tag ≠ 9) ∧ s.remotes.find? (fun x => x.tag == 9) = some r := by decide

/-- MCAST: a page on aperture 3. -/
theorem witness_mcast :
    let s : State := { grouped [] with pcb := { (small []).pcb with apertures := [(3, BitVec.ofNat 64 (2 ^ 63 + 65536))] }, cores := [(0, { Core.init with vtlb :=
      [⟨0x10000, 3, pteClassed (BitVec.ofNat 64 (2 ^ 45 + 3 * 2 ^ 40 + 2 ^ 47 + 3)) 2 0⟩] })] }
    ∃ e pa s1, GlobalAccess s 0 0x10000#64 .write 4 false false e pa s1 ∧ placeOf pa = .aperture 3 :=
  ⟨_, _, _, ⟨by decide, by decide, _, rfl⟩, by decide⟩

/-- ContextsAndHalts: the area of a family of one page translates for writing; no piece of an area of nothing. -/
theorem witness_ctxsave : (∃ s1, Writable 0 (twoGroups [(1, 0x10000#32)]) (stretch 0x10000#64 (familySize ((twoGroups []).familyOf g0))) s1 ∧
      s1.familyParked (s1.familyOf g0) = none) ∧
    (twoGroups []).slicesRecorded g0 = false ∧
    (twoGroups []).group? (groupKey (256 * 0 + 257 % 256) (257 / 256 % 64)) = none ∧
    ((twoGroups []).group? (groupKey (256 * 0 + 1 % 256) (1 / 256 % 64))).map (·.launch) = some 1 ∧
    ((twoGroups []).groupOf 0).any (fun m => m.launch == 1 && m.family == 1) = false ∧ g0.stop = .running ∧
    stretch 0x1FFF0#64 32 = [(0x1FFF0#64, 16), (0x20000#64, 16)] := by
  refine ⟨?_, by decide⟩
  rw [show stretch 0x10000#64 (familySize ((twoGroups []).familyOf g0)) = [(0x10000#64, 6144)] by decide]
  exact ⟨_, ⟨_, _, _, ⟨by decide, by decide, _, rfl⟩, by decide, rfl⟩, by decide⟩
/-- An image of one thread without a scratchpad is read whole. -/
def img : State := { imaged with mem := [(0x10010, 1#8)], rollback := 0#64, cores := [(0, { Core.init with vtlb := [page] })] }
theorem witness_image : ∃ x size s', ImageRead 0 img 0x10000#64 x size s' ∧ size = 1024 := by
  have h : (areaRead 0 img (stretch 0x10000#64 640)).any (fun r => headerSize r.1 == some 960 && fieldAt r.1 0x18 4 == 0 &&
      (areaRead 0 r.2 (stretch 0x10000#64 1024)).isSome) = true := by decide +kernel
  obtain ⟨⟨hb, s1⟩, hx, hd⟩ := (Option.any_eq_true _ _).mp h
  simp only [Bool.and_eq_true, beq_iff_eq] at hd
  obtain ⟨⟨bs, s2⟩, hy⟩ := Option.isSome_iff_exists.mp hd.2
  exact ⟨_, 1024, s2, ⟨hb, 960, s1, bs, areaRead_spec hx, hd.1.1, ⟨by omega, by simp [hd.1.2, up256], rfl⟩, areaRead_spec hy⟩, rfl⟩
/-- A halted core without work answers its HALT. -/
def haltedCore : State :=
  { small [] with cores := [(0, { Core.init with itlb := [fetchTlb], vtlb := [page] }), (1, { Core.init with halted := true, halts := [(0, .gpr 3#8)] })] }
theorem witness_halt_ready : haltedCore.haltReady 1 = true ∧ (haltedCore.core 1).halts = [(0, .gpr 3#8)] ∧
    (haltedCore.thread? 0).map (·.status) = some .ready ∧ (haltedCore.engineWork 1).1 = false ∧ cellsWf th0.regs 0#32 = true ∧
    (small []).haltReady 1 = false ∧ (small []).midRun 0 th0 = false ∧ ((small []).core 0).turn < 4 ∧
    (0, th0) ∈ (small []).threadsOnCore 0 := by decide

/-- Collectives: an RGRP.mc list of one device loads; members with room; a contribution and a group request reach the spine. -/
theorem witness_rgrp_mc : ∃ bs s1, Loaded 0 (grouped []) (pieces 0x10000#64 1 2) bs s1 ∧ (pieces 0x10000#64 1 2).length = 1 :=
  ⟨_, _, ⟨_, _, 0, _, _, ⟨by decide, by decide, _, rfl⟩, by decide, rfl, rfl, rfl⟩, by decide⟩
def toSpine (op : FabOp) : Packet := { src := 0, srcInc := 0, dst := 8192, dstInc := 0, cls := 2, seq := 0, floor := 0, tag := 8, op := op }
theorem witness_spine :
    let p := toSpine (.red 5 .n32 .add 9#64)
    let s : State := { grouped [] with remotes := [⟨8, 0, 8192, 0#64, 0x10000#64, .rgrp (some 3) 7 0⟩] }
    p.cls = 2 ∧ 8192 ≤ p.dst ∧ (AMap.get? s.cgroups 5).map (·.kind) = some (.reduction .n32 .add 2 10000) ∧
    AMap.get? s.cgroups 7 = none ∧ p.src = s.device.toNat ∧ p.srcInc = s.incarnation.toNat ∧
    (∀ d ∈ [1], d ≠ s.device.toNat → s.linkRoom d 0 = true) ∧ (s.thread? 0).map (·.status) = some .ready := by decide
theorem witness_round :
    ([] : List DWord).length < 2 ∧ (AMap.get? (grouped []).cgroups 5).map (·.round.length) = some 1 ∧
    2 - [3#64].length ≤ ((AMap.get? (grouped []).cgroups 5).map (·.round.length)).getD 0 ∧ (2 : Nat) ≤ [3#64, 4#64].length ∧
    (grouped []).remotes = [⟨8, 0, 8192, 0#64, 0x10000#64, .red (some 3) 20 1⟩] ∧ (3 + 1 ≤ 20) ∧ cellsWf ((small []).threads.headD (0, th0)).2.regs 0#32 = true := by
  decide

/-! What happens of itself. -/

theorem witness_issue_units : coreOfThread 0 = 4095 / 4 - 1023 ∧
    (0, th0) ∈ (small []).threadsOnCore (0 / 4) ∧ (∀ x ∈ [(⟨0, 31, 0x10000#64, none, 0, true, 0, 0, 0⟩ : Candidate)], x.lane < 32) := by decide

/-- A state whose tables map the lowest 4 TiB to themselves, shared and writable, by one level-1 leaf at 0x20000000. -/
def mapped (s : State) (mem : List Host.Cell) : State :=
  { s with root := some 0x20000000, mem := mem ++ [(0x20000000, 3#8), (0x20000001, 0x40#8), (0x20000005, 0x80#8)] }
theorem witness_walk :
    let k : Walk := ⟨0x30000#64, .read, [⟨.thread 0, 0x30000#64, true, 0, false, false, false, true⟩], false⟩
    let s : State := { mapped (small []) [] with
      threads := [(0, { th0 with status := .walking })], clusters := [(0, { Cluster.init with walkq := [k] })] }
    (s.cluster 0).walkq = [k] ∧
    (∃ e l pa s1, (s.modCluster 0 (fun c => { c with walkq := [] })).walkFill (.data 0)
      ⟨0x30000#64, .read, false, true, 8, false, 0, false, true⟩ = (.ok e l pa, s1) ∧
      (s1.thread? 0).map (·.status) = some .walking ∧ (s1.cluster 0).walkq = []) :=
  ⟨rfl, _, _, _, _, rfl, rfl, rfl⟩
theorem witness_core_events :
    let wc : WcEntry := ⟨512, 0#1024, 0#128, 0#128, 0#6, 0#8, false, false, [], [], [], none⟩
    let f : Forwarded := ⟨0, 0, 0, 512, 0#1024, 0#128, 0#6, 0#8, false, 0⟩
    let s : State := { small [] with
      cores := [(0, { Core.init with wc := [wc] })], forwarded := [f]
      dies := [(0, { Die.init with
        dir := [(0x10000, ⟨2048, .shared [3]⟩), (0x10800, ⟨2048, .shared [3]⟩)], asleep := [(5, 0#32), (6, 1#32)] })] }
    0 < (s.core 0).wc.length ∧ AMap.get? (s.die 0).dir 0x10000 = some ⟨2048, .shared [3]⟩ ∧ 0x10000 % (2 * 2048) = 0 ∧
    AMap.get? (s.die 0).dir (0x10000 + 2048) = some ⟨2048, .shared [3]⟩ ∧ s.forwarded = [f] ∧ homeDie (128 * f.line) = some 0 ∧
    (s.core 0).ltime ≠ 0xFFFFFF#24 ∧ AMap.get? (s.die 0).asleep 5 = some s.pcb.thawgen ∧
    AMap.get? (s.die 0).asleep 6 = some 1#32 ∧ 1#32 ≠ s.pcb.thawgen ∧ s.timebase.toNat < 2 ^ 64 - 425 := by decide

/-- A launch at the head of level 3 of die 0: its record, its entry word at 0x10000. -/
def record : Launch :=
  { Launch.blank with entry := 0x10000#64, ngroup := 2, gsize := 1, clmask := 1#64, diemask := 1#4, prio := 3, state := .queued }
def queued (x : Launch) (groups : List (Nat × Group)) : State :=
  { (mapped (placed (entryWord (2 ^ 32)) []) []).modDie 0 (fun d => { d with queues := [(3, [5])] }) with
    groups := groups, launches := [(5, x)] }
def codeOf (x : Checked × State) : Option Code × Nat × AMap Word := (x.1.code, x.1.budget, x.1.banks)
theorem witness_dispatch_head :
    ((queued record []).headOf 0 3).map (·.1) = some 5 ∧ record.checked = false ∧ (queued record []).dieUp 0 = true ∧
    codeOf ((queued record []).checkRecord record) = (some .ok, 16, []) ∧
    ({ record with signature := 1#64 } : Launch).signature ≠ (queued record []).pcb.defsig ∧
    ({ record with gsize := 1025 } : Launch).gsize = 1025 := by decide +kernel
theorem witness_place :
    let x : Launch := { record with checked := true, budget := 16, state := .placing }
    let s : State := queued x []
    s.claimants.map (fun a => (a.what, a.die, a.prio)) = [(.front 0 5, 0, 3)] ∧
    ((s.claimants.map (fun a => a.cores.filter (s.takesGroup 5 x x.placed))).headD []).length = 4 := by decide +kernel
theorem witness_preempt :
    let low : Group := { g0 with launch := 6, prio := 4, gsize := 1024, budget := 240 }
    let s : State := { queued { record with checked := true, budget := 16, state := .placing } [] with
      groups := (List.range 4).map (fun c => (64 * c, { low with core := c }))
      launches := [(5, record), (6, { Launch.blank with ngroup := 4, gsize := 1 })] }
    (s.victim 3 [0, 1, 2, 3]).map (fun g => (g.core, g.prio, g.stop, g.spawned)) = some (0, 4, .running, false) ∧
    s.groups.any (fun q => [0, 1, 2, 3].contains q.2.core && q.2.stop == .preempt) = false := by decide +kernel
theorem witness_stopped :
    let s : State := { small [] with groups := [(0, { g0 with stop := .preempt })] }
    let t : State := { small [] with threads := [(0, { th0 with status := .exited })] }
    (s.group? 0).map (·.stop) = some .preempt ∧ (s.launch? 0).isSome = true ∧
    s.familyStill (s.familyOf { g0 with stop := .preempt }) = true ∧ s.launchReclaimed 0 = false ∧ s.launchFailing 0 = false ∧
    (t.group? 0).isSome = true ∧ t.groupExited 0 = true ∧ (t.closeFor g0).groupDone 0 g0 = true ∧
    ((t.closeFor g0).chain 0).openBy g0 = false := by decide

/-- A submission ring of 64 entries at 0x30000, entry 0 of the kind given, with byte 0x42 as given. -/
def ring (kind bad : Byte) : State :=
  mapped { small [] with pcb := { (small []).pcb with subringBase := [(0, 0x30000#64)], subringEnable := 1#4 } }
    ([(0x30008, 1#8), (0x30010, 64#8)] ++ (if kind = 0#8 then [] else [(0x30080, kind)]) ++
      (if bad = 0#8 then [] else [(0x30082, bad)]))
def ringGives (s : State) : Option (Nat × Bool × Nat × Nat) :=
  (s.ringEntry 0).1.map (fun e => (entryKind e.1, entryBad e.1, entryNafter e.1, e.2.2))
theorem witness_rings : ringGives (ring 0#8 0#8) = some (0, false, 0, 0) ∧ ringGives (ring 4#8 0#8) = some (4, false, 0, 0) ∧
    ringGives (ring 2#8 1#8) = some (2, true, 0, 0) := by decide +kernel
theorem witness_fused : (1023 : Nat) < 1024 ∧ (small []).dieStat 3 = 2 ∧ ({ small [] with pcb := { (small []).pcb with
    dieState := 0x3222#16, links := 15#4 } } : State).dieStat 3 = 3 ∧
    (∀ d, d < 4 → ({ small [] with pcb := { (small []).pcb with links := 15#4 } } : State).dieUp d = true →
      (15#4).getLsbD d = true ∧ d ≠ 0 ∨ (15#4).getLsbD ((d + 3) % 4) = true ∧ (d + 3) % 4 ≠ 0) := by decide

/-! Host and bring-up, the fabric. -/

/-- Window 1: key 7, bytes 0x10000 to 0x10FFF, read, write and atomics. -/
def hosted : State :=
  mapped { small [] with pcb := { (small []).pcb with
    windows := [(34, 1#8), (41, 0x10#8), (48, 7#8), (52, 15#8)] } } []
def partsOf (x : HostXl × State) : Option (List (Nat × Nat)) :=
  match x.1 with
  | .ok ps => some (ps.map (fun p => (p.pa, p.len)))
  | .refused | .wait => none
theorem witness_host : hosted.hostWindow 7#32 0x10000 16 .write = some 1 ∧ hosted.hostWindow 7#32 0x10FF8 8 .atomic = some 1 ∧
    hosted.hostWindow 7#32 0x10FF8 16 .read = none ∧ hosted.hostWindow 7#32 0x10FF0 16 .read = some 1 ∧
    partsOf (hosted.hostXlate 0x10000 16 .write false 2) = some [(0x10000, 16)] ∧
    partsOf (hosted.hostXlate 0x10FF8 8 .write true 2) = some [(0x10FF8, 8)] ∧ 0xFF8 + 8 ≤ 0x1000 ∧ 65535 < 65536 := by
  decide +kernel
theorem witness_loader :
    let s : State := { small [] with pcb := { (small []).pcb with ldcmd := 1#32, ldlen := 64#64, ldfile := 0x10000#64 } }
    s.pcb.ldcmd ≠ 0#32 ∧ s.awaitsDie s.pcb.ldfile.toNat = false ∧ s.pcb.ldlen ≠ 0#64 ∧ s.loaderRange 0x10000 64 = true ∧
    s.loaderRange (2 ^ 45) 64 = false ∧ lFileOk (List.replicate 64 0#8) = false := by decide
theorem witness_keys : (0x105#32).toNat / 256 % 4 = 1 ∧ (0x105#32).toNat % 256 ≠ 0 ∧ (0x205#32).toNat / 256 % 4 = 2 ∧
    (1#512).extractLsb' 0 256 ≠ (1#512).extractLsb' 256 256 ∧ (0#512).extractLsb' 0 256 = (0#512).extractLsb' 256 256 := by decide
theorem witness_power : 800 + 800 + 800 + 800 ≤ (small []).pcb.pwrcap.toNat ∧
    (∀ m ∈ [425, 850, 600, 425], 425 ≤ m ∧ m ≤ 850 ∧ m % 25 = 0) ∧
    (let s : State := { small [] with pcb := { (small []).pcb with lattol := 19#32 } }
     s.dieUp 1 = true ∧ s.dieIdle 1 = true ∧ (s.die 1).power = 0#2 ∧ 2 ≤ s.pcb.lattol.toNat ∧ s.pcb.lattol.toNat < 20) ∧
    (small []).dieIdle 0 = false := by decide
/-- A firmware image of a header alone: its magic number, its version, its length, the rollback counter given. -/
def firmware : List Byte := leBytes 0x4D464854 4 ++ leBytes 1 4 ++ leBytes 0 8 ++ leBytes 256 8 ++ List.replicate 232 0#8
theorem witness_firmware : State.reset.pcb.stage = 0#3 ∧ 0x100 ≤ firmware.length ∧ fieldAt firmware 0 4 = 0x4D464854 ∧
    fieldAt firmware 4 4 = 1 ∧ fieldAt firmware 0x10 8 = firmware.length ∧ (∀ b ∈ bytesAt firmware 0xC3 61, b = 0#8) ∧
    ¬ 0x100 ≤ ([] : List Byte).length := by decide +kernel
theorem witness_stages : ({ State.reset with pcb := { Pcb.init with stage := 1#3 } } : State).pcb.stage = 1#3 ∧
    ({ State.reset with pcb := { Pcb.init with stage := 2#3 } } : State).pcb.stage = 2#3 := by decide

/-- Packets of device 1, incarnation 9, to this device; its stream of class 0 awaits number 5. -/
def packet (seq : Nat) : Packet :=
  { src := 1, srcInc := 9, dst := 0, dstInc := 0, cls := 0, seq := seq, floor := 0, tag := 3, op := .load 0x10000 4 }
def linked : State :=
  { grouped [] with peerIncs := [(1, 9)], recvChans := [(4, ⟨true, 5, []⟩)] }
theorem witness_packets :
    let u := linked.modRecv 1 0 (fun c => if c.begun then c.raise 0 else { c with begun := true, expected := 0 })
    (packet 5).dst = linked.device.toNat ∧ AMap.get? linked.peerIncs 1 = some 9 ∧ 9 ∉ AMap.getD linked.endedIncs 1 [] ∧
    (u.recvChan 1 0).reorder = [] ∧ (u.recvChan 1 0).expected = 5 ∧ seqBefore 4 5 = true ∧ seqBefore 5 5 = false ∧
    ((u.modRecv 1 0 (fun x => { x with reorder := [packet 5] })).performPacket (packet 5)).isSome = true ∧
    5 < 6 ∧ 5 + 16383 < 5 + 16384 ∧ linked.linkRoom 1 1 = true ∧ linked.awaitsDie 0x10000 = false ∧
    linked.outRefuses 0x10000 false = none ∧ linked.outRefuses (2 ^ 45) true = some .protection := by decide +kernel
theorem witness_streams :
    let r : Remote := ⟨3, 0, 1, 0#64, 0#64, .load (some 3) .b32 true .plain⟩
    let s : State := { linked with sendChans := [(4, ⟨6, 5, [packet 5], [], 9⟩)], remotes := [r] }
    (s.sendChan 1 0).unacked = [packet 5] ∧ s.remotes = [r] ∧ r.tag = (packet 5).tag ∧ (s.recvChan 1 0).begun = true ∧
    (s.recvChan 1 0).reorder = [] ∧ (∀ cls, cls < 4 → (linked.sendChan 1 cls).unacked = []) ∧
    AMap.get? s.peerIncs 1 ≠ some 10 ∧ 10 ∉ AMap.getD s.endedIncs 1 [] := by decide
theorem witness_lanes :
    let p : Port := { Port.init with up := true, spare := true, active := 4#3, lanes := 15#5 }
    let active := (List.range 5).filter (fun i => p.lanes.getLsbD i)
    active.length = 4 ∧ active.filter (fun i => decide (1024 < [0, 1025, 0, 0, 0].getD i 0) || decide (16 < 16)) = [1] ∧
    active.filter (fun i => decide (1024 < [1024, 0, 0, 0, 0].getD i 0)) = [] ∧ (State.reset.ports[17]?).map (·.up) = some false ∧
    3 ≤ ((List.range 5).filter (fun i => (7#5).getLsbD i)).length ∧
    (∀ g ∈ (grouped []).cgroups, ¬ (g.2.plane = 4 ∧ spineOf g.1 = 0)) := by decide

/-- CoreAndMemoryEvents: two regions of one slice that join, at the slice's last one too; a turn that is another's. -/
theorem witness_regions : (0x10000 : Nat) < 2 ^ 46 ∧ 0x10000 % (2 * 2048) = 0 ∧ 2048 < 65536 ∧ 32768 < 65536 ∧
    ((small []).core 0).turn = 0 ∧ (({ small [] with cores := [(0, { Core.init with turn := 3 })] } : State).core 0).turn ≠ 4095 % 4 - 3 := by decide

/-- DispatcherEvents: the entry word of a record is read, is read later, faults; its banks load. -/
def headIn (s : State) (x : Launch) : PartGot := (s.partGet .fetch x.entry 12 [] 2).1
theorem witness_entry_fetch :
    headIn (queued record []) record = .bytes (leBytes (entryWord (2 ^ 32)) 12) ∧
    headIn (queued record []) { record with entry := 0x60000000000#64 } = .fault .tableNotPresent ∧
    headIn { queued record [] with pcb := { (small []).pcb with dieState := 0x2220#16 } } record = .later ∧
    entryOk (Entry.ofNat (entryWord (2 ^ 32))) .kernel = true ∧ (Entry.ofNat (entryWord (2 ^ 32))).sup = false ∧
    entryOk (Entry.ofNat (entryWord 0)) .kernel = false ∧ (Entry.ofNat (entryWord (2 ^ 32 + 2 ^ 35))).sup = true ∧
    (match ((queued record []).loadBanks record).1 with | .ok m => decide (m = []) | .error _ => false) = true ∧
    (match ((queued record []).loadBanks { record with cbmask := 1#16, cbaddr := 0x60000000000#64 }).1 with
      | .error (.fault c) => decide (c = .tableNotPresent) | _ => false) = true := by decide +kernel
/-- A launch that waits for its check takes no core; one that is checked does. -/
theorem witness_claimants :
    let x : Launch := { record with checked := true, budget := 16, state := .placing }
    (queued record []).claimants.map (·.ready) = [false] ∧ (queued x []).claimants.map (·.ready) = [true] ∧
    (queued x []).dieUp 0 = true ∧ x.chain = false := by decide +kernel
/-- Submission entries of KIND 1 and 3; their places translate; an entry is free. -/
theorem witness_ring_kinds : ringGives (ring 1#8 0#8) = some (1, false, 0, 0) ∧ ringGives (ring 3#8 0#8) = some (3, false, 0, 0) ∧
    (((ring 1#8 0#8).ringEntry 0).2.needDie 0).partLater 0x30000#64 = false ∧
    ((((ring 3#8 0#8).ringEntry 0).2.die 0).freeFrom 7) = some 7 ∧ ((ring 4#8 0#8).die 0).subAsk = none ∧
    (futured 0).remoteHandle (hands 5) = false ∧ ((futured 0).future (hands 7)).map (·.loose) = some 1 := by decide +kernel

/-- HostAndBootEvents: a message of a queue pair that has to wait, since its page stands on a die that is not yet in
service. -/
def sleeping : State := { hosted with pcb := { hosted.pcb with dieState := 0x2220#16 } }
theorem witness_host_waits : (match (sleeping.hostXlate 0x10000 16 .write false 2).1 with
      | .wait => true | .ok _ | .refused => false) = true ∧ AMap.getD sleeping.hostQueues 4 [] = [] ∧
    (sleeping.hostMsg (.write 7#32 0x10000#64 (List.replicate 16 1#8))).isNone = true ∧
    (hosted.hostMsg (.write 7#32 0x10000#64 (List.replicate 16 1#8))).isSome = true ∧
    AMap.getD ({ sleeping with hostQueues := [(4, [.refusedOp])] } : State).hostQueues 4 [] = [.refusedOp] ∧
    (match (hosted.hostXlate 0x60000000000 16 .write false 2).1 with | .refused => true | .ok _ | .wait => false) = true := by
  decide +kernel
/-- A file of one position-free variant and a string section, its digests by SHAKE256. -/
def lfile : List Byte :=
  leBytes 0x4E534D4C 4 ++ leBytes 1 2 ++ leBytes 1 2 ++ leBytes 1 2 ++ leBytes 1 2 ++ leBytes 0 4 ++ leBytes 64 8 ++ leBytes 96 8 ++
    leBytes 128 8 ++ leBytes 129 8 ++ leBytes 0x0dd77ff2da8364fb537ad539dc955f66 16 ++
    leBytes 4 2 ++ leBytes 0xFFFF 2 ++ leBytes 0 4 ++ leBytes 128 8 ++ leBytes 1 8 ++ leBytes 0 8 ++
    leBytes 0 8 ++ leBytes 1 4 ++ leBytes 0 4 ++ leBytes 0x24eb3e74eb3f3b23138da80b2bddb946 16 ++ [0#8]
theorem witness_loader_file : lFileOk lfile = true ∧ ((lFile lfile).select 5).map (·.pfree) = some true := by decide +kernel
theorem witness_stage_three : ({ State.reset with pcb := { Pcb.init with stage := 3#3 } } : State).pcb.stage = 3#3 ∧
    (∀ d, d < 4 → ({ State.reset with pcb := { Pcb.init with stage := 3#3, dieState := 1#16 } } : State).dieStat d ≠ 3) := by decide
theorem witness_power_states :
    let s (n : Nat) : State := { small [] with threads := [], groups := [], pcb := { (small []).pcb with lattol := BitVec.ofNat 32 n } }
    (∀ e, e < 4 → (s 200).dieIdle e = true) ∧ ((s 200).die 0).power = 0#2 ∧ (s 1).pcb.lattol.toNat < 2 ∧ 20 ≤ (s 199).pcb.lattol.toNat ∧
    (∃ e, e < 4 ∧ (small []).dieUp e = true ∧ (small []).dieIdle e = false) :=
  ⟨by decide, by decide, by decide, by decide, 0, by decide, by decide, by decide⟩

/-- FabricEvents: an acknowledgement of the peer's incarnation, of another; a RED that nobody answers. -/
theorem witness_acks :
    let s : State := { linked with sendChans := [(4, ⟨6, 5, [packet 5], [], 9⟩)] }
    (s.sendChan 1 0).peerInc = 9 ∧ (s.sendChan 1 0).peerInc ≠ 0 ∧ (s.sendChan 1 0).peerInc ≠ 10 ∧ (linked.sendChan 1 0).peerInc = 0 ∧
    seqBefore 5 5 = false ∧ seqBefore 4 5 = true := by decide
theorem witness_class_two :
    let p := toSpine (.red 5 .n32 .add 9#64)
    let s : State := { grouped [] with sendChans := [(4 * 8192 + 2, ⟨1, 0, [p], [], 0⟩)] }
    (s.sendChan 8192 2).unacked = [p] ∧ p.cls = 2 ∧ s.remotes.map (·.tag) = [p.tag] := by decide
/-- A port that is down takes three lanes of five, or all five with a spare; a spine is lost, and its group's next plane is
the one after. -/
theorem witness_planes : (State.reset.ports[17]?).map (·.up) = some false ∧ 3 ≤ ((List.range 5).filter (fun i => (7#5).getLsbD i)).length ∧
    ((List.range 5).filter (fun i => (31#5).getLsbD i)).length = 5 ∧
    (let s : State := { grouped [] with cgroups := [(6, ⟨.multicast [1] 0, 6, []⟩)], remotes := [] }
     s.landings = [] ∧ s.portUp 7 = true ∧ (7, 6 / 18 % 72) ∉ s.lostSpines ∧ s.nextPlane 6 6 = 7 ∧ s.nextPlane 17 6 = 0) := by decide

/-! Decoding, the step and the memory's form. -/

/-- EncodeDecodeRoundTrip: a well-formed word, at the largest fields. -/
theorem witness_round_trip : WellFormed (.iadd .i32 true ⟨0xFFFFFF#24, .gpr 239#8, .gpr 239#8, .imm, .gpr 255#8⟩) ∧
    (Instr.iadd .i32 true ⟨0xFFFFFF#24, .gpr 239#8, .gpr 239#8, .imm, .gpr 255#8⟩).opnds.isSome = true ∧
    (0x3E#6).getLsbD 0 = false := by decide

/-! Ill-formed terms, refused by each check of WellFormed: modifiers, immediate, operands, registers, literals. -/
theorem test_wellformed_modifiers : (Instr.iaddc .i16x2 false o3).modOk = false ∧ (Instr.iaddc .i16x2 false o3).wf = false := by decide
theorem test_wellformed_immediate : (Instr.iadd .i32 false ⟨1#24, .gpr 3#8, .gpr 1#8, .gpr 2#8, .gpr 255#8⟩).wf = false ∧
    (Instr.iadd .i32 false ⟨1#24, .gpr 3#8, .gpr 1#8, .gpr 2#8, .gpr 255#8⟩).immOk = false := by decide
theorem test_wellformed_operands : (Instr.iadd .i32 false ⟨0#24, .sreg 5#6, .gpr 1#8, .gpr 2#8, .gpr 255#8⟩).operandsOk = false ∧
    (Instr.iadd .i32 false ⟨0#24, .gpr 3#8, .sreg 60#6, .gpr 2#8, .gpr 255#8⟩).wf = false := by decide
theorem test_wellformed_registers : (Instr.iadd .i64 false ⟨0#24, .gpr 3#8, .gpr 2#8, .gpr 4#8, .gpr 255#8⟩).registersOk 240 = false ∧
    (Instr.iadd .i32 false ⟨0#24, .gpr 240#8, .gpr 2#8, .gpr 4#8, .gpr 255#8⟩).wf = false := by decide
theorem test_wellformed_literals : (Instr.iadd .i32 false ⟨0#24, .gpr 3#8, .litLo 1#64, .litHi 2#64, .gpr 255#8⟩).wf = false ∧
    (Instr.iadd .i32 false ⟨0#24, .gpr 3#8, .litLo 1#64, .litHi 1#64, .gpr 255#8⟩).wf = true := by decide

/-- StepRunsDecoded: IADD g3, 1 + 100 as the first instruction after reset; the pc passes it. -/
def stepped (w : Nat) : Option (Nat × Word × DWord) :=
  match Machine.step (State.reset.withFetchWord 96 w) with
  | .next t => (t.thread? 0).map (fun th => (t.issue.length, th.reg 3, th.pc))
  | .fault _ | .refused _ => none
theorem test_step_iadd : stepped 0x00070003007003FC04000064 = some (0, 100#32, 0x1000C#64) := by decide
/-- Guard P0, which is false: the word only passes. -/
theorem test_step_guard : stepped 0x00000003007003FC04000064 = some (0, 0#32, 0x1000C#64) := by decide
theorem witness_step : (State.reset.withFetchWord 96 0).issue = 0 :: [] ∧
    ((State.reset.withFetchWord 96 0).thread? 0) = some fetchThread ∧
    ({ State.reset.withFetchWord 96 0 with issue := [] } : State).mayIssue 0 fetchThread = true ∧
    fetchThread.guardHolds 7#4 = true ∧ fetchThread.guardHolds 0#4 = false ∧ fetchThread.pc.toNat % 65536 ≤ 65524 ∧
    fetchThread.pending = [] ∧ wordReadsLiteral 0x00070003007003FC04000064#96 = false ∧
    reconvBit 0x00070003007003FC04000064#96 = false := by decide
theorem witness_agenda : let s : State := { small [] with agenda := [.ltimeTick 0] }
    s.issue = [] ∧ s.agenda = .ltimeTick 0 :: [] ∧ (Instr.ltimeTick 0).isWord = false ∧ (0 < (small []).openEvents.length) := by
  decide +kernel
/-- StepTraps: a misaligned pc, one beyond the address space; a reserved class; a register still pending; a stale latch. -/
theorem witness_step_traps : (2#64).toNat % 4 ≠ 0 ∧ (2 ^ 55 : Nat) ≤ (0x80000000000000#64).toNat ∧
    ({ State.reset.withFetchWord 96 0 with issue := [] } : State).mayIssue 0 { fetchThread with pc := 2#64 } = true ∧
    (3 : Nat) ∈ (Instr.mov false o3).regsNamed ∧ (Instr.mov false ⟨0#24, .gpr 3#8, .latch 0#2, .gpr 255#8, .gpr 255#8⟩).latchesRead ≠ [] ∧
    (fetchThread.latch 0).valid = false ∧ (Fields.ofNat (0xE * 2 ^ 92)).opc.toNat / 256 = 0xE ∧
    (Fields.ofNat (0xC * 2 ^ 92)).opc.toNat < 0xFFE := by decide
/-- MemoryFormKept: the memory at reset has the form, and a step answers a next state. -/
theorem witness_memory_form : Memory.wf (State.reset.withFetchWord 96 0x00070003007003FC04000064).mem = true ∧
    (stepped 0x00070003007003FC04000064).isSome = true ∧ Memory.wf [(5, 0#8)] = false := by decide

/-! Memory, barriers, engines: one instruction each, expected values by hand from the rules. -/

def next (i : Instr) (s : State) : Option State :=
  match Machine.exec i s with
  | .next t => some t
  | .fault _ | .refused _ => none
/-- Bank 0 has served the first request of core 0. -/
def served (s : Option State) : Option State := s.map (fun t => t.serveBank 0 0)
def spBytes (s : Option State) (a n : Nat) : Option (List Byte) := s.map (fun t => (t.cluster 0).spadRead a n)

/-- R6, R137: a 16-bit store leaves the bytes above it; a sign-extending load; a 64-bit add at a misaligned address traps. -/
def stored : State := { reach [(2, 0xAABBCCDD#32)] with
  clusters := [(0, { Cluster.init with owners := [⟨0, 0, 4096⟩], spad := [(1, 0x11#8), (2, 0x22#8)] })] }
theorem test_scratchpad_store : spBytes (served (next (.st { mSp with size := .b16 } ⟨0#24, .none, .gpr 6#8, .unread, .gpr 2#8⟩) stored)) 0 4 =
    some [0xDD#8, 0xCC#8, 0x22#8, 0#8] := by decide
theorem test_scratchpad_load : ((served (next (.ld { mSp with size := .s8, disp := 2#18 } ⟨0#24, .gpr 8#8, .gpr 6#8, .unread, .unread⟩)
    { stored with clusters := [(0, { Cluster.init with owners := [⟨0, 0, 4096⟩], spad := [(2, 0xFE#8)] })] })).bind
      (fun t => next (.loadLands 0) t)).bind (fun t => (t.thread? 0).map (·.reg 8)) = some 0xFFFFFFFE#32 := by decide
theorem test_scratchpad_atomic : spBytes (served (next (.atom .add mSp ⟨0#24, .gpr 8#8, .gpr 6#8, .unread, .gpr 2#8⟩) stored)) 0 4 =
    some [0xDD#8, 0xDD#8, 0xDD#8, 0xAA#8] := by decide
/-- R189: the arrival that completes the phase turns it over and clears ARRIVALS. -/
theorem test_barrier_phase : (next (.bararv false bReg ⟨0#24, .gpr 3#8, .gpr 1#8, .gpr 2#8, .unread⟩) (barState lastButOne [])).bind (fun t => (t.group? 0).map (fun g =>
    g.bars.map (fun b => (b.arrivals, b.phase)))) = some [(0#11, true)] := by decide
theorem test_barrier_arrive : (next (.bararv false bReg ⟨0#24, .gpr 3#8, .gpr 1#8, .gpr 2#8, .unread⟩) (barState idle [])).bind (fun t => (t.group? 0).map (fun g =>
    g.bars.map (fun b => (b.arrivals, b.phase)))) = some [(1#11, false)] := by decide
/-- R218: the copy's bytes arrive. -/
theorem test_copy_lands : spBytes (next (.copyLands 0 5) { withCluster { Cluster.init with
    spad := [(256, 1#8), (319, 2#8), (320, 3#8)], copyq := [copyOp (.cp true true 0#64 256#64 64)] } with choices := [0] }) 62 3 =
    some [0#8, 2#8, 0#8] := by decide
theorem test_fill_lands : spBytes (next (.copyLands 0 5) { withCluster { Cluster.init with
    copyq := [copyOp (.fill true 4#64 4 2 0xAABBCCDD#32)] } with choices := [0] }) 2 7 =
    some [0#8, 0#8, 0xDD#8, 0xCC#8, 0xDD#8, 0xCC#8, 0#8] := by decide
/-- R234: MSWAP exchanges the planes. -/
theorem test_swap_lands : (next (.matrixLands 0 5) (withCluster { Cluster.init with
    matq := [matOp .swap], shadow := { Plane.init with owner := some 0, elems := [(0, 7#16)] } })).map (fun t =>
      ((t.cluster 0).stationary.elems, (t.cluster 0).shadow.elems)) = some ([(0, 7#16)], []) := by decide
/-- R411: an unsigned minimum and a sum of two contributions. -/
theorem test_round_close : (next (.redRoundClose 5 [3#64]) { grouped [] with choices := [0, 0] }).bind (fun t => (t.thread? 0).map (·.reg 3)) =
    some 10#32 := by decide

/-! Further clauses of the statements above. -/

/-- ConversionResults: the largest pattern of a format, a draw, a value at which a bound of R65 is passed. -/
theorem witness_conversions : 65535 < 65536 ∧ 63 < 2 ^ Fmt.t6.bits ∧ num (Ex.ofInt 3) = some 3 ∧
    [Fmt.t8, .t6, .i8, .n8, .e8, .f16].map (·.isInt) = [false, false, true, true, false, false] := by
  refine ⟨by decide, by decide, ?_, by decide⟩
  simp [num, Ex.ofInt]

/-- EntryBranches: a target on a page that no thread may execute from; a thread that has branched to a word with the SUP bit,
to one of the wrong kind, to one that asks for more than its group has. -/
def noFetch : State := { small [(6, 0x10000#32)] with
  cores := [(0, { Core.init with itlb := [⟨0x10000, 3, pteClassed (BitVec.ofNat 64 (0x10000 + 2 ^ 47 + 5)) 2 0⟩] })] }
def failedFetch (s : State) : Bool :=
  match (s.fetchWord false 0 0x10000#64 true).1 with
  | .fails va r => decide (va = 0x10000#64) && decide (r ≠ .wait)
  | .word _ | .miss _ => false
def fetchedPlain (s : State) (sup : Bool) : Option (BitVec 96) :=
  match (s.fetchWord false 0 0x10000#64 sup).1 with
  | .word w => some w
  | .fails _ _ | .miss _ => none
def called (w : Nat) (sup : Bool) : State :=
  let s := placed w []
  { s with threads := [(0, { fetchThread with sup := sup, calling := some ⟨0x20000#64, 1, some (4, [1#32, 2#32])⟩ })] }
theorem witness_calling :
    failedFetch noFetch = true ∧ (noFetch.read64 0 jump.a).1 = 0x10000#64 ∧ th0.depth ≤ 4 ∧
    ([entryWord (2 ^ 32), entryWord (2 ^ 33 + 2 ^ 35), entryWord (2 ^ 33 + 2 ^ 48), entryWord (2 ^ 33)].all (fun w =>
      fetchedPlain (called w false) false == some (BitVec.ofNat 96 w)) = true) ∧
    entryOk (Entry.ofNat (entryWord (2 ^ 32))) .call = false ∧ entryOk (Entry.ofNat (entryWord (2 ^ 33 + 2 ^ 35))) .call = true ∧
    (Entry.ofNat (entryWord (2 ^ 33 + 2 ^ 35))).sup = true ∧ (Entry.ofNat (entryWord (2 ^ 33))).sup = false ∧
    ((called 0 false).thread? 0).any (fun th => th.calling.isSome && !th.sup && (called 0 false).mayIssue 0 th) = true := by decide

/-- ScratchpadLoad, ScratchpadStore, ScratchpadAtomic: a request of each kind at bank 0 whose turn it is; a second load of the
same unit that joins the first. -/
def requested (a : BankAct) : State := Claims.queued (reach []) 0 0 a
def lane0 : BankLane := ⟨0, some 8, 4, .b32⟩
theorem witness_served : ∀ a ∈ [BankAct.load [lane0], .store 4 [1#8], .atom lane0 .add 1, .cas lane0 0 1],
    (∃ t, Served (requested a) 0 0 a t) ∧ (requested a).bankDue 0 0 = some 0 := by
  intro a ha
  refine ⟨⟨_, ⟨0, 0, a⟩, [], ?_, rfl, rfl⟩, ?_⟩ <;> (revert a; decide)
theorem witness_joined : let r : BankReq := ⟨0, 0, .load [lane0]⟩
    (AMap.getD ((Core.init.addRequest r).addRequest ⟨0, 0, .load [{ lane0 with off := 12 }]⟩).bankq 0 []).length = 1 ∧
    (AMap.getD ((Core.init.addRequest r).addRequest ⟨0, 0, .load [{ lane0 with off := 1024 }]⟩).bankq 0 []).length = 2 ∧
    (reach []).bankDue 0 0 = none ∧ cellsWf ((reach []).cluster 0).spad 0#8 = true ∧ 2097148 + 4 ≤ 2 ^ 21 := by decide

/-- LoadLands: a load whose place has changed since, and one whose place has not. -/
def late (w : Word) : Landing := ⟨0, some 3, [w], none, none, some ⟨0, 0x10000, .b32, page.entry, false⟩⟩
theorem witness_late :
    let u : State := { reach [] with landings := [late 0#32, late 7#32] }
    u.landings[0]? = some (late 0#32) ∧ u.landings[1]? = some (late 7#32) ∧ u.backed 0x10000 = true ∧
    loadWords .b32 (leNat (u.uncounted 0 (fun q => q.coreLoad 0 0x10000 4 page.entry false none)).1) = [0#32] ∧
    ({ u with choices := [1] } : State).choose 2 = (1, { u with choices := [] }) :=
  ⟨by decide, by decide, by decide, by decide, rfl⟩

/-- StoreFrame: the core's own page, its line in the L1 and not; no place of its own. -/
theorem witness_own_store :
    let e := pteClassed page.entry 1 0
    let s : State := { reach [] with cores := [(0, { Core.init with l1 := [(512, ⟨0#1024, 0#128, 0#6, 0#8, true, false⟩)] })] }
    ownedBy e 0 = true ∧ s.ownSend 0 512 = s ∧ (AMap.get? (s.core 0).l1 512).isSome = true ∧ AMap.sorted (s.core 0).l1 = true ∧
    AMap.get? (((reach []).ownSend 0 512).core 0).l1 512 = none ∧ pteNa e = false :=
  ⟨by decide, rfl, by decide⟩

/-- SpawnInstructions: 64 and 65 barrier registers, 8,192 and 8,193 units of scratchpad, a reserved bit. -/
theorem witness_spawn_bounds :
    let e (n : Nat) : Entry := Entry.ofNat (spawnEntry + n)
    (∀ n ∈ [64 * 2 ^ 40, 65 * 2 ^ 40, 8192 * 2 ^ 48, 8193 * 2 ^ 48], entryShaped (e n) .spawn = true) ∧
    (e (64 * 2 ^ 40)).bars.toNat = 64 ∧ 64 < (e (65 * 2 ^ 40)).bars.toNat ∧ (e (8192 * 2 ^ 48)).spad.toNat = 8192 ∧
    8192 < (e (8193 * 2 ^ 48)).spad.toNat ∧ entryShaped (e 1) .spawn = false ∧ entryShaped (e (15 * 2 ^ 76)) .spawn = false ∧
    (placed spawnEntry []).spawnRoom fetchGroup 1 16 64 = true ∧ (placed spawnEntry []).spawnRoom fetchGroup 1 16 65 = false ∧
    fetchGroup.spSize ≤ 2 ^ 21 := by decide

/-- CoreAndMemoryEvents: a thread that may issue stands among the candidates of its quarter; a context of a latency core. -/
theorem witness_prepared :
    let s := placed 0 []
    0 ∈ (prepared s 0 0).1 ∧ ((prepared s 0 0).2.thread? 0).any (fun th => (prepared s 0 0).2.mayIssue 0 th && !th.pcTraps) = true ∧
    (issueOf (((prepared s 0 0).2.candidates 0 (prepared s 0 0).1).filter (·.free))).1 = [0] ∧ (s.core 0).turn = 0 := by decide +kernel

/-- FutureInstructions: an unbound future that resolves while a thread waits, one that has gone, one that was taken up. -/
theorem witness_fwait_got :
    let th : Thread := { th0 with status := .fwait (hands 5) (.gpr 8#8) 3 12 }
    let s : State := { futured 0 with threads := [(0, th)] }
    th.got = none ∧ s.future (hands 4) = none ∧ (s.futEntry (hands 5)).map (fun f => (f.reclaimed, f.notes)) = some (false, []) ∧
    s.futWaits = [] ∧ ({ th with got := some (.ok, [1#32, 2#32, 3#32, 4#32], false) } : Thread).got ≠ none ∧
    ((s.resolveFut (hands 5) .ok [1#32, 2#32, 3#32, 4#32]).2.thread? 0).map (·.got) = some (some (.ok, [1#32, 2#32, 3#32, 4#32], false)) := by
  decide

/-- HostAndBootEvents: a stage before service, a die 0 that has failed, a signer that a halt has withdrawn. -/
theorem witness_boot_cases :
    State.reset.pcb.stage.toNat < 2 ∧ ({ State.reset with pcb := { Pcb.init with dieState := 3#16 } } : State).dieStat 0 = 3 ∧
    State.reset.dieStat 0 ≠ 3 ∧
    (let s : State := { small [] with pcb := { (small []).pcb with crit := true }, threads := [(0, { th0 with status := .withdrawn })] }
     s.pcb.crit = true ∧ (s.thread? 0).map (·.status) = some .withdrawn ∧ (s.core 0).halted = false) := by decide

/-- FabricEvents: a stream with something that waits for its turn, one that is full. -/
theorem witness_send_waits :
    let s : State := { linked with sendChans := [(4, ⟨6, 5, [], [(8, .load 0x10000 4)], 9⟩)] }
    (s.sendChan 1 0).waiting = [(8, .load 0x10000 4)] ∧ (s.sendChan 1 0).unacked.length < 16384 ∧
    16384 ≤ (List.replicate 16384 (packet 5)).length ∧ (linked.sendChan 1 0).waiting = [] := by decide

/-- StepRunsDecoded: a thread that has branched to a CALL entry it may enter; an instruction behind an acquire under way. -/
theorem witness_step_called :
    entryOk (Entry.ofNat (entryWord (2 ^ 33))) .call = true ∧ (called (entryWord (2 ^ 33)) false).entryFits 0
      { th0 with sup := false } (Entry.ofNat (entryWord (2 ^ 33))) = true ∧
    (Instr.scan 0#6 o3).behindAcquires = true ∧
    ({ reach [] with remotes := [⟨5, 0, 1, 0#64, 0#64, .load (some 3) .b32 true .plain⟩] } : State).acquirePending 0 = true := by decide

/-! EngineLandings. -/

/-- The banks of a cluster whose cores have no request stand idle. -/
theorem idle_of {s : State} {cl : Nat} (h : ∀ i, i < 4 → (s.core (4 * cl + i)).bankq = []) : idleBanks s cl := by
  intro b
  simp only [State.bankBusy, List.any_eq_false, List.mem_range]
  intro i hi
  rw [h i hi]
  simp [AMap.getD, AMap.get?]
def fourth : Cluster := { Cluster.init with owners := [⟨0, 0, 4096⟩], ctlb := [page], mtlb := [page] }
def engined (c : Cluster) : State := { reach [] with clusters := [(0, c)] }
theorem witness_copy_at : let op : CopyOp := copyOp (.cp true true 0#64 256#64 64)
    let s := engined { fourth with copyq := [op] }
    copyAt s 0 5 op ∧ fresh op ∧ idleBanks s 0 ∧ cellsWf (s.cluster 0).spad 0#8 = true ∧ unarmed (s.cluster 0) 0 64 ∧
    meet 0 256 64 = false ∧ unitAccess 0 256 64 0 = (List.range 8).map (fun i => (8 * i, 256 + 8 * i, 8)) ∧
    unitAccess 0x10001 0 2 0 = [(0x10001, 0, 1), (0x10002, 1, 1)] :=
  ⟨⟨by decide, by decide⟩, by decide, idle_of (by decide), by decide, by decide, by decide, by decide, by decide⟩
/-- A global side of a copy, read and written; the queue of the engine at a bank where a core's requests stand, full. -/
theorem witness_copy_global : let op (p : Nat) (h : List (List Byte)) : CopyOp :=
      { copyOp (.cp false false 0x10000#64 0x10080#64 8) with phase := p, held := h }
    let s (p : Nat) (h : List (List Byte)) : State := engined { fourth with copyq := [op p h] }
    (∃ e pa t, engineMaps (s 0 []) (.copy 0) 0 0x10080 .read true e pa t) ∧
    (∃ e pa t, engineMaps (s 1 [List.replicate 8 1#8]) (.copy 0) 0 0x10000 .write true e pa t) ∧
    unitAccess 0x10000 0x10080 8 0 = [(0x10000, 0x10080, 8)] ∧ 0 < (0x10000 + 8 + 127) / 128 - 0x10000 / 128 ∧
    (let b : State := (requested (.store 4 [1#8])).modCluster 0 (fun c => { c with engq := [(0, 8)] })
     b.bankBusy 0 (4 / 16 % 64) = true ∧ 8 ≤ AMap.getD (b.cluster 0).engq (4 / 16 % 64) 0) :=
  ⟨⟨_, _, _, by decide, ⟨_, rfl⟩, by decide⟩, ⟨_, _, _, by decide, ⟨_, rfl⟩, by decide⟩, by decide, by decide, by decide⟩
/-- A tile of 2 by 2 bytes of a scratchpad tensor of 4 by 4 at 0; records that are ill, and one that lies outside. -/
def tile22 (base : Nat) : List Byte :=
  leBytes base 8 ++ [0#8, 1#8, 2#8, 1#8] ++ leBytes 7 4 ++ leBytes 4 4 ++ leBytes 4 4 ++ leBytes 0 8 ++ leBytes 4 8 ++ leBytes 0 16 ++
    leBytes 2 2 ++ leBytes 2 2 ++ leBytes 0 4
theorem witness_tile : let op : CopyOp := copyOp (.tile false true true 0#64 64#64 3#32 0#32 0#32 0#32 (tile22 0))
    let s := engined { fourth with copyq := [op] }
    copyAt s 0 5 op ∧ fresh op ∧ (tile22 0).length = 64 ∧ (shapeOf (tile22 0)).contradictory = false ∧ (shapeOf (tile22 0)).extent = 16 ∧
    slotElems (tile22 0) = 1 ∧ slotOf (tile22 0) 1 1 0 0 ∧ slotLinear (tile22 0) 1 1 0 0 = 3 ∧
    slotAddress (tile22 0) [3, 0, 0, 0] 0 1 0 0 = some 7 ∧ slotAddress (tile22 0) [3, 0, 0, 0] 1 1 0 0 = none ∧
    s.spadOutside 0 0 64 4 = none ∧ s.spadOutside 0 0 0 16 = none ∧ s.spadOutside 0 0 4096 16 ≠ none ∧
    (shapeOf (tile22 (2 ^ 22))).contradictory = true ∧ idleBanks s 0 ∧ (∀ k, AMap.getD (s.cluster 0).engq k 0 = 0) ∧
    (∃ e pa t, engineMaps s (.copy 0) 0 0x10000 .read true e pa t ∧ (lineRead t 0 pa 64 e false).1.length = 64) :=
  ⟨⟨by decide, by decide⟩, by decide, by decide, by decide, by decide, by decide, by decide, by decide, by decide, by decide, by decide, by decide,
    by decide, by decide, idle_of (by decide), fun _ => rfl, _, _, _, ⟨by decide, ⟨_, rfl⟩, by decide⟩, by decide⟩
/-- A collective of two slices, one of which has ended. -/
theorem witness_collective_lands :
    let x (d s : Nat) (c : Option Code) : CpgSlice := ⟨128, true, true, false, BitVec.ofNat 64 d, BitVec.ofNat 64 s, 16, 0, 0, 0, 0x10000#64, true, true, c⟩
    let op := copyOp (.collective 128)
    let s := engined { fourth with copyq := [op], slices := [x 0 64 (some .protection), x 16 64 none] }
    copyAt s 0 5 op ∧ fresh op ∧ idleBanks s 0 ∧ ((s.cluster 0).slices.filter (fun x => x.obj == 128 && x.started)).length = 2 ∧
    ((s.cluster 0).slices.filter (fun x => x.code == none)).length = 1 ∧ unarmed (s.cluster 0) 16 16 ∧ meet 16 64 16 = false :=
  ⟨⟨by decide, by decide⟩, by decide, idle_of (by decide), by decide, by decide, by decide, by decide⟩
/-- The matrix operations: each granted; planes of the launch, of another and of none; rows in and out of its allocations. -/
theorem witness_matrix_at :
    let p (l : Option Nat) : Plane := ⟨.bf16, 40, 192, l, []⟩
    let ks : List MatKind := [.load .t6 true true 0#64 3 4 2, .load .t6 true false 0x10000#64 3 4 2, .stream .bf16 false 0#64 0 80 2,
      .gather .bf16 true 0#64 512 520 1, .read ⟨2#11, .t6, .rn, true, true, true, false⟩ 0#64 0 4 3,
      .read ⟨2#11, .f32, .rn, true, false, false, false⟩ 0x10000#64 0 40 160, .accld true 0#64 0 192 768 2, .accld false 0x10000#64 0 3 12 2]
    let s (k : MatKind) : State := engined { fourth with matq := [matOp k], stationary := p (some 0), poison := 1#1024 }
    (∀ k ∈ ks, matrixAt (s k) 0 5 (matOp k)) ∧ (s .swap).spadOutside 0 0 0 80 = none ∧ (s .swap).spadOutside 0 0 4096 80 ≠ none ∧
    (s .swap).spadOutside 0 0 (2048 * 1) 1 = none ∧ (s .swap).spadOutside 0 0 (2048 * 2) 1 ≠ none ∧
    ¬ notServed (s .swap) .i8 ∧ notServed { s .swap with pcb := { (small []).pcb with reduced := true } } .i8 ∧
    rowLen .t6 4 = 3 ∧ readLen ⟨2#11, .t6, .rn, true, true, true, false⟩ 4 = 3 ∧
    readParts ((s .swap).cluster 0) 0x10000 0 2 160 160 = [(1, 0, 0x100A0, 96), (1, 96, 0x10100, 64)] ∧
    unitLen 0x10000 100 100 1 = 99 ∧ unitAt 0x10000 100 100 101 = 0x10000 + 101 ∧ unitLen 0x10000 100 100 101 = 27 := by
  refine ⟨?_, by decide, by decide, by decide, by decide, by simp [notServed, engined, reach, small, State.reset, Pcb.init], ?_, by decide, by decide,
    by decide, by decide, by decide, by decide⟩
  · decide
  · exact ⟨rfl, by decide⟩
theorem witness_matrix_maps : let s := engined fourth
    (∃ e pa t, engineMaps s (.matrix 0) 0 0x10000 .read true e pa t ∧ pteWs e = false) ∧
    (∃ e pa t t', engineMaps s (.copy 0) 0 0x10000 .read true e pa t ∧ engineMaps t (.copy 0) 0 0x10000 .read true e pa t' ∧
      (lineRead t' 0 pa 12 e false).1.length = 12) ∧
    (∃ e pa t, engineMaps s (.copy 0) 0 0x10000 .write true e pa t ∧ pteWs e = false) ∧
    (let w : State := { engined { fourth with mtlb := [⟨0x10000, 3, pteClassed (BitVec.ofNat 64 (2 ^ 63 + 2 ^ 40 + 2 ^ 47 + 3)) 2 0⟩] } with
       dies := [(0, { Die.init with window := .open })] }
     ∃ e pa t t', engineMaps w (.matrix 0) 0 0x10000 .read true e pa t ∧ engineMaps t (.matrix 0) 0 0x10000 .read true e pa t' ∧
       pteWs e = true ∧ (lineRead t' 0 pa 12 e false).1.length = 12) :=
  ⟨⟨_, _, _, ⟨by decide, ⟨_, rfl⟩, by decide⟩, by decide⟩,
    ⟨_, _, _, _, ⟨by decide, ⟨_, rfl⟩, by decide⟩, ⟨by decide, ⟨_, rfl⟩, by decide⟩, by decide⟩,
    ⟨_, _, _, ⟨by decide, ⟨_, rfl⟩, by decide⟩, by decide⟩,
    ⟨_, _, _, _, ⟨by decide, ⟨_, rfl⟩, by decide⟩, ⟨by decide, ⟨_, rfl⟩, by decide⟩, by decide, by decide⟩⟩

end Sys2Proof.Tests
end

section
namespace Sys2Proof

/-! ### Operand fields (R18) -/

section OfField
variable (n : Nat) (lit : DWord)

theorem Operand.ofField_gpr (h : n < 0x100) : Operand.ofField (BitVec.ofNat 10 n) lit = .gpr (BitVec.ofNat 8 n) := by
  simp only [Operand.ofField, BitVec.toNat_ofNat, Nat.mod_eq_of_lt (show n < 2 ^ 10 by omega)]
  rw [if_pos h]

theorem Operand.ofField_const (h : 0x100 ≤ n ∧ n < 0x200) :
    Operand.ofField (BitVec.ofNat 10 n) lit = .const (BitVec.ofNat 8 n) := by
  simp only [Operand.ofField, BitVec.toNat_ofNat, Nat.mod_eq_of_lt (show n < 2 ^ 10 by omega)]
  rw [if_neg (by omega), if_pos (by omega)]

theorem Operand.ofField_latch (h : 0x200 ≤ n ∧ n < 0x204) :
    Operand.ofField (BitVec.ofNat 10 n) lit = .latch (BitVec.ofNat 2 n) := by
  simp only [Operand.ofField, BitVec.toNat_ofNat, Nat.mod_eq_of_lt (show n < 2 ^ 10 by omega)]
  rw [if_neg (by omega), if_neg (by omega), if_pos (by omega)]

theorem Operand.ofField_pred (h : 0x208 ≤ n ∧ n < 0x210) :
    Operand.ofField (BitVec.ofNat 10 n) lit = .pred (BitVec.ofNat 3 n) := by
  simp only [Operand.ofField, BitVec.toNat_ofNat, Nat.mod_eq_of_lt (show n < 2 ^ 10 by omega)]
  rw [if_neg (by omega), if_neg (by omega), if_neg (by omega), if_neg (by omega), if_pos (by omega)]

theorem Operand.ofField_sreg (h : 0x240 ≤ n ∧ n < 0x280) :
    Operand.ofField (BitVec.ofNat 10 n) lit = .sreg (BitVec.ofNat 6 n) := by
  simp only [Operand.ofField, BitVec.toNat_ofNat, Nat.mod_eq_of_lt (show n < 2 ^ 10 by omega)]
  rw [if_neg (by omega), if_neg (by omega), if_neg (by omega), if_neg (by omega), if_neg (by omega), if_neg (by omega),
    if_pos (by omega)]

theorem Operand.ofField_small (h : 0x280 ≤ n ∧ n < 0x300) :
    Operand.ofField (BitVec.ofNat 10 n) lit = .small (BitVec.ofNat 7 n) := by
  simp only [Operand.ofField, BitVec.toNat_ofNat, Nat.mod_eq_of_lt (show n < 2 ^ 10 by omega)]
  rw [if_neg (by omega), if_neg (by omega), if_neg (by omega), if_neg (by omega), if_neg (by omega), if_neg (by omega),
    if_neg (by omega), if_pos (by omega)]

end OfField

theorem ofNat_eq_of_mod {w : Nat} (n : BitVec w) (k : Nat) (h : k % 2 ^ w = n.toNat) : BitVec.ofNat w k = n :=
  BitVec.eq_of_toNat_eq (by rw [BitVec.toNat_ofNat, h])

/-- An operand is read back from its field, a literal one where the literal word holds its value. -/
theorem Operand.ofField_field (x : Operand) (lit : DWord) (h : ∀ v, x.literal = some v → lit = v) :
    Operand.ofField (BitVec.ofNat 10 x.field) lit = x := by
  cases x with
  | gpr n =>
    refine (Operand.ofField_gpr _ lit n.isLt).trans ?_
    rw [BitVec.ofNat_toNat, BitVec.setWidth_eq]
  | const n =>
    refine (Operand.ofField_const (0x100 + n.toNat) lit (by omega)).trans ?_
    rw [ofNat_eq_of_mod n _ (by omega)]
  | latch n =>
    refine (Operand.ofField_latch (0x200 + n.toNat) lit (by omega)).trans ?_
    rw [ofNat_eq_of_mod n _ (by omega)]
  | pred n =>
    refine (Operand.ofField_pred (0x208 + n.toNat) lit (by omega)).trans ?_
    rw [ofNat_eq_of_mod n _ (by omega)]
  | sreg n =>
    refine (Operand.ofField_sreg (0x240 + n.toNat) lit (by omega)).trans ?_
    rw [ofNat_eq_of_mod n _ (by omega)]
  | small n =>
    refine (Operand.ofField_small (0x280 + n.toNat) lit (by omega)).trans ?_
    rw [ofNat_eq_of_mod n _ (by omega)]
  | imm => rfl
  | litLo v => rw [h v rfl]; rfl
  | litHi v => rw [h v rfl]; rfl
  | lit v => rw [h v rfl]; rfl

theorem Operand.field_lt (x : Operand) : x.field < 2 ^ 10 := by
  cases x <;> simp only [Operand.field] <;> omega

theorem Operand.field_ok (x : Operand) : operandFieldOk (BitVec.ofNat 10 x.field) = true := by
  simp only [operandFieldOk, BitVec.toNat_ofNat, Nat.mod_eq_of_lt x.field_lt, Bool.or_eq_true, Bool.and_eq_true, decide_eq_true_eq]
  cases x <;> simp only [Operand.field] <;> omega

theorem Operand.field_lit (x : Operand) : operandFieldLit (BitVec.ofNat 10 x.field) = x.literal.isSome := by
  rw [Bool.eq_iff_iff]
  simp only [operandFieldLit, BitVec.toNat_ofNat, Nat.mod_eq_of_lt x.field_lt, Bool.and_eq_true, decide_eq_true_eq]
  cases x <;> simp [Operand.field, Operand.literal] <;> omega

/-! ### The D field (R15, R17) -/

theorem Dest.field_lt (d : Dest) : d.field < 2 ^ 9 := by
  cases d <;> simp only [Dest.field] <;> omega

section OfField
variable (n : Nat)

theorem Dest.ofField_gpr (h : n < 256) : Dest.ofField 0#1 (BitVec.ofNat 9 n) = .gpr (BitVec.ofNat 8 n) := by
  simp only [Dest.ofField, BitVec.toNat_ofNat, Nat.mod_eq_of_lt (show n < 2 ^ 9 by omega)]
  rw [if_neg (by decide), if_pos h]

theorem Dest.ofField_pred (h : 256 ≤ n ∧ n < 264) : Dest.ofField 0#1 (BitVec.ofNat 9 n) = .pred (BitVec.ofNat 3 n) := by
  simp only [Dest.ofField, BitVec.toNat_ofNat, Nat.mod_eq_of_lt (show n < 2 ^ 9 by omega)]
  rw [if_neg (by decide), if_neg (by omega), if_pos (by omega)]

theorem Dest.ofField_sreg (h : 264 ≤ n ∧ n < 328) :
    Dest.ofField 0#1 (BitVec.ofNat 9 n) = .sreg (BitVec.ofNat 6 (n - 264)) := by
  simp only [Dest.ofField, BitVec.toNat_ofNat, Nat.mod_eq_of_lt (show n < 2 ^ 9 by omega)]
  rw [if_neg (by decide), if_neg (by omega), if_neg (by omega), if_pos (by omega)]

end OfField

/-- A destination is read back from its field and the K bit. -/
theorem Dest.ofField_field (d : Dest) : Dest.ofField d.kill (BitVec.ofNat 9 d.field) = d := by
  cases d with
  | gpr n =>
    refine (Dest.ofField_gpr _ n.isLt).trans ?_
    rw [BitVec.ofNat_toNat, BitVec.setWidth_eq]
  | pred n =>
    refine (Dest.ofField_pred (256 + n.toNat) (by omega)).trans ?_
    rw [ofNat_eq_of_mod n _ (by omega)]
  | sreg n =>
    refine (Dest.ofField_sreg (264 + n.toNat) (by omega)).trans ?_
    rw [ofNat_eq_of_mod n _ (by omega)]
  | none => rfl
  | latch => rfl

theorem Dest.field_ok (d : Dest) : destFieldOk d.kill (BitVec.ofNat 9 d.field) = true := by
  cases d <;> simp [destFieldOk, Dest.field, Dest.kill] <;> omega

end Sys2Proof
end

section
namespace Sys2Proof

theorem toNat_ofNat_of_lt {w n : Nat} (h : n < 2 ^ w) : (BitVec.ofNat w n).toNat = n := by
  rw [BitVec.toNat_ofNat, Nat.mod_eq_of_lt h]

@[simp] theorem Arg9Stream.ofNat_packed (r : Arg9Stream) : Arg9Stream.ofNat (r.toNat % 8388608) = r := by
  rw [Nat.mod_eq_of_lt (by exact r.toNat_lt), Arg9Stream.ofNat_toNat]
@[simp] theorem Arg9Load.ofNat_packed (r : Arg9Load) : Arg9Load.ofNat (r.toNat % 8388608) = r := by
  rw [Nat.mod_eq_of_lt (by exact r.toNat_lt), Arg9Load.ofNat_toNat]
@[simp] theorem Arg9Read.ofNat_packed (r : Arg9Read) : Arg9Read.ofNat (r.toNat % 8388608) = r := by
  rw [Nat.mod_eq_of_lt (by exact r.toNat_lt), Arg9Read.ofNat_toNat]
@[simp] theorem Arg9Acc.ofNat_packed (r : Arg9Acc) : Arg9Acc.ofNat (r.toNat % 8388608) = r := by
  rw [Nat.mod_eq_of_lt (by exact r.toNat_lt), Arg9Acc.ofNat_toNat]
@[simp] theorem Arg8.ofNat_packed (r : Arg8) : Arg8.ofNat (r.toNat % 16777216) = r := by
  rw [Nat.mod_eq_of_lt (by exact r.toNat_lt), Arg8.ofNat_toNat]
@[simp] theorem ShflSub.ofNat_packed (r : ShflSub) : ShflSub.ofNat (r.toNat % 128) = r := by
  rw [Nat.mod_eq_of_lt (by exact r.toNat_lt), ShflSub.ofNat_toNat]
@[simp] theorem LredSub.ofNat_packed (r : LredSub) : LredSub.ofNat (r.toNat % 128) = r := by
  rw [Nat.mod_eq_of_lt (by exact r.toNat_lt), LredSub.ofNat_toNat]

def DecodesAs (mk : BitVec 24 → Opnds) (i : Instr) : Prop :=
  ∃ opc m, i.opcM = some (opc, m) ∧ opc < 0xE00 ∧ decodeOp (BitVec.ofNat 12 opc) (BitVec.ofNat 34 m) mk = some i

theorem opc_class (op c : Nat) (hop : op < 256) (hc : c < 16) :
    (BitVec.ofNat 12 (op + c * 256)).toNat / 256 = c ∧ (BitVec.ofNat 12 (op + c * 256)).toNat % 256 = op := by
  rw [toNat_ofNat_of_lt (by omega)]
  omega

section Classes
variable {i : Instr} {mk : BitVec 24 → Opnds}

theorem DecodesAs.class0 (op : Nat) (r : M0) (h : i.opcM = some (op + 0x000, r.toNat)) (hop : op < 256)
    (hd : decode0 op r mk = some i) : DecodesAs mk i := by
  obtain ⟨hc, ho⟩ := opc_class op 0x0 hop (by decide)
  have hr : (BitVec.ofNat 34 r.toNat).toNat = r.toNat := toNat_ofNat_of_lt r.toNat_lt
  exact ⟨_, _, h, by omega, by simp only [decodeOp, hc, ho, hr, M0.ofNat_toNat, hd]⟩

theorem DecodesAs.class1 (op : Nat) (r : M1) (h : i.opcM = some (op + 0x100, r.toNat)) (hop : op < 256)
    (hd : decode1 op r mk = some i) : DecodesAs mk i := by
  obtain ⟨hc, ho⟩ := opc_class op 0x1 hop (by decide)
  have hr : (BitVec.ofNat 34 r.toNat).toNat = r.toNat := toNat_ofNat_of_lt r.toNat_lt
  exact ⟨_, _, h, by omega, by simp only [decodeOp, hc, ho, hr, M1.ofNat_toNat, hd]⟩

theorem DecodesAs.class2 (op : Nat) (r : M2) (h : i.opcM = some (op + 0x200, r.toNat)) (hop : op < 256)
    (hd : decode2 op r mk = some i) : DecodesAs mk i := by
  obtain ⟨hc, ho⟩ := opc_class op 0x2 hop (by decide)
  have hr : (BitVec.ofNat 34 r.toNat).toNat = r.toNat := toNat_ofNat_of_lt r.toNat_lt
  exact ⟨_, _, h, by omega, by simp only [decodeOp, hc, ho, hr, M2.ofNat_toNat, hd]⟩

theorem DecodesAs.class3 (op : Nat) (r : M3) (h : i.opcM = some (op + 0x300, r.toNat)) (hop : op < 256)
    (hd : decode3 op r mk = some i) : DecodesAs mk i := by
  obtain ⟨hc, ho⟩ := opc_class op 0x3 hop (by decide)
  have hr : (BitVec.ofNat 34 r.toNat).toNat = r.toNat := toNat_ofNat_of_lt r.toNat_lt
  exact ⟨_, _, h, by omega, by simp only [decodeOp, hc, ho, hr, M3.ofNat_toNat, hd]⟩

theorem DecodesAs.class4 (op : Nat) (r : M4) (h : i.opcM = some (op + 0x400, r.toNat)) (hop : op < 256)
    (hd : decode4 op r mk = some i) : DecodesAs mk i := by
  obtain ⟨hc, ho⟩ := opc_class op 0x4 hop (by decide)
  have hr : (BitVec.ofNat 34 r.toNat).toNat = r.toNat := toNat_ofNat_of_lt r.toNat_lt
  exact ⟨_, _, h, by omega, by simp only [decodeOp, hc, ho, hr, M4.ofNat_toNat, hd]⟩

theorem DecodesAs.class5 (op : Nat) (r : M5) (h : i.opcM = some (op + 0x500, r.toNat)) (hop : op < 256)
    (hd : decode5 op r mk = some i) : DecodesAs mk i := by
  obtain ⟨hc, ho⟩ := opc_class op 0x5 hop (by decide)
  have hr : (BitVec.ofNat 34 r.toNat).toNat = r.toNat := toNat_ofNat_of_lt r.toNat_lt
  exact ⟨_, _, h, by omega, by simp only [decodeOp, hc, ho, hr, M5.ofNat_toNat, hd]⟩

theorem DecodesAs.class6 (op : Nat) (r : M5) (h : i.opcM = some (op + 0x600, r.toNat)) (hop : op < 256)
    (hd : decode6 op r mk = some i) : DecodesAs mk i := by
  obtain ⟨hc, ho⟩ := opc_class op 0x6 hop (by decide)
  have hr : (BitVec.ofNat 34 r.toNat).toNat = r.toNat := toNat_ofNat_of_lt r.toNat_lt
  exact ⟨_, _, h, by omega, by simp only [decodeOp, hc, ho, hr, M5.ofNat_toNat, hd]⟩

theorem DecodesAs.class7 (op : Nat) (r : M7) (h : i.opcM = some (op + 0x700, r.toNat)) (hop : op < 256)
    (hd : decode7 op r mk = some i) : DecodesAs mk i := by
  obtain ⟨hc, ho⟩ := opc_class op 0x7 hop (by decide)
  have hr : (BitVec.ofNat 34 r.toNat).toNat = r.toNat := toNat_ofNat_of_lt r.toNat_lt
  exact ⟨_, _, h, by omega, by simp only [decodeOp, hc, ho, hr, M7.ofNat_toNat, hd]⟩

theorem DecodesAs.class8 (op : Nat) (r : M8) (h : i.opcM = some (op + 0x800, r.toNat)) (hop : op < 256)
    (hd : decode8 op r mk = some i) : DecodesAs mk i := by
  obtain ⟨hc, ho⟩ := opc_class op 0x8 hop (by decide)
  have hr : (BitVec.ofNat 34 r.toNat).toNat = r.toNat := toNat_ofNat_of_lt r.toNat_lt
  exact ⟨_, _, h, by omega, by simp only [decodeOp, hc, ho, hr, M8.ofNat_toNat, hd]⟩

theorem DecodesAs.class9 (op : Nat) (r : M9) (h : i.opcM = some (op + 0x900, r.toNat)) (hop : op < 256)
    (hd : decode9 op r mk = some i) : DecodesAs mk i := by
  obtain ⟨hc, ho⟩ := opc_class op 0x9 hop (by decide)
  have hr : (BitVec.ofNat 34 r.toNat).toNat = r.toNat := toNat_ofNat_of_lt r.toNat_lt
  exact ⟨_, _, h, by omega, by simp only [decodeOp, hc, ho, hr, M9.ofNat_toNat, hd]⟩

theorem DecodesAs.classA (op : Nat) (r : MA) (h : i.opcM = some (op + 0xA00, r.toNat)) (hop : op < 256)
    (hd : decodeA op r mk = some i) : DecodesAs mk i := by
  obtain ⟨hc, ho⟩ := opc_class op 0xA hop (by decide)
  have hr : (BitVec.ofNat 34 r.toNat).toNat = r.toNat := toNat_ofNat_of_lt r.toNat_lt
  exact ⟨_, _, h, by omega, by simp only [decodeOp, hc, ho, hr, MA.ofNat_toNat, hd]⟩

theorem DecodesAs.classB (op : Nat) (r : MB) (h : i.opcM = some (op + 0xB00, r.toNat)) (hop : op < 256)
    (hd : decodeB op r mk = some i) : DecodesAs mk i := by
  obtain ⟨hc, ho⟩ := opc_class op 0xB hop (by decide)
  have hr : (BitVec.ofNat 34 r.toNat).toNat = r.toNat := toNat_ofNat_of_lt r.toNat_lt
  exact ⟨_, _, h, by omega, by simp only [decodeOp, hc, ho, hr, MB.ofNat_toNat, hd]⟩

theorem DecodesAs.classD (op : Nat) (r : MD) (h : i.opcM = some (op + 0xD00, r.toNat)) (hop : op < 256)
    (hd : decodeD op r mk = some i) : DecodesAs mk i := by
  obtain ⟨hc, ho⟩ := opc_class op 0xD hop (by decide)
  have hr : (BitVec.ofNat 34 r.toNat).toNat = r.toNat := toNat_ofNat_of_lt r.toNat_lt
  exact ⟨_, _, h, by omega, by simp only [decodeOp, hc, ho, hr, MD.ofNat_toNat, hd]⟩

theorem DecodesAs.classC (op : Nat) (m : Nat) (h : i.opcM = some (op + 0xC00, m)) (hop : op < 256)
    (hd : decodeC op (BitVec.ofNat 34 m) mk = some i) : DecodesAs mk i := by
  obtain ⟨hc, ho⟩ := opc_class op 0xC hop (by decide)
  exact ⟨_, _, h, by omega, by simp only [decodeOp, hc, ho, hd]⟩

end Classes

/-! ### Arguments packed in M -/

theorem toNat_lt_of_le {n k : Nat} (x : BitVec n) (h : 2 ^ n ≤ k) : x.toNat < k := lt_of_lt_of_le x.isLt h

theorem toNat_mod_of_le {n k : Nat} (x : BitVec n) (h : 2 ^ n ≤ k) : x.toNat % k = x.toNat :=
  Nat.mod_eq_of_lt (toNat_lt_of_le x h)

@[simp] theorem fld_toNat_self {n : Nat} (x : BitVec n) : fld x.toNat 0 n = x :=
  fld_eq _ _ _ (by simp [Nat.mod_eq_of_lt x.isLt])

@[simp] theorem beq_one_bit4 (c : Bool) : ((if c = true then 1#4 else 0#4) == 1#4) = c := by cases c <;> rfl

@[simp] theorem beq_one_bit7 (c : Bool) : ((if c = true then 1#7 else 0#7) == 1#7) = c := by cases c <;> rfl

theorem MemMod.ofM_packed (m : MemMod) :
    MemMod.ofM ⟨m.size.code, m.scope.code, m.order.code, if m.sp then 1#2 else 0#2, m.opx, m.scale, m.disp⟩ = some m := by
  obtain ⟨size, scope, order, sp, opx, scale, disp⟩ := m
  cases sp <;> simp [MemMod.ofM]

/-- The lower flags of ARG24 below a field of `len` (R212). -/
theorem Arg8.ofNat_flags (len : Nat) (b2 b1 b0 : Bool) :
    let g := Arg8.ofNat (len * 8 + (b2.toNat * 4 + (b1.toNat * 2 + b0.toNat)))
    g.b2 = b2 ∧ g.b1 = b1 ∧ g.b0 = b0 := by
  have h2 := b2.toNat_lt
  have h1 := b1.toNat_lt
  have h0 := b0.toNat_lt
  refine ⟨flag_eq _ _ _ ?_, flag_eq _ _ _ ?_, flag_eq _ _ _ ?_⟩ <;> omega

/-- The field above three flags. -/
theorem fld_above_flags {n : Nat} (len : BitVec n) (r : Nat) (hr : r < 8) : fld (len.toNat * 8 + r) 3 n = len :=
  fld_eq _ _ _ (by rw [show (len.toNat * 8 + r) / 2 ^ 3 = len.toNat by omega, Nat.mod_eq_of_lt len.isLt])

theorem Instr.decodesAs_self (o : Opnds) (i : Instr) (hm : i.modOk = true) (hi : i.immOk = true) (ho : i.opnds = some o) :
    DecodesAs (fun imm => { o with imm := imm }) i := by
  have himm20 : i.immUse = .imm20 → (o.imm.setWidth 20).setWidth 24 = o.imm := by
    intro h
    simp only [Instr.immOk, h, ho, Bool.and_eq_true, decide_eq_true_eq] at hi
    apply BitVec.eq_of_toNat_eq
    simp
    omega
  have habs : i.immUse = .absent → { o with imm := 0#24 } = o := by
    intro h
    simp only [Instr.immOk, h, ho, beq_iff_eq] at hi
    rw [← hi]
  cases i
  case iadd | isub | iaddc | isubb | imul | imulh | imad | idiv | irem | iabs | ineg | imin | imax | icmp | land | lor
      | lxor | landn | lnot | shl | shr | sar | rotl | popc | clz | ctz | brev | bfx | bfi | lea | idot4 =>
    cases ho
    exact .class0 _ _ rfl (by decide) (by simp [decode0, need])
  case fadd | fsub | fmul | ffma | fmin | fmax | fabs | fneg | fcmp | fclass | frnd | fscale | fdiv | fsqrt | fdot2 =>
    cases ho
    exact .class1 _ _ rfl (by decide) (by simp [decode1, need, -BitVec.setWidth_setWidth, himm20 rfl])
  case cvt | packt | unpackt | frcp | frsq | fexp2 | flog2 | fsinpi | fcospi | ftanh | fsigm | sacc =>
    cases ho
    exact .class2 _ _ rfl (by decide) (by simp [decode2, -BitVec.setWidth_setWidth, himm20 rfl])
  case movi w n _ =>
    cases ho
    have hn : n.toNat < 3 := by cases w <;> simp [Instr.modOk] at hm <;> omega
    exact .class3 _ _ rfl (by decide) (by simp [decode3, need, toNat_mod_of_le, hn])
  case mov | sel | plop | pmovGet | pmovSet | sread | swrite =>
    cases ho
    exact .class3 _ _ rfl (by decide) (by simp [decode3, need])
  case bra | brx | brxEntry | call | callx | ret | exit | loop | lbrk | trap | yield | conv | nop =>
    cases ho
    exact .class4 _ _ rfl (by decide) (by simp [decode4, need])
  case ld | st | ldk | pref | drain | discard | clean | inval =>
    cases ho
    exact .class5 _ _ rfl (by decide) (by simp [decode5, MemMod.ofM_packed, habs rfl])
  case atom op m _ =>
    cases ho
    have hop : AtomOp.ofCode m.opx = some op := by simp [Instr.modOk] at hm; simp [hm.2]
    exact .class6 _ _ rfl (by decide) (by simp [decode6, MemMod.ofM_packed, habs rfl, hop])
  case cas | fence | acqr =>
    cases ho
    exact .class6 _ _ rfl (by decide) (by simp [decode6, MemMod.ofM_packed, habs rfl])
  case barinit | bararv | barwait | barsync | barstat | barstatClr | barstatX | barinv | shfl | lred | vote | spawn
      | spawnW =>
    cases ho
    exact .class7 _ _ rfl (by decide) (by simp [decode7, need, toNat_mod_of_le, toNat_lt_of_le, habs rfl])
  case cp | cptLd | cptSt | shchk =>
    cases ho
    exact .class8 _ _ rfl (by decide) (by simp [decode8, need, arg8, ArvMod.absent, habs rfl])
  case cpg dir len _ =>
    cases ho
    obtain ⟨h2, h1, h0⟩ := Arg8.ofNat_flags len.toNat dir.na dir.dsp dir.ssp
    have hr : dir.na.toNat * 4 + (dir.dsp.toNat * 2 + dir.ssp.toNat) < 8 := by
      have := dir.na.toNat_lt; have := dir.dsp.toNat_lt; have := dir.ssp.toNat_lt; omega
    have hlt : len.toNat * 8 + (dir.na.toNat * 4 + (dir.dsp.toNat * 2 + dir.ssp.toNat)) < 16777216 := by
      omega
    exact .class8 _ _ rfl (by decide)
      (by simp [decode8, need, ArvMod.absent, habs rfl, Nat.mod_eq_of_lt hlt, fld_above_flags len _ hr, h2, h1, h0])
  case cpfill dsp na sz v _ =>
    cases ho
    refine .class8 _ _ rfl (by decide) ?_
    cases dsp <;> cases na <;> cases sz <;> simp [decode8, need, habs rfl, FillSize.code, FillSize.ofCode, Arg8.ofNat, fld, flag]
  case mload | mswap | mstream | mgather | mread | mzero | maccld =>
    cases ho
    exact .class9 _ _ rfl (by decide) (by simp [decode9, need, habs rfl])
  case scdesc sp _ =>
    cases ho
    exact .classA _ _ rfl (by decide) (by cases sp <;> simp [decodeA, need, flag, habs rfl])
  case scanc l n w bar _ =>
    cases ho
    exact .classA _ _ rfl (by decide)
      (by cases l <;> cases n <;> cases w <;> simp [decodeA, need, flag, habs rfl])
  case scan | chopen | chclose | chbar | chsend | chrecv =>
    cases ho
    exact .classA _ _ rfl (by decide) (by simp [decodeA, need, toNat_mod_of_le, toNat_lt_of_le, habs rfl])
  case shipW | shipT | lcret | fspawn | frefa | frefaOut | frefaIn | frefd | frefdOut | fwait | fpoll | fset | rpoint =>
    cases ho
    exact .classB _ _ rfl (by decide) (by simp [decodeB, need, toNat_mod_of_le, toNat_lt_of_le, habs rfl])
  case tret | tretFatal | freplay | freplayAll | fcancel | fcancelAll | tlbinv | tlbinvAll | tlbinvRoot | wsopen | wsclose
      | ctxsave | ctxload | halt | haltResume =>
    cases ho
    exact .classC _ _ rfl (by decide) (by simp [decodeC, need, habs rfl])
  case mcast w _ =>
    cases ho
    exact .classD _ _ rfl (by decide) (by cases w <;> simp [decodeD, need, flag, habs rfl])
  case red | rgrp | rgrpMc | rgrpFree =>
    cases ho
    exact .classD _ _ rfl (by decide) (by simp [decodeD, need, toNat_mod_of_le, toNat_lt_of_le, habs rfl])
  all_goals cases ho
end Sys2Proof
end

section
namespace Sys2Proof

theorem Opnds.literal_eq_of_agree (o : Opnds) (h : o.literalsAgree = true) (x : Operand) (hx : x = o.a ∨ x = o.b ∨ x = o.c)
    (v : DWord) (hv : x.literal = some v) : o.literal = some v := by
  unfold Opnds.literalsAgree at h
  unfold Opnds.literal at h ⊢
  rcases hx with rfl | rfl | rfl <;> cases ha : o.a.literal <;> cases hb : o.b.literal <;> simp_all

theorem Opnds.literal_isSome (o : Opnds) :
    o.literal.isSome = (o.a.literal.isSome || o.b.literal.isSome || o.c.literal.isSome) := by
  unfold Opnds.literal
  cases o.a.literal <;> cases o.b.literal <;> simp

/-! ### The checks of R33 on a word below the two that are not instructions -/

section Checks
variable {ctx : DecodeCtx} {w : BitVec 96} {next : Option DWord}

theorem opc_ne_of_lt (h : (Fields.ofNat w.toNat).opc.toNat < 0xFFE) (k : BitVec 12) (hk : 0xFFE ≤ k.toNat) :
    (Fields.ofNat w.toNat).opc ≠ k := fun he => by rw [he] at h; omega

theorem decode_bad (h : (Fields.ofNat w.toNat).opc.toNat < 0xFFE) {c : Code}
    (hf : decodeFields ctx (Fields.ofNat w.toNat) (next.getD 0#64) = .bad c) : decode ctx w next = .bad c := by
  simp only [decode, hf]
  rw [if_neg (opc_ne_of_lt h _ (by decide)), if_neg (opc_ne_of_lt h _ (by decide))]

theorem decode_ok (h : (Fields.ofNat w.toNat).opc.toNat < 0xFFE) {d : Decoded}
    (hf : decodeFields ctx (Fields.ofNat w.toNat) (next.getD 0#64) = .ok d)
    (hl : (Fields.ofNat w.toNat).readsLiteral = true → next.isSome = true) : decode ctx w next = .ok d := by
  simp only [decode, hf]
  rw [if_neg (opc_ne_of_lt h _ (by decide)), if_neg (opc_ne_of_lt h _ (by decide)), if_neg]
  cases next <;> simp_all

end Checks

theorem Fields.ofNat_packed (f : Fields) : Fields.ofNat (BitVec.ofNat 96 f.toNat).toNat = f := by
  rw [toNat_ofNat_of_lt f.toNat_lt, Fields.ofNat_toNat]

/-- The fields of an instruction's word. -/
def wordFields (g : BitVec 4) (h : BitVec 6) (o : Opnds) (opc m : Nat) : Fields :=
  ⟨BitVec.ofNat 12 opc, g, h, o.d.kill, BitVec.ofNat 9 o.d.field, BitVec.ofNat 10 o.a.field, BitVec.ofNat 10 o.b.field,
    BitVec.ofNat 10 o.c.field, BitVec.ofNat 34 m⟩

theorem encode_word (g : BitVec 4) (h : BitVec 6) (i : Instr) (o : Opnds) (opc m : Nat) (ho : i.opnds = some o)
    (hc : i.opcM = some (opc, m)) : encode ⟨g, h, i⟩ = some (BitVec.ofNat 96 (wordFields g h o opc m).toNat) := by
  unfold encode
  split
  · next e => obtain rfl : i = _ := e; cases ho
  · next e => obtain rfl : i = _ := e; cases ho
  · simp only [Decoded.fields, hc, ho, wordFields]

theorem decodeFields_word (g : BitVec 4) (h : BitVec 6) (i : Instr) (o : Opnds) (opc m : Nat) (lit : DWord)
    (hw : WellFormed i) (hh : h.getLsbD 0 = false)
    (hd : decodeOp (BitVec.ofNat 12 opc) (BitVec.ofNat 34 m) (fun imm => { o with imm := imm }) = some i)
    (hl : ∀ x, x = o.a ∨ x = o.b ∨ x = o.c → ∀ v, x.literal = some v → lit = v) :
    decodeFields DecodeCtx.top (wordFields g h o opc m) lit = .ok ⟨g, h, i⟩ := by
  simp only [WellFormed, Instr.wf, Bool.and_eq_true] at hw
  obtain ⟨⟨⟨⟨hmod, himm⟩, hops⟩, hregs⟩, -⟩ := hw
  have hmk : decodeModifiers (wordFields g h o opc m) lit = some i := by
    simp only [decodeModifiers, wordFields, Dest.ofField_field, Operand.ofField_field _ _ (hl o.a (.inl rfl)),
      Operand.ofField_field _ _ (hl o.b (.inr (.inl rfl))), Operand.ofField_field _ _ (hl o.c (.inr (.inr rfl))), hd, need,
      hh, hmod, himm]
    rfl
  simp only [decodeFields, hmk, DecodeCtx.top]
  simp [wordFields, Operand.field_ok, Dest.field_ok, hops, hregs]

theorem wordFields_readsLiteral (g : BitVec 4) (h : BitVec 6) (o : Opnds) (opc m : Nat) :
    (wordFields g h o opc m).readsLiteral = o.literal.isSome := by
  simp only [Fields.readsLiteral, wordFields, Operand.field_lit, Opnds.literal_isSome]

theorem decode_encode_word (i : Instr) (g : BitVec 4) (h : BitVec 6) (hw : WellFormed i) (hi : i.opnds.isSome = true)
    (hh : h.getLsbD 0 = false) :
    ∃ w, encode ⟨g, h, i⟩ = some w ∧ decode DecodeCtx.top w i.literal = .ok ⟨g, h, i⟩ := by
  obtain ⟨o, ho⟩ := Option.isSome_iff_exists.mp hi
  have hwf := hw
  simp only [WellFormed, Instr.wf, Bool.and_eq_true, ho] at hwf
  obtain ⟨⟨⟨⟨hmod, himm⟩, -⟩, -⟩, hagree⟩ := hwf
  obtain ⟨opc, m, hc, hlt, hd⟩ := Instr.decodesAs_self o i hmod himm ho
  refine ⟨_, encode_word g h i o opc m ho hc, ?_⟩
  have hlit : i.literal = o.literal := by simp only [Instr.literal, ho]
  have hopc : (wordFields g h o opc m).opc.toNat < 0xFFE := by
    change (BitVec.ofNat 12 opc).toNat < _
    rw [toNat_ofNat_of_lt (by omega)]
    omega
  have hf := decodeFields_word g h i o opc m (o.literal.getD 0#64) hw hh hd
    (fun x hx v hv => by rw [o.literal_eq_of_agree hagree x hx v hv]; rfl)
  rw [← Fields.ofNat_packed (wordFields g h o opc m)] at hopc
  exact decode_ok hopc (by rw [Fields.ofNat_packed, hlit, hf])
    (by rw [Fields.ofNat_packed, hlit, wordFields_readsLiteral]; exact id)

theorem decode_entryWord (x : BitVec 84) (ctx : DecodeCtx) (next : Option DWord) :
    ∃ w, encode ⟨guardAlways, 0#6, .entryWordNop x⟩ = some w ∧
      decode ctx w next = .ok ⟨guardAlways, 0#6, .entryWordNop x⟩ := by
  refine ⟨_, rfl, ?_⟩
  have hx := x.isLt
  have hn : (BitVec.ofNat 96 (0xFFE * 2 ^ 84 + x.toNat)).toNat = 0xFFE * 2 ^ 84 + x.toNat := toNat_ofNat_of_lt (by omega)
  have hopc : (Fields.ofNat (0xFFE * 2 ^ 84 + x.toNat)).opc = 0xFFE#12 := fld_eq _ _ _ (by simp; omega)
  simp only [decode, hn, hopc]
  rw [if_neg (by decide), if_pos trivial, ofNat_eq_of_mod x _ (by omega)]

theorem decode_literalWord (x : BitVec 84) (ctx : DecodeCtx) (next : Option DWord) :
    ∃ w, encode ⟨guardAlways, 0#6, .literalWordReached x⟩ = some w ∧
      decode ctx w next = .ok ⟨guardAlways, 0#6, .literalWordReached x⟩ := by
  refine ⟨_, rfl, ?_⟩
  have hx := x.isLt
  have hn : (BitVec.ofNat 96 (0xFFF * 2 ^ 84 + x.toNat)).toNat = 0xFFF * 2 ^ 84 + x.toNat := toNat_ofNat_of_lt (by omega)
  have hopc : (Fields.ofNat (0xFFF * 2 ^ 84 + x.toNat)).opc = 0xFFF#12 := fld_eq _ _ _ (by simp; omega)
  simp only [decode, hn, hopc]
  rw [if_pos trivial, ofNat_eq_of_mod x _ (by omega)]

/-- Settles O55: the decoder is run on the packed fields of the word; each field reads back what the encoder packed. -/
theorem encodeDecodeRoundTrip : Obligations.EncodeDecodeRoundTrip :=
  ⟨fun i g h hw hi hh => decode_encode_word i g h hw hi hh,
    fun x ctx next => ⟨decode_entryWord x ctx next, decode_literalWord x ctx next⟩⟩

end Sys2Proof
end

section
namespace Sys2Proof

/-! ### Writing a thread twice -/

theorem AMap.set_set {α : Type} (m : AMap α) (k : Nat) (v w : α) : AMap.set (AMap.set m k v) k w = AMap.set m k w := by
  induction m with
  | nil => simp [AMap.set]
  | cons c m ih =>
    obtain ⟨k', v'⟩ := c
    by_cases hlt : k < k'
    · simp [AMap.set, hlt]
    · by_cases heq : k = k'
      · subst heq; simp [AMap.set]
      · simp [AMap.set, hlt, heq, ih]

end Sys2Proof

namespace Sys2Proof.Machine

@[simp] theorem State.setThread_setThread (s : State) (k : Nat) (x y : Thread) :
    (s.setThread k x).setThread k y = s.setThread k y := by
  simp [State.setThread, AMap.set_set]

@[simp] theorem State.thread_setThread_self (s : State) (k : Nat) (x : Thread) : (s.setThread k x).thread? k = some x := by
  rw [State.thread_setThread, if_pos rfl]

theorem State.modThread_eq {s : State} {k : Nat} {th : Thread} (h : s.thread? k = some th) (f : Thread → Thread) :
    s.modThread k f = s.setThread k (f th) := by
  simp only [State.modThread, h]

theorem State.groupOf_setThread {s : State} {k : Nat} {th x : Thread} (h : s.thread? k = some th) (hg : x.group = th.group) :
    (s.setThread k x).groupOf k = s.groupOf k := by
  simp only [State.groupOf, State.thread_setThread_self, h, hg]
  rfl

theorem State.taskReclaimed_setThread {s : State} {k : Nat} {th x : Thread} (h : s.thread? k = some th)
    (hg : x.group = th.group) : (s.setThread k x).taskReclaimed k = s.taskReclaimed k := by
  unfold State.taskReclaimed
  rw [State.groupOf_setThread h hg]
  rfl

/-! ### What an update of a thread leaves -/

theorem Thread.setRegs_frame (th : Thread) (r : Nat) (ws : List Word) :
    th.setRegs r ws = { th with regs := (th.setRegs r ws).regs } := by
  induction ws generalizing th r with
  | nil => rfl
  | cons w ws ih =>
    simp only [Thread.setRegs]
    split
    · rw [ih, Thread.setReg_frame]
    · rfl

theorem Thread.setPred_frame (th : Thread) (n : Nat) (b : Bool) :
    th.setPred n b = { th with preds := (th.setPred n b).preds } := by
  unfold Thread.setPred
  split <;> rfl

theorem Claims.written_frame (d : Dest) (n : Nat) (v : QWord) (th : Thread) :
    Claims.written d n v th =
      { th with regs := (Claims.written d n v th).regs, preds := (Claims.written d n v th).preds } := by
  cases d with
  | gpr r =>
    simp only [Claims.written]
    rw [Thread.setRegs_frame]
  | pred p =>
    simp only [Claims.written]
    rw [Thread.setPred_frame]
  | sreg | none | latch => rfl

/-- The loop-back check changes the loop stack alone (R128). -/
theorem Thread.loopBack_frame (n : Nat) (th : Thread) :
    (th.loopBack n).2 = { th with loop := (th.loopBack n).2.loop, depth := (th.loopBack n).2.depth } := by
  induction n generalizing th with
  | zero => rfl
  | succ n ih =>
    simp only [Thread.loopBack]
    split
    · rfl
    · split
      · rfl
      · split
        · rfl
        · rw [ih]

theorem Claims.passed_frame (len : Nat) (th : Thread) :
    Claims.passed len th = { th with
      pc := (Claims.passed len th).pc, loop := (Claims.passed len th).loop, depth := (Claims.passed len th).depth } := by
  have h := th.loopBack_frame 4
  simp only [Claims.passed]
  generalize th.loopBack 4 = b at h
  obtain ⟨start, th'⟩ := b
  dsimp only at h
  cases start <;> rw [h]

/-- Outside every loop a word only moves the pc. -/
theorem Claims.passed_of_depth {th : Thread} (h : th.depth = 0) (len : Nat) :
    Claims.passed len th = { th with pc := th.pc + BitVec.ofNat 64 len } := by
  simp only [Claims.passed, Thread.loopBack_empty th h]

/-! ### Completing a word -/

/-- A thread whose task goes on completes a word as `passed` says (R128). -/
theorem State.advance_eq {s : State} {k : Nat} {th : Thread} (h : s.thread? k = some th) (hr : s.taskReclaimed k = false)
    (len : Nat) : s.advance k len = s.setThread k (Claims.passed len th) := by
  obtain ⟨⟨start, x⟩, hb⟩ : ∃ b, th.loopBack 4 = b := ⟨_, rfl⟩
  cases start <;> simp only [State.advance, h, hr, Claims.passed, hb, Bool.false_eq_true, if_false]

theorem State.advance_setThread {s : State} {k : Nat} {th : Thread} (x : Thread) (h : s.thread? k = some th)
    (hr : s.taskReclaimed k = false) (len : Nat) (hg : x.group = th.group) :
    (s.setThread k x).advance k len = s.setThread k (Claims.passed len x) := by
  rw [State.advance_eq (State.thread_setThread_self ..) (by rw [State.taskReclaimed_setThread h hg, hr]),
    State.setThread_setThread]

theorem State.putDest_plain {s : State} {k : Nat} {th : Thread} (h : s.thread? k = some th) (d : Dest) (n : Nat) (v : QWord)
    (hd : Claims.Dest.plain d = true) :
    (s.putDest k d n v).modThread k (fun x => x.push (pushValue d n v)) =
      s.setThread k ((Claims.written d n v th).push (pushValue d n v)) := by
  cases d with
  | gpr r => simp only [State.putDest, State.modThread_eq h, State.modThread_eq (State.thread_setThread_self ..),
      State.setThread_setThread, Claims.written]
  | pred p => simp only [State.putDest, State.modThread_eq h, State.modThread_eq (State.thread_setThread_self ..),
      State.setThread_setThread, Claims.written]
  | sreg j => cases hd
  | none | latch => exact State.modThread_eq h _

theorem destRefuses_plain (d : Dest) (v : QWord) (hd : Claims.Dest.plain d = true) : destRefuses d v = false := by
  cases d with
  | sreg j => cases hd
  | gpr | pred | none | latch => rfl

/-- Settles O7: D and the latches are written in the thread alone, then the word is passed. -/
theorem resultPlacement : Obligations.ResultPlacement := by
  intro s0 s k th o n v h hr hd
  have hg : ((Claims.written o.d n v th).push (pushValue o.d n v)).group = th.group := by
    rw [Claims.written_frame]; rfl
  rw [State.retire, destRefuses_plain _ _ hd, if_neg Bool.false_ne_true, State.putDest_plain h _ _ _ hd,
    State.advance_setThread _ h hr _ hg, Thread.push, Claims.written_frame]

end Sys2Proof.Machine
end

section
namespace Sys2Proof.Machine

/-! ### A special register as a destination (R32, R52, R55, R70) -/

/-- The thread's special registers after a value `w` written to number `j`. -/
def Thread.withSreg (th : Thread) (j : BitVec 6) (w : Word) : Thread :=
  { th with
    cbank := if j = 11#6 then w.setWidth 4 else th.cbank
    seed := if j = 12#6 then (if w = 0#32 then 1#32 else w) else th.seed
    ctxbase := if j = 32#6 then th.ctxbase.extractLsb' 32 32 ++ w
      else if j = 33#6 then w ++ th.ctxbase.extractLsb' 0 32 else th.ctxbase
    sup := if j = 40#6 then th.sup && w.getLsbD 0 else th.sup }

theorem bv6_eq {j : BitVec 6} {n : Nat} (h : j.toNat = n) (hn : n < 64) : j = BitVec.ofNat 6 n :=
  BitVec.eq_of_toNat_eq (by rw [h, toNat_ofNat_of_lt hn])

theorem bv6_ne {j : BitVec 6} {n : Nat} (h : j.toNat = n → False) (hn : n < 64) : j ≠ BitVec.ofNat 6 n :=
  fun e => h (by rw [e, toNat_ofNat_of_lt hn])

theorem State.writeSreg_modThread {s : State} {k : Nat} {th : Thread} (h : s.thread? k = some th) (j : BitVec 6)
    (hj : j.toNat < 48) (w : Word) (f : Thread → Thread) :
    (s.writeSreg k j.toNat w).modThread k f = s.setThread k (f (th.withSreg j w)) := by
  have self := State.thread_setThread_self s k
  unfold State.writeSreg Thread.withSreg
  split
  case h_1 e | h_2 e | h_5 e => simp [bv6_eq e, State.modThread_eq h, State.modThread_eq (self _)]
  case h_3 e | h_4 e =>
    simp [bv6_eq e, State.modThread_eq h, State.modThread_eq (self _), setHalf, ← BitVec.setWidth_eq_extractLsb']
  case h_18 h11 h12 h32 h33 h40 _ _ _ _ _ _ _ _ _ _ _ _ =>
    simp [State.modThread_eq h, bv6_ne h11, bv6_ne h12, bv6_ne h32, bv6_ne h33, bv6_ne h40]
  all_goals omega

/-- What the registers below the counters' selectors refuse, as numbers. -/
theorem sregRefuses_of_lt (j : BitVec 6) (w : Word) (hj : j.toNat < 56) :
    sregRefuses j.toNat w = ((j == 32#6 && w.toNat % 64 != 0) || (j == 33#6 && decide (2 ^ 23 ≤ w.toNat)) ||
      (j == 40#6 && decide (2 ≤ w.toNat)) || (j == 11#6 && decide (16 ≤ w.toNat))) := by
  have := w.isLt
  unfold sregRefuses
  split
  case h_2 e =>
    rw [bv6_eq e (by decide), Bool.eq_iff_iff]
    simp [BitVec.toNat_eq]
  case h_1 e | h_3 e | h_4 e =>
    rw [bv6_eq e (by decide), Bool.eq_iff_iff]
    simp [BitVec.toNat_eq]
    omega
  case h_9 h11 h32 h33 h40 _ _ _ _ =>
    simp [bv6_ne h11, bv6_ne h32, bv6_ne h33, bv6_ne h40]
  all_goals omega

/-- Settles O8: a refused value is the ILLEGAL_OPERAND trap of the state before; another one is written to the thread. -/
theorem specialRegisterDestination : Obligations.SpecialRegisterDestination := by
  intro s0 s k th o j v h hr hd w bad
  have hrefuse : j.toNat < 56 → destRefuses o.d v = bad := fun hj => by
    rw [hd]; exact sregRefuses_of_lt j w hj
  refine ⟨fun hb => ?_, fun hb hj => ⟨th.withSreg j w, ?_, rfl⟩⟩
  · have hj : j.toNat < 56 := by
      by_contra hj
      have ne : ∀ n, n < 56 → j ≠ BitVec.ofNat 6 n := fun n hn => bv6_ne (by omega) (by omega)
      simp [bad, ne 32 (by decide), ne 33 (by decide), ne 40 (by decide), ne 11 (by decide)] at hb
    rw [State.retire, hrefuse hj, if_pos hb]
  · have hp : s.putDest k o.d 1 v = s.writeSreg k j.toNat w := by rw [hd]; rfl
    rw [State.retire, hrefuse (by omega), hb, if_neg Bool.false_ne_true, hp, State.writeSreg_modThread h j hj,
      State.advance_setThread ((th.withSreg j w).push _) h hr _ rfl, hd]
    rfl

end Sys2Proof.Machine
end

section
namespace Sys2Proof.Machine

/-! ### Registers and predicates (R16, R49, R50) -/

theorem Thread.reg_of_le (th : Thread) {m : Nat} (h : 240 ≤ m) : th.reg m = 0#32 := by
  unfold Thread.reg; rw [if_neg (by omega)]

theorem Thread.pair_eq (th : Thread) (n : Nat) : th.pair n = th.reg (n + 1) ++ th.reg n := by
  unfold Thread.pair
  split
  · rfl
  · rw [th.reg_of_le (by omega), th.reg_of_le (by omega)]; rfl

theorem Thread.setRegs_wf (th : Thread) (r : Nat) (ws : List Word) (h : cellsWf th.regs 0#32 = true) :
    cellsWf (th.setRegs r ws).regs 0#32 = true := by
  induction ws generalizing th r with
  | nil => exact h
  | cons w ws ih =>
    unfold Thread.setRegs
    split
    · exact ih _ _ (th.setReg_wf r w h)
    · exact h

/-- A register after consecutive ones were written. -/
theorem Thread.reg_setRegs (th : Thread) (r m : Nat) (ws : List Word) (h : cellsWf th.regs 0#32 = true) :
    (th.setRegs r ws).reg m =
      if r ≤ m ∧ m < r + ws.length ∧ m < 240 then (ws[m - r]?).getD 0#32 else th.reg m := by
  induction ws generalizing th r with
  | nil => rw [if_neg (by simp only [List.length_nil]; omega)]; rfl
  | cons w ws ih =>
    unfold Thread.setRegs
    split
    · rw [ih _ _ (th.setReg_wf r w h), th.reg_setReg r m w h]
      rcases Nat.lt_trichotomy m r with hm | rfl | hm
      · rw [if_neg (by omega), if_neg (by omega), if_neg (by omega)]
      · rw [if_neg (by omega), if_pos ⟨rfl, by omega⟩, if_pos (by simp; omega)]; simp
      · obtain ⟨d, rfl⟩ : ∃ d, m = r + 1 + d := ⟨m - (r + 1), by omega⟩
        have hd : r + 1 + d - r = d + 1 := by omega
        simp only [List.length_cons, hd, Nat.add_sub_cancel_left, List.getElem?_cons_succ]
        by_cases hin : d < ws.length ∧ r + 1 + d < 240
        · rw [if_pos (by omega), if_pos (by omega)]
        · rw [if_neg (by omega), if_neg (by omega), if_neg (by omega)]
    · rw [if_neg (by omega)]

/-- A predicate after a write, numbers above 7 included. -/
theorem Thread.pred_setPred_nat (th : Thread) (n m : Nat) (b : Bool) :
    (th.setPred n b).pred m = if m < 7 then (if m = n then b else th.pred m) else true := by
  by_cases hm : m < 7
  · rw [if_pos hm]
    by_cases hn : n < 7
    · have := th.pred_setPred _ ⟨n, by omega⟩ ⟨m, by omega⟩ b rfl
      simpa [hn] using this
    · rw [if_neg (by omega), Thread.setPred, if_neg hn]
  · rw [if_neg hm, Thread.pred, if_neg hm]

/-! ### What an operand field reads (R18, R20, R54) -/

theorem State.read_eq {s : State} {k : Nat} {th : Thread} (h : s.thread? k = some th) (w64 sg : Bool) (imm : DWord)
    (o : Operand) : s.read k w64 sg imm o = (s.operand k th w64 sg imm o, s.afterRead k o) := by
  simp only [State.read, h]

section FieldValue
variable (s : State) (k : Nat) (th : Thread) (w64 signed : Bool) (imm lit : DWord)

/-- A small integer's seven bits, sign-extended. -/
theorem small_signExtend (x : Nat) (h : 0x280 ≤ x ∧ x < 0x300) :
    (BitVec.ofNat 7 x).signExtend 64 =
      if x < 0x2C0 then BitVec.ofNat 64 (x - 0x280) else BitVec.ofInt 64 ((x : Int) - 0x300) := by
  have hn : (BitVec.ofNat 7 x).toNat = x - 0x280 := by rw [BitVec.toNat_ofNat]; omega
  rw [BitVec.signExtend, BitVec.toInt_eq_toNat_cond, hn]
  by_cases hx : x < 0x2C0
  · rw [if_pos (by omega), if_pos hx]
    exact BitVec.ofInt_natCast ..
  · rw [if_neg (by omega), if_neg hx, show ((x - 0x280 : Nat) : Int) - (2 ^ 7 : Nat) = (x : Int) - 0x300 by omega]

theorem State.operand_ofField (x : Nat) (hok : operandFieldOk (BitVec.ofNat 10 x) = true) (hx : x < 1024) :
    s.operand k th w64 signed imm (Operand.ofField (BitVec.ofNat 10 x) lit) =
      Claims.fieldValue s k th w64 signed imm lit x := by
  simp only [operandFieldOk, BitVec.toNat_ofNat, Nat.mod_eq_of_lt (show x < 2 ^ 10 by omega), Bool.or_eq_true,
    Bool.and_eq_true, decide_eq_true_eq] at hok
  unfold Claims.fieldValue
  by_cases h0 : x < 0x100
  · have hn : (BitVec.ofNat 8 x).toNat = x := toNat_ofNat_of_lt h0
    rw [Operand.ofField_gpr x lit h0, if_pos h0]
    simp only [State.operand, hn, Thread.pair_eq]
  rw [if_neg h0]
  by_cases h1 : x < 0x200
  · have hn : (BitVec.ofNat 8 x).toNat = x - 0x100 := by rw [BitVec.toNat_ofNat]; omega
    rw [Operand.ofField_const x lit ⟨by omega, h1⟩, if_pos h1]
    simp only [State.operand, hn]
  rw [if_neg h1]
  by_cases h2 : x < 0x204
  · obtain rfl | rfl | rfl | rfl : x = 0x200 ∨ x = 0x201 ∨ x = 0x202 ∨ x = 0x203 := by omega
    all_goals rfl
  rw [if_neg (by omega), if_neg (by omega), if_neg (by omega), if_neg (by omega)]
  by_cases h3 : x < 0x210
  · have hn : (BitVec.ofNat 3 x).toNat = x - 0x208 := by rw [BitVec.toNat_ofNat]; omega
    rw [Operand.ofField_pred x lit ⟨by omega, h3⟩, if_pos h3]
    simp only [State.operand, hn]
  rw [if_neg h3]
  by_cases h4 : x < 0x280
  · have hn : (BitVec.ofNat 6 x).toNat = x - 0x240 := by rw [BitVec.toNat_ofNat]; omega
    rw [Operand.ofField_sreg x lit ⟨by omega, h4⟩, if_pos h4]
    simp only [State.operand, hn, extend32]
  rw [if_neg h4]
  by_cases h5 : x < 0x300
  · rw [Operand.ofField_small x lit ⟨by omega, h5⟩]
    simp only [State.operand, small_signExtend x ⟨by omega, h5⟩, h5, if_true]
  obtain rfl | rfl | rfl | rfl : x = 0x300 ∨ x = 0x301 ∨ x = 0x302 ∨ x = 0x303 := by omega
  · rfl
  · have hl : lit.extractLsb' 0 32 = lit.setWidth 32 := by rw [BitVec.setWidth_eq_extractLsb' (by decide)]
    rw [hl]; rfl
  · rfl
  · rfl

end FieldValue

/-- A read changes nothing but CLOCKLO's, which loads the clock shadow. -/
theorem State.afterRead_ofField {s : State} {k : Nat} {th : Thread} (h : s.thread? k = some th) (lit : DWord) (x : Nat)
    (hok : operandFieldOk (BitVec.ofNat 10 x) = true) (hx : x < 1024) :
    s.afterRead k (Operand.ofField (BitVec.ofNat 10 x) lit) =
      if x = 0x24E then s.setThread k { th with shadow := s.timebase.extractLsb' 32 32 } else s := by
  simp only [operandFieldOk, BitVec.toNat_ofNat, Nat.mod_eq_of_lt (show x < 2 ^ 10 by omega), Bool.or_eq_true,
    Bool.and_eq_true, decide_eq_true_eq] at hok
  by_cases hs : 0x240 ≤ x ∧ x < 0x280
  · have hn : (BitVec.ofNat 6 x).toNat = x - 0x240 := by rw [BitVec.toNat_ofNat]; omega
    rw [Operand.ofField_sreg x lit hs]
    simp only [State.afterRead, State.readShadow, hn, State.modThread_eq h]
    by_cases hc : x = 0x24E
    · subst hc; rfl
    · rw [if_neg hc, if_neg (by omega)]
  rw [if_neg (by omega)]
  obtain h0 | h1 | h2 | h3 | h5 | h6 : x < 0x100 ∨ (0x100 ≤ x ∧ x < 0x200) ∨ (0x200 ≤ x ∧ x < 0x204) ∨
      (0x208 ≤ x ∧ x < 0x210) ∨ (0x280 ≤ x ∧ x < 0x300) ∨ (0x300 ≤ x ∧ x < 0x304) := by omega
  · rw [Operand.ofField_gpr x lit h0]; rfl
  · rw [Operand.ofField_const x lit h1]; rfl
  · rw [Operand.ofField_latch x lit h2]; rfl
  · rw [Operand.ofField_pred x lit h3]; rfl
  · rw [Operand.ofField_small x lit h5]; rfl
  · obtain rfl | rfl | rfl | rfl : x = 0x300 ∨ x = 0x301 ∨ x = 0x302 ∨ x = 0x303 := by omega
    all_goals rfl

/-! ### What the special registers hold (R53, R55) -/

theorem setWidth_eq_ofNat_mod {n : Nat} (x : BitVec n) : x.setWidth 32 = BitVec.ofNat 32 (x.toNat % 2 ^ 32) :=
  BitVec.eq_of_toNat_eq (by simp)

theorem setWidth_eq_ofNat {n : Nat} (x : BitVec n) : x.setWidth 32 = BitVec.ofNat 32 x.toNat :=
  BitVec.eq_of_toNat_eq (by simp)

theorem extractHi_eq_ofNat (x : DWord) : x.extractLsb' 32 32 = BitVec.ofNat 32 (x.toNat / 2 ^ 32) :=
  BitVec.eq_of_toNat_eq (by rw [BitVec.extractLsb'_toNat, Nat.shiftRight_eq_div_pow, BitVec.toNat_ofNat])

theorem eq_ofNat_toNat {n : Nat} (x : BitVec n) : x = BitVec.ofNat n x.toNat := by rw [BitVec.ofNat_toNat, BitVec.setWidth_eq]

theorem State.sreg_own (s : State) (k : Nat) (th : Thread) :
    let core := coreOfThread k
    (∀ p ∈ [(0, th.tid), (1, th.tid % 32), (2, th.tid / 32 % 4), (7, clusterOfCore core % 64), (8, dieOfCore core),
        (9, s.device.toNat), (10, 32), (11, th.cbank.toNat), (12, th.seed.toNat), (13, (s.core core).ltime.toNat % 2 ^ 32),
        (14, s.timebase.toNat % 2 ^ 32), (15, th.shadow.toNat), (20, th.budget), (32, th.ctxbase.toNat % 2 ^ 32),
        (33, th.ctxbase.toNat / 2 ^ 32), (34, th.trapCode.toNat), (35, th.trapPc.toNat % 2 ^ 32),
        (36, th.trapPc.toNat / 2 ^ 32), (37, th.trapVa.toNat % 2 ^ 32), (38, th.trapVa.toNat / 2 ^ 32),
        (40, th.sup.toNat), (48, (s.core core).pmc0.toNat % 2 ^ 32), (49, (s.core core).pmc0.toNat / 2 ^ 32),
        (54, (s.core core).pmc3.toNat % 2 ^ 32), (55, (s.core core).pmc3.toNat / 2 ^ 32),
        (56, (s.core core).pmsel0.toNat), (59, (s.core core).pmsel3.toNat)],
      s.sreg k th p.1 = BitVec.ofNat 32 p.2) := by
  intro core
  simp only [List.forall_mem_cons, List.not_mem_nil, false_imp_iff, implies_true, and_true]
  refine ⟨rfl, rfl, rfl, rfl, rfl, setWidth_eq_ofNat _, rfl, setWidth_eq_ofNat _, eq_ofNat_toNat _, setWidth_eq_ofNat_mod _,
    setWidth_eq_ofNat_mod _, eq_ofNat_toNat _, rfl, setWidth_eq_ofNat_mod _, extractHi_eq_ofNat _, eq_ofNat_toNat _,
    setWidth_eq_ofNat_mod _, extractHi_eq_ofNat _, setWidth_eq_ofNat_mod _, extractHi_eq_ofNat _, ?_,
    setWidth_eq_ofNat_mod _, extractHi_eq_ofNat _, setWidth_eq_ofNat_mod _, extractHi_eq_ofNat _, eq_ofNat_toNat _,
    eq_ofNat_toNat _⟩
  change (if th.sup then 1#32 else 0#32) = _
  cases th.sup <;> rfl

theorem State.sreg_onLC (s : State) (k : Nat) (th : Thread) (h : threadOnLC k = true) :
    ∀ p ∈ [(3, 1), (4, 0), (5, 1), (6, 0x100 + (coreOfThread k - 1024) % 16), (18, th.lcPrio), (21, 0xFFFFFFFF),
      (22, th.lcLaunch)], s.sreg k th p.1 = BitVec.ofNat 32 p.2 := by
  simp only [List.forall_mem_cons, List.not_mem_nil, false_imp_iff, implies_true, and_true, State.sreg, h, if_true]

theorem State.sreg_inGroup (s : State) (k : Nat) (th : Thread) (g : Group) (l : Launch) (h : threadOnLC k = false)
    (hg : s.groupOf k = some g) (hl : s.launchOf k = some l) :
    ∀ p ∈ [(3, g.gsize), (4, g.index), (5, l.ngroup), (6, coreOfThread k % 256), (16, l.future.toNat % 2 ^ 32),
      (17, l.future.toNat / 2 ^ 32), (18, g.prio), (21, chainPos (coreOfThread k)), (22, l.ident.toNat)],
      s.sreg k th p.1 = BitVec.ofNat 32 p.2 := by
  simp only [List.forall_mem_cons, List.not_mem_nil, false_imp_iff, implies_true, and_true, State.sreg, h, hg, hl,
    Bool.false_eq_true, if_false, Option.elim_some]
  exact ⟨trivial, trivial, trivial, trivial, setWidth_eq_ofNat_mod _, extractHi_eq_ofNat _, trivial, trivial,
    eq_ofNat_toNat _⟩

/-! ### A thread at its start (R48, R70) -/

theorem startSeed_toNat (index tid : Nat) : (startSeed index tid).toNat =
    if (1024 * index + tid + 1) % 2 ^ 32 = 0 then 1 else (1024 * index + tid + 1) % 2 ^ 32 := by
  have hz : BitVec.ofNat 32 (1024 * index + tid + 1) = 0#32 ↔ (1024 * index + tid + 1) % 2 ^ 32 = 0 := by
    simp [BitVec.toNat_eq]
  simp only [startSeed, hz]
  split <;> simp

theorem Thread.start_cleared (group : Option Nat) (tid slot budget : Nat) (pc : DWord) (seed : Word) (sup : Bool)
    (frame : DWord) : let th := Thread.start group tid slot budget pc seed sup frame
    (∀ m, th.reg m = 0#32) ∧ (∀ p, p < 7 → th.pred p = false) ∧ ∀ l, (th.latch l).valid = false := by
  refine ⟨fun m => ?_, fun p hp => ?_, fun l => ?_⟩
  · unfold Thread.reg
    split <;> rfl
  · simp [Thread.pred, Thread.start, hp]
  · unfold Thread.latch
    split <;> rfl

end Sys2Proof.Machine
end

section
namespace Sys2Proof.Machine

/-! ### A rounded value fits its format (R57, R68) -/

section RoundLt
variable (f : FFmt)

theorem FFmt.signBit_le (neg : Bool) : f.signBit neg ≤ 2 ^ (f.width - 1) := by
  unfold FFmt.signBit
  split
  · exact le_refl _
  · exact Nat.zero_le _

theorem FFmt.pow_width (hw : 1 ≤ f.ew) (hp : 2 ≤ f.p) : 2 ^ f.width = 2 ^ (f.width - 1) + 2 ^ f.ew * 2 ^ (f.p - 1) := by
  have h : f.width = f.width - 1 + 1 := by simp only [FFmt.width]; omega
  have h' : f.width - 1 = f.ew + (f.p - 1) := by simp only [FFmt.width]; omega
  rw [h, Nat.pow_succ, Nat.add_sub_cancel, h', Nat.pow_add]
  omega

/-- A sign, an exponent field below all ones and a fraction below the hidden bit make a pattern of the format. -/
theorem FFmt.pack_lt (hw : 1 ≤ f.ew) (hp : 2 ≤ f.p) (neg : Bool) (E m : Nat) (hE : E ≤ f.emax) (hm : m < 2 ^ (f.p - 1)) :
    f.signBit neg + E * 2 ^ (f.p - 1) + m < 2 ^ f.width := by
  have h1 := f.signBit_le neg
  have h2 : E * 2 ^ (f.p - 1) ≤ (2 ^ f.ew - 1) * 2 ^ (f.p - 1) := Nat.mul_le_mul_right _ hE
  have h3 : (2 ^ f.ew - 1) * 2 ^ (f.p - 1) + 2 ^ (f.p - 1) = 2 ^ f.ew * 2 ^ (f.p - 1) := by
    rw [← Nat.succ_mul, Nat.succ_eq_add_one, Nat.sub_add_cancel Nat.one_le_two_pow]
  rw [f.pow_width hw hp]
  omega

theorem FFmt.inf_lt (hw : 1 ≤ f.ew) (hp : 2 ≤ f.p) (neg : Bool) : f.inf neg < 2 ^ f.width := by
  simpa [FFmt.inf] using f.pack_lt hw hp neg f.emax 0 (le_refl _) (Nat.two_pow_pos _)

theorem FFmt.nan_lt (hw : 1 ≤ f.ew) (hp : 2 ≤ f.p) : f.nan < 2 ^ f.width := by
  simpa [FFmt.nan, FFmt.signBit] using f.pack_lt hw hp false f.emax (2 ^ (f.p - 2)) (le_refl _)
    (Nat.pow_lt_pow_right (by decide) (by omega))

/-- Twice the bias is one less than the all-ones exponent field. -/
theorem FFmt.two_bias (hw : 1 ≤ f.ew) : 2 * f.bias + 1 = f.emax := by
  obtain ⟨n, hn⟩ : ∃ n, f.ew = n + 1 := ⟨f.ew - 1, by omega⟩
  have : 0 < 2 ^ n := Nat.two_pow_pos n
  simp only [FFmt.bias, FFmt.emax, hn, Nat.add_sub_cancel, Nat.pow_succ]
  omega

/-- What remains of a magnitude in units of a spacing that leaves `p` bits of it. -/
theorem div_shift_lt (m L p up shift : Nat) (hm : m < 2 ^ (L + 1)) (h : L + 1 + up ≤ p + shift) :
    m * 2 ^ up / 2 ^ shift < 2 ^ p := by
  rw [Nat.div_lt_iff_lt_mul (Nat.two_pow_pos _)]
  calc m * 2 ^ up < 2 ^ (L + 1) * 2 ^ up := Nat.mul_lt_mul_of_pos_right hm (Nat.two_pow_pos _)
    _ = 2 ^ (L + 1 + up) := (Nat.pow_add ..).symm
    _ ≤ 2 ^ (p + shift) := Nat.pow_le_pow_right (by decide) h
    _ = 2 ^ p * 2 ^ shift := Nat.pow_add ..

/-- The pattern of `n` units of a spacing, `n` within the precision. -/
theorem FFmt.pattern_lt (hw : 1 ≤ f.ew) (hp : 2 ≤ f.p) (neg : Bool) (n : Nat) (lq : Int) (hn : n < 2 ^ f.p) :
    (if (f.bias : Int) < lq + ((f.p - 1 : Nat) : Int) ∧ 2 ^ (f.p - 1) ≤ n then f.overflow .rn neg
      else if n < 2 ^ (f.p - 1) then f.signBit neg + n
      else f.signBit neg + (lq + ((f.p - 1 : Nat) : Int) + (f.bias : Int)).toNat * 2 ^ (f.p - 1) + (n - 2 ^ (f.p - 1))) <
      2 ^ f.width := by
  have hb := f.two_bias hw
  have hpow : 2 ^ f.p = 2 ^ (f.p - 1) + 2 ^ (f.p - 1) := by
    obtain ⟨k, hk⟩ : ∃ k, f.p = k + 1 := ⟨f.p - 1, by omega⟩
    rw [hk, Nat.add_sub_cancel, Nat.pow_succ]; omega
  split
  · exact f.inf_lt hw hp neg
  · split
    · next h => simpa using f.pack_lt hw hp neg 0 n (Nat.zero_le _) h
    · exact f.pack_lt hw hp neg _ _ (by omega) (by omega)

theorem FFmt.roundFin_rn_lt (hw : 1 ≤ f.ew) (hp : 2 ≤ f.p) (draw : Nat) (neg : Bool) (m0 : Nat) (e0 : Int) (st0 : Bool) :
    f.roundFin .rn draw neg m0 e0 st0 < 2 ^ f.width := by
  unfold FFmt.roundFin
  extract_lets lq
  have hlq : (Nat.log2 m0 : Int) + e0 ≤ lq + ((f.p - 1 : Nat) : Int) := by
    change _ ≤ max _ _ - _ + _
    omega
  have hcut : ∃ (m : Nat) (e : Int) (st : Bool) (L : Nat),
      (if (Nat.log2 m0 : Int) + e0 < lq - 40 then (1, lq - 40, true) else (m0, e0, st0)) = (m, e, st) ∧
      m < 2 ^ (L + 1) ∧ (L : Int) + e ≤ lq + ((f.p - 1 : Nat) : Int) := by
    split
    · exact ⟨_, _, _, 0, rfl, by decide, by omega⟩
    · exact ⟨_, _, _, Nat.log2 m0, rfl, Nat.lt_log2_self, hlq⟩
  obtain ⟨m, e, st, L, heq, hm, hL⟩ := hcut
  simp only [heq]
  generalize hup : (e - (lq - 16)).toNat = up
  generalize hsh : (lq - (e - up)).toNat = shift
  have hn : m * 2 ^ up / 2 ^ shift < 2 ^ f.p := div_shift_lt m L f.p up shift hm (by omega)
  generalize m * 2 ^ up / 2 ^ shift = n0 at hn
  generalize hn1 : (if roundsUp .rn neg n0 _ shift st = true then n0 + 1 else n0) = n
  have hle : n ≤ 2 ^ f.p := by rw [← hn1]; split <;> omega
  by_cases hbig : 2 ^ f.p ≤ n
  · have hone : 1 < 2 ^ f.p := Nat.one_lt_two_pow (by omega)
    simp only [hbig, if_true]
    exact f.pattern_lt hw hp neg _ _ (by omega)
  · simp only [hbig, if_false]
    exact f.pattern_lt hw hp neg _ _ (by omega)

/-- Rounding to nearest gives a pattern of the format. -/
theorem FFmt.round_rn_lt (hw : 1 ≤ f.ew) (hp : 2 ≤ f.p) (draw : Nat) (x : Ex) : f.round .rn draw x < 2 ^ f.width := by
  cases x with
  | nan => exact f.nan_lt hw hp
  | inf neg => exact f.inf_lt hw hp neg
  | fin neg m e st =>
    simp only [FFmt.round]
    split
    · simpa using f.pack_lt hw hp neg 0 0 (Nat.zero_le _) (Nat.two_pow_pos _)
    · exact f.roundFin_rn_lt hw hp draw neg m e st

end RoundLt
end Sys2Proof.Machine
end

section
namespace Sys2Proof.Machine

/-- What operand 0x300 reads as a packed pair in class 0x1: the value rounded to the format, in both halves. -/
theorem fimmAs_of_width16 (f : FFmt) (o : Opnds) (hf : f.width = 16) (hw : 1 ≤ f.ew) (hp : 2 ≤ f.p) :
    fimmAs f o = BitVec.ofNat 64 (f.round .rn 0 (fF32.decode (fimmBits o)) +
      f.round .rn 0 (fF32.decode (fimmBits o)) * 2 ^ 16) := by
  have h := f.round_rn_lt hw hp 0 (fF32.decode (fimmBits o))
  rw [hf] at h
  simp only [fimmAs, hf, if_true, bothHalves, Nat.mod_eq_of_lt h]

theorem State.startThread_cleared (s : State) (core gk tid index budget : Nat) (pc : DWord) :
    ∃ th, (s.startThread core gk tid index budget pc).thread? (threadKey gk tid) = some th ∧
      th.seed.toNat = (if (1024 * index + tid + 1) % 2 ^ 32 = 0 then 1 else (1024 * index + tid + 1) % 2 ^ 32) ∧
      (∀ m, th.reg m = 0#32) ∧ (∀ p, p < 7 → th.pred p = false) ∧ (∀ l, (th.latch l).valid = false) ∧
      th.depth = 0 ∧ th.cbank = 0#4 ∧ th.shadow = 0#32 ∧ th.sup = false ∧ th.tid = tid ∧ th.budget = budget ∧ th.pc = pc := by
  refine ⟨_, State.thread_setThread_self .., startSeed_toNat index tid, ?_⟩
  obtain ⟨hreg, hpred, hlatch⟩ := Thread.start_cleared (some gk) tid
    ((s.freeThreadSlots core (lanePos tid)).headD 0) budget pc (startSeed index tid) false
    (s.defaultFrame core ((s.freeThreadSlots core (lanePos tid)).headD 0))
  exact ⟨hreg, hpred, hlatch, rfl, rfl, rfl, rfl, rfl, rfl, rfl⟩

/-- Settles O6: a lemma for each of its parts, of operand fields, immediates, special registers, a start and writes. -/
theorem registerAndPredicateWrites : Obligations.RegisterAndPredicateWrites := by
  refine ⟨fun s k x th w64 signed imm lit h hok hx => ?_, fun _ _ _ _ _ => ⟨rfl, rfl⟩, fun _ _ _ _ _ => rfl,
    fun s k ty o x => ?_,
    fun s k th _ => ⟨s.sreg_own k th, s.sreg_onLC k th, fun g l => s.sreg_inGroup k th g l⟩,
    State.startThread_cleared, fun th r m n b ws hwf => ?_⟩
  · dsimp only
    rw [State.read_eq h]
    exact ⟨s.operand_ofField k th w64 signed imm lit x hok hx, State.afterRead_ofField h lit x hok hx⟩
  · cases ty with
    | f32 | f64 => rfl
    | f16x2 => exact congrArg (s.read k false false · x) (fimmAs_of_width16 fF16 o rfl (by decide) (by decide))
    | bf16x2 => exact congrArg (s.read k false false · x) (fimmAs_of_width16 fBf16 o rfl (by decide) (by decide))
  · exact ⟨th.reg_setRegs r m ws hwf, th.setRegs_wf r ws hwf,
      fun hm => ⟨th.reg_of_le hm, th.setReg_discards m _ hm⟩, th.setRegs_frame r ws, th.pred_setPred_nat n m b,
      th.setPred_frame n b⟩

end Sys2Proof.Machine
end

section
namespace Sys2Proof

theorem AMap.set_get {α : Type} {m : AMap α} {k : Nat} {v : α} (h : AMap.get? m k = some v) : AMap.set m k v = m := by
  induction m with
  | nil => cases h
  | cons c m ih =>
    obtain ⟨k', v'⟩ := c
    simp only [AMap.get?] at h
    split at h
    next e => cases h; simp [AMap.set, e]
    next ne =>
      split at h
      next => cases h
      next hle => simp [AMap.set, hle, Ne.symm ne, ih h]

end Sys2Proof

namespace Sys2Proof.Machine

@[simp] theorem State.setThread_thread {s : State} {k : Nat} {th : Thread} (h : s.thread? k = some th) :
    s.setThread k th = s := by
  simp only [State.setThread]
  rw [AMap.set_get h]

/-! ### What operands and roundings change: the clock shadow and the LFSR (R54, R70) -/

/-- The state is `s` but for thread `k`, which is `th` with a clock shadow and an LFSR of its own. -/
def Draws (s : State) (k : Nat) (th : Thread) (s' : State) : Prop :=
  ∃ shadow seed, s' = s.setThread k { th with shadow := shadow, seed := seed }

/-- The instruction retires a result of at most four words from a state that `Draws`. -/
def Retires (s : State) (k : Nat) (th : Thread) (o : Opnds) (out : Out) : Prop :=
  ∃ s' n v, n ≤ 4 ∧ Draws s k th s' ∧ out = .next (s.retire s' k o n v)

section
variable {s s' : State} {k : Nat} {th : Thread}

theorem Draws.refl (h : s.thread? k = some th) : Draws s k th s := ⟨th.shadow, th.seed, (State.setThread_thread h).symm⟩

theorem Draws.thread (hd : Draws s k th s') :
    ∃ shadow seed, s'.thread? k = some { th with shadow := shadow, seed := seed } := by
  obtain ⟨sh, sd, rfl⟩ := hd
  exact ⟨sh, sd, State.thread_setThread_self ..⟩

theorem Draws.set (hd : Draws s k th s') (shadow seed : Word) :
    Draws s k th (s'.setThread k { th with shadow := shadow, seed := seed }) := by
  obtain ⟨sh, sd, rfl⟩ := hd
  exact ⟨shadow, seed, State.setThread_setThread ..⟩

theorem Draws.read (hd : Draws s k th s') (w64 sg : Bool) (imm : DWord) (x : Operand) :
    Draws s k th (s'.read k w64 sg imm x).2 := by
  obtain ⟨sh, sd, ht⟩ := hd.thread
  rw [State.read_eq ht]
  cases x with
  | sreg n =>
    simp only [State.afterRead, State.readShadow]
    split
    · rw [State.modThread_eq ht]; exact hd.set _ _
    · exact hd
  | gpr | const | latch | pred | small | imm | litLo | litHi | lit => exact hd

theorem Draws.readElem (hd : Draws s k th s') (ty : IType) (o : Opnds) (x : Operand) :
    Draws s k th (s'.readElem k ty o x).2 := hd.read ..

theorem Draws.readCtl (hd : Draws s k th s') (o : Opnds) (x : Operand) : Draws s k th (s'.readCtl k o x).2 := hd.read ..

theorem Draws.readF (hd : Draws s k th s') (ty : FType) (o : Opnds) (x : Operand) :
    Draws s k th (s'.readF k ty o x).2 := hd.read ..

theorem Draws.readF20 (hd : Draws s k th s') (imm : DWord) (x : Operand) :
    Draws s k th (s'.readF20 k imm x).2 := hd.read ..

theorem Draws.readC (hd : Draws s k th s') (f : Fmt) (w64 : Bool) (o : Opnds) (x : Operand) :
    Draws s k th (s'.readC k f w64 o x).2 := hd.read ..

theorem Draws.readC20 (hd : Draws s k th s') (o : Opnds) (x : Operand) : Draws s k th (s'.readC20 k o x).2 := hd.read ..

theorem Draws.readB (hd : Draws s k th s') (w64 : Bool) (o : Opnds) (x : Operand) :
    Draws s k th (s'.readB k w64 o x).2 := hd.read ..

theorem Draws.roundAll (hd : Draws s k th s') (f : FFmt) (r : Rnd) (ftz : Bool) (xs : List Ex) :
    Draws s k th (s'.roundAll k f r ftz xs).2 := by
  obtain ⟨sh, sd, ht⟩ := hd.thread
  simp only [State.roundAll, ht]
  exact hd.set _ _

theorem Draws.modSeed (hd : Draws s k th s') (seed : Word) :
    Draws s k th (s'.modThread k (fun x => { x with seed := seed })) := by
  obtain ⟨sh, sd, ht⟩ := hd.thread
  rw [State.modThread_eq ht]
  exact hd.set sh seed

theorem rn_le (w : Bool) : rn w ≤ 4 := by cases w <;> decide

variable (h : Claims.Acts s k th)
include h

theorem onThread_retires {o : Opnds} {f : Nat → Thread → State} (s' : State) (n : Nat) (v : QWord) (hn : n ≤ 4)
    (hd : Draws s k th s') (hf : f k th = s.retire s' k o n v) : Retires s k th o (onThread s f) := by
  obtain ⟨rfl, ht⟩ := h
  exact ⟨s', n, v, hn, hd, by rw [onThread_next f ht, hf]⟩

theorem aluAB_retires (ty : IType) (o : Opnds) (n : Nat) (hn : n ≤ 4) (f : DWord → DWord → DWord) :
    Retires s k th o (aluAB s ty o n f) :=
  onThread_retires h _ _ _ hn (((Draws.refl h.2).readElem ..).readElem ..) rfl

theorem aluA_retires (ty : IType) (o : Opnds) (n : Nat) (hn : n ≤ 4) (f : DWord → DWord) :
    Retires s k th o (aluA s ty o n f) :=
  onThread_retires h _ _ _ hn ((Draws.refl h.2).readElem ..) rfl

theorem aluACtl_retires (ty : IType) (o : Opnds) (n : Nat) (hn : n ≤ 4) (f : DWord → Word → DWord) :
    Retires s k th o (aluACtl s ty o n f) :=
  onThread_retires h _ _ _ hn (((Draws.refl h.2).readElem ..).readCtl ..) rfl

theorem aluABCtl_retires (ty : IType) (o : Opnds) (n : Nat) (hn : n ≤ 4) (f : DWord → DWord → Word → DWord) :
    Retires s k th o (aluABCtl s ty o n f) :=
  onThread_retires h _ _ _ hn ((((Draws.refl h.2).readElem ..).readElem ..).readCtl ..) rfl

theorem floatA_retires (ty : FType) (r : Rnd) (ftz : Bool) (o : Opnds) (f : Ex → Ex) :
    Retires s k th o (floatA s ty r ftz o f) :=
  onThread_retires h _ _ _ (rn_le _) (((Draws.refl h.2).readF ..).roundAll ..) rfl

theorem floatAB_retires (ty : FType) (r : Rnd) (ftz : Bool) (o : Opnds) (f : Ex → Ex → Ex) :
    Retires s k th o (floatAB s ty r ftz o f) :=
  onThread_retires h _ _ _ (rn_le _) ((((Draws.refl h.2).readF ..).readF ..).roundAll ..) rfl

theorem bitsAB_retires (ty : FType) (o : Opnds) (n : Nat) (hn : n ≤ 4) (f : List Nat → List Nat → QWord) :
    Retires s k th o (bitsAB s ty o n f) :=
  onThread_retires h _ _ _ hn (((Draws.refl h.2).readF ..).readF ..) rfl

theorem bitsA_retires (ty : FType) (o : Opnds) (f : Nat → Nat) : Retires s k th o (bitsA s ty o f) :=
  onThread_retires h _ _ _ (rn_le _) ((Draws.refl h.2).readF ..) rfl

theorem special_retires (m : CvtMod) (o : Opnds) (f : FFmt → Ex → Nat) : Retires s k th o (special s m o f) :=
  onThread_retires h _ _ _ (by decide) ((Draws.refl h.2).readC ..) rfl

theorem execSacc_retires (m : CvtMod) (o : Opnds) : Retires s k th o (execSacc m o s) := by
  have hr := (((Draws.refl h.2).readC m.sf false o o.a).readC20 o o.b).readC .f32 false o o.c
  obtain ⟨rfl, ht⟩ := h
  rw [execSacc, onThread_next _ ht]
  dsimp only
  split
  · exact ⟨_, _, _, by decide, hr, rfl⟩
  · exact ⟨_, _, _, by decide, hr.roundAll .., rfl⟩

theorem execFfma_retires (ty : FType) (r : Rnd) (ftz : Bool) (o : Opnds) : Retires s k th o (execFfma ty r ftz o s) :=
  onThread_retires h _ _ _ (rn_le _) (((((Draws.refl h.2).readF ..).readF ..).readF ..).roundAll ..) rfl

theorem execFdot2_retires (ty : FType) (r : Rnd) (ftz : Bool) (o : Opnds) : Retires s k th o (execFdot2 ty r ftz o s) := by
  obtain ⟨rfl, ht⟩ := h
  have hd := (((Draws.refl ht).readF ty o o.a).readF ty o o.b).readF .f32 o o.c
  rw [execFdot2, onThread_next _ ht]
  dsimp only
  generalize ((s.readF s.cur ty o o.a).2.readF s.cur ty o o.b).2.readF s.cur .f32 o o.c = c at hd
  obtain ⟨c, s3⟩ := c
  exact ⟨_, _, _, by decide, hd.roundAll .., rfl⟩

theorem execUnpackt_retires (m : CvtMod) (o : Opnds) : Retires s k th o (execUnpackt m o s) := by
  obtain ⟨rfl, ht⟩ := h
  have hd := ((Draws.refl ht).readC m.sf false o o.a).readC20 o o.b
  rw [execUnpackt, onThread_next _ ht]
  generalize s.readC s.cur m.sf false o o.a = a at hd
  obtain ⟨a, s1⟩ := a
  generalize hb : s1.readC20 s.cur o o.b = b at hd
  obtain ⟨b, s2⟩ := b
  dsimp only at hd ⊢
  rw [hb]
  exact ⟨_, _, _, by split <;> decide, hd.roundAll .., rfl⟩

/-- The class of a word's OPC is `c` (R17). -/
def inClass (i : Instr) (c : Nat) : Bool :=
  match i.opcM with
  | some (opc, _) => opc / 256 == c
  | none => false

omit h in
theorem inClass_of_computes {i : Instr} (hc : Claims.computes i = true) :
    inClass i 0 = true ∨ inClass i 1 = true ∨ inClass i 2 = true ∨ inClass i 3 = true := by
  unfold Claims.computes at hc
  unfold inClass
  generalize i.opcM = x at hc
  cases x with
  | none => cases hc
  | some p =>
    simp only [Bool.and_eq_true, decide_eq_true_eq] at hc
    simp only [beq_iff_eq]
    omega

theorem integer_retires {i : Instr} {o : Opnds} (hc : inClass i 0 = true) (ho : i.opnds = some o) :
    Retires s k th o (exec i s) := by
  have hr := Draws.refl h.2
  cases i
  case iadd | isub | imul | imulh | idiv | irem | imin | imax | land | lor | lxor | landn =>
    cases ho; unfold exec; exact aluAB_retires h _ _ _ (rn_le _) _
  case icmp => cases ho; unfold exec; exact aluAB_retires h _ _ _ (by decide) _
  case iabs | ineg | lnot | brev => cases ho; unfold exec; exact aluA_retires h _ _ _ (rn_le _) _
  case popc | clz | ctz => cases ho; unfold exec; exact aluA_retires h _ _ _ (by decide) _
  case shl | shr | sar | rotl | bfx => cases ho; unfold exec; exact aluACtl_retires h _ _ _ (rn_le _) _
  case iaddc ty co _ | isubb ty co _ =>
    cases ho; unfold exec; exact aluABCtl_retires h _ _ _ (by split; exacts [by decide, rn_le _]) _
  case bfi => cases ho; unfold exec; exact aluABCtl_retires h _ _ _ (rn_le _) _
  case imad =>
    cases ho; unfold exec
    exact onThread_retires h _ _ _ (rn_le _) (((hr.readElem ..).readElem ..).readElem ..) rfl
  case lea =>
    cases ho; unfold exec; exact onThread_retires h _ _ _ (rn_le _) (((hr.readElem ..).readCtl ..).readCtl ..) rfl
  case idot4 => cases ho; unfold exec; exact onThread_retires h _ _ _ (by decide) (((hr.readElem ..).readElem ..).readElem ..) rfl
  all_goals cases hc

theorem float_retires {i : Instr} {o : Opnds} (hc : inClass i 1 = true) (ho : i.opnds = some o) :
    Retires s k th o (exec i s) := by
  have hr := Draws.refl h.2
  cases i
  case fadd | fsub | fmul | fdiv => cases ho; unfold exec; exact floatAB_retires h _ _ _ _ _
  case fsqrt => cases ho; unfold exec; exact floatA_retires h _ _ _ _ _
  case ffma => cases ho; exact execFfma_retires h _ _ _ _
  case fdot2 => cases ho; exact execFdot2_retires h _ _ _ _
  case fscale => cases ho; unfold exec; exact onThread_retires h _ _ _ (rn_le _) (((hr.readF ..).readF20 ..).roundAll ..) rfl
  case fmin | fmax => cases ho; unfold exec; exact bitsAB_retires h _ _ _ (rn_le _) _
  case fcmp => cases ho; unfold exec; exact bitsAB_retires h _ _ _ (by decide) _
  case fabs | fneg | frnd => cases ho; unfold exec; exact bitsA_retires h _ _ _
  case fclass => cases ho; unfold exec; exact onThread_retires h _ _ _ (by decide) ((hr.readF ..).readF20 ..) rfl
  all_goals cases hc

theorem convert_retires {i : Instr} {o : Opnds} (hc : inClass i 2 = true) (ho : i.opnds = some o) :
    Retires s k th o (exec i s) := by
  have hr := Draws.refl h.2
  cases i
  case cvt => cases ho; unfold exec; exact onThread_retires h _ _ _ (rn_le _) ((hr.readC ..).modSeed _) rfl
  case packt => cases ho; unfold exec; exact onThread_retires h _ _ _ (by decide) (((hr.readC ..).readC ..).readC20 ..) rfl
  case unpackt => cases ho; exact execUnpackt_retires h _ _
  case frcp | frsq | fexp2 | flog2 | fsinpi | fcospi | ftanh | fsigm => cases ho; unfold exec; exact special_retires h _ _ _
  case sacc => cases ho; unfold exec; exact execSacc_retires h _ _
  all_goals cases hc

theorem move_retires {i : Instr} {o : Opnds} (hc : Claims.computes i = true) (hc3 : inClass i 3 = true) (ho : i.opnds = some o)
    (hset : ∀ o', i ≠ .pmovSet o') :
    Retires s k th o (exec i s) := by
  have hr := Draws.refl h.2
  cases i
  case mov => cases ho; unfold exec; exact onThread_retires h _ _ _ (rn_le _) (hr.readB ..) rfl
  case movi => cases ho; unfold exec; exact onThread_retires h _ _ _ (rn_le _) (hr.read ..) rfl
  case sel =>
    cases ho; unfold exec; exact onThread_retires h _ _ _ (rn_le _) (((hr.readB ..).readB ..).readCtl ..) rfl
  case plop =>
    cases ho; unfold exec; exact onThread_retires h _ _ _ (rn_le _) (((hr.readB ..).readB ..).readB ..) rfl
  case pmovGet => cases ho; unfold exec; exact onThread_retires h _ _ _ (by decide) hr rfl
  case pmovSet o' => exact absurd rfl (hset o')
  case sread | swrite => cases hc
  all_goals cases hc3

/-- Every computing word but PMOV.set retires from its own thread's state, which only reads and draws have changed. -/
theorem exec_retires {i : Instr} {o : Opnds} (hc : Claims.computes i = true) (ho : i.opnds = some o)
    (hset : ∀ o', i ≠ .pmovSet o') : Retires s k th o (exec i s) := by
  obtain h0 | h1 | h2 | h3 := inClass_of_computes hc
  · exact integer_retires h h0 ho
  · exact float_retires h h1 ho
  · exact convert_retires h h2 ho
  · exact move_retires h hc h3 ho hset

/-- PMOV.set reads A and retires from the thread with its new predicates. -/
theorem execPmovSet_retires (o : Opnds) : ∃ ps, Retires s k { th with preds := ps } o (exec (.pmovSet o) s) := by
  obtain ⟨sh, sd, hd⟩ := (Draws.refl h.2).read false false 0#64 o.a
  obtain ⟨rfl, ht⟩ := h
  unfold exec
  dsimp only [execPmovSet]
  rw [onThread_next _ ht]
  dsimp only [State.read32]
  rw [hd, State.modThread_eq (State.thread_setThread_self ..), State.setThread_setThread]
  exact ⟨_, _, 1, _, by decide, ⟨sh, sd, rfl⟩, rfl⟩

end

/-! ### The thread after a retired word -/

/-- The thread after a word that gave D the value `v` from the thread `th` (R21, R128). -/
def Thread.retired (th : Thread) (o : Opnds) (n : Nat) (v : QWord) : Thread :=
  Claims.passed o.len { Claims.written o.d n v th with
    l0 := ⟨true, pushValue o.d n v⟩, l1 := th.l0, l2 := th.l1, l3 := th.l2 }

theorem Thread.retired_frame (th : Thread) (o : Opnds) (n : Nat) (v : QWord) :
    th.retired o n v = { th with
      regs := (Claims.written o.d n v th).regs, preds := (Claims.written o.d n v th).preds
      l0 := ⟨true, pushValue o.d n v⟩, l1 := th.l0, l2 := th.l1, l3 := th.l2
      pc := (th.retired o n v).pc, loop := (th.retired o n v).loop, depth := (th.retired o n v).depth } := by
  unfold Thread.retired
  rw [Claims.passed_frame, Claims.written_frame]

theorem Thread.retired_of_depth {th : Thread} (h : th.depth = 0) (o : Opnds) (n : Nat) (v : QWord) :
    (th.retired o n v).pc = th.pc + BitVec.ofNat 64 o.len ∧ (th.retired o n v).depth = 0 ∧
      (th.retired o n v).loop = th.loop := by
  have hw := Claims.written_frame o.d n v th
  unfold Thread.retired
  rw [Claims.passed_of_depth (by rw [hw]; exact h), hw]
  exact ⟨rfl, h, rfl⟩

theorem wordsOf_length (v n : Nat) : (wordsOf v n).length = n := by
  induction n generalizing v with
  | zero => rfl
  | succ n ih => simp [wordsOf, ih]

/-- A result of at most four words leaves every register outside D. -/
theorem Claims.written_reg_of_not_inDest (d : Dest) {n m : Nat} (v : QWord) {th : Thread} (hn : n ≤ 4)
    (hm : Claims.inDest d m = false) (hwf : cellsWf th.regs 0#32 = true) : (Claims.written d n v th).reg m = th.reg m := by
  cases d with
  | gpr r =>
    simp only [Claims.inDest, Bool.and_eq_false_iff, decide_eq_false_iff_not] at hm
    rw [Claims.written, Thread.reg_setRegs _ _ _ _ hwf, if_neg (by rw [wordsOf_length]; omega)]
  | pred p => rw [Claims.written, Thread.setPred_frame]; rfl
  | sreg | none | latch => rfl

theorem Claims.written_preds (d : Dest) (n : Nat) (v : QWord) (th : Thread) (hp : ∀ p, d ≠ .pred p) :
    (Claims.written d n v th).preds = th.preds := by
  cases d with
  | gpr r => rw [Claims.written, Thread.setRegs_frame]
  | pred p => exact absurd rfl (hp p)
  | sreg | none | latch => rfl

theorem Retires.eq_retired {s : State} {k : Nat} {th x : Thread} {o : Opnds} {out : Out} (ht : s.thread? k = some th)
    (hr : s.taskReclaimed k = false) (hd : Claims.Dest.plain o.d = true) (hg : x.group = th.group) (h : Retires s k x o out) :
    ∃ shadow seed n v, n ≤ 4 ∧
      out = .next (s.setThread k (Thread.retired { x with shadow := shadow, seed := seed } o n v)) := by
  obtain ⟨s', n, v, hn, ⟨sh, sd, rfl⟩, rfl⟩ := h
  refine ⟨sh, sd, n, v, hn, ?_⟩
  rw [resultPlacement s _ k _ o n v (State.thread_setThread_self ..) 
    (by rw [State.taskReclaimed_setThread ht (by exact hg), hr]) hd, State.setThread_setThread]
  rfl

theorem exec_computing {s : State} {k : Nat} {th : Thread} {i : Instr} {o : Opnds} (h : Claims.Acts s k th)
    (hc : Claims.computes i = true) (ho : i.opnds = some o) :
    ∃ ps, ((∀ o', i ≠ .pmovSet o') → ps = th.preds) ∧ Retires s k { th with preds := ps } o (exec i s) := by
  by_cases hset : ∀ o', i ≠ .pmovSet o'
  · exact ⟨th.preds, fun _ => rfl, exec_retires h hc ho hset⟩
  · obtain ⟨o', rfl⟩ : ∃ o', i = .pmovSet o' := by simpa using hset
    cases ho
    obtain ⟨ps, hps⟩ := execPmovSet_retires h o
    exact ⟨ps, fun hne => absurd rfl (hne o), hps⟩

/-- Settles O9: a computing word retires from its own thread, whose shadow and seed alone were changed before. -/
theorem computingFrame : Obligations.ComputingFrame := by
  intro s k th i o h hc ho hr hd
  obtain ⟨ps, hps, hret⟩ := exec_computing h hc ho
  obtain ⟨sh, sd, n, v, hn, hout⟩ := Retires.eq_retired (x := { th with preds := ps }) h.2 hr hd rfl hret
  have hf := Thread.retired_frame { th with preds := ps, shadow := sh, seed := sd } o n v
  refine ⟨_, hout, fun m hm => ?_, fun hp hset => ?_, ?_, ?_, ?_, ?_, fun hdep => ?_, ?_⟩
  · cases hwf : cellsWf th.regs 0#32 with
    | false => exact .inr rfl
    | true =>
      rw [hf]
      exact .inl (Claims.written_reg_of_not_inDest o.d v hn hm hwf)
  · rw [hf]
    exact (Claims.written_preds o.d n v _ hp).trans (hps hset)
  · rw [hf]
  · rw [hf]
  · rw [hf]
  · rw [hf]
  · exact Thread.retired_of_depth (th := { th with preds := ps, shadow := sh, seed := sd }) hdep o n v
  · rw [hf]

end Sys2Proof.Machine
end

section
namespace Sys2Proof.Machine

/-! ### Words that only pass (R30, R132-R134) -/

theorem State.launchReclaimed_modThread (s : State) (m : Nat) (f : Thread → Thread) (l : Nat) :
    (s.modThread m f).launchReclaimed l = s.launchReclaimed l := by
  unfold State.modThread
  split <;> rfl

/-- Another thread's change leaves whether a thread's task was reclaimed. -/
theorem State.taskReclaimed_modThread_of_ne (s : State) {k m : Nat} (hm : k ≠ m) (f : Thread → Thread) :
    (s.modThread m f).taskReclaimed k = s.taskReclaimed k := by
  have hg : (s.modThread m f).groupOf k = s.groupOf k := by
    simp only [State.groupOf, State.thread_modThread, if_neg hm, State.group?, State.modThread_frame]
  simp only [State.taskReclaimed, hg, State.launchReclaimed_modThread]

/-- The threads of a list held no longer, as CONV leaves its mates (R133). -/
def State.endHolds (s : State) (ms : List Nat) : State :=
  ms.foldl (fun s m => s.modThread m (fun x => { x with hold := 0 })) s

theorem State.endHolds_cons (s : State) (m : Nat) (ms : List Nat) :
    s.endHolds (m :: ms) = (s.modThread m (fun x => { x with hold := 0 })).endHolds ms := rfl

theorem State.taskReclaimed_endHolds (s : State) {k : Nat} {ms : List Nat} (hk : k ∉ ms) :
    (s.endHolds ms).taskReclaimed k = s.taskReclaimed k := by
  induction ms generalizing s with
  | nil => rfl
  | cons m ms ih =>
    obtain ⟨hm, hms⟩ := List.ne_and_not_mem_of_not_mem_cons hk
    rw [State.endHolds_cons, ih _ hms, State.taskReclaimed_modThread_of_ne _ hm]

theorem State.thread_endHolds (s : State) (ms : List Nat) (j : Nat) :
    (s.endHolds ms).thread? j = if j ∈ ms then (s.thread? j).map (fun x => { x with hold := 0 }) else s.thread? j := by
  induction ms generalizing s with
  | nil => rfl
  | cons m ms ih =>
    rw [State.endHolds_cons, ih, State.thread_modThread]
    by_cases hm : j = m
    · subst hm
      by_cases hj : j ∈ ms <;> simp [hj, Function.comp_def]
    · simp [hm]

theorem State.not_mem_quarterMates (s : State) (k : Nat) (th : Thread) : k ∉ s.quarterMates k th := by
  unfold State.quarterMates
  cases th.group <;> simp

theorem State.thread_of_heldAt {s : State} {m : Nat} {pc : DWord} (h : s.heldAt m pc = true) :
    ∃ x, s.thread? m = some x := by
  unfold State.heldAt at h
  cases hm : s.thread? m with
  | some x => exact ⟨x, rfl⟩
  | none => rw [hm] at h; cases h

section
variable {s : State} {k : Nat} {th : Thread} (h : Claims.Acts s k th) (hr : s.taskReclaimed k = false)
include h hr

theorem onThread_advance (len : Nat) :
    onThread s (fun t _ => s.advance t len) = .next (s.setThread k (Claims.passed len th)) := by
  obtain ⟨rfl, ht⟩ := h
  rw [onThread_next _ ht, State.advance_eq ht hr]

theorem execYield_eq (o : Opnds) (hs : th.status = .ready) :
    execYield o s = .next (s.setThread k { Claims.passed o.len th with status := .yielded }) := by
  obtain ⟨rfl, ht⟩ := h
  have hp : (Claims.passed o.len th).status = .ready := by rw [Claims.passed_frame]; exact hs
  rw [execYield, onThread_next _ ht, State.advance_eq ht hr, State.modThread_eq (State.thread_setThread_self ..),
    State.setThread_setThread, Thread.yield, hp]

theorem execConv_held (n : BitVec 6) (o : Opnds) (hc : th.conv = true) :
    execConv n o s = .next (s.setThread k (Claims.passed o.len { th with conv := false })) := by
  obtain ⟨rfl, ht⟩ := h
  rw [execConv, onThread_next _ ht]
  simp only [hc, if_true]
  rw [State.advance_setThread { th with conv := false } ht hr _ rfl]

omit hr in
theorem execConv_holds (n : BitVec 6) (o : Opnds) (hc : th.conv = false)
    (hm : ∃ m ∈ s.quarterMates k th, s.heldAt m th.pc = false) :
    execConv n o s = .next { s.setThread k { th with conv := true, hold := 16 * (n.toNat + 1) } with retry := true } := by
  obtain ⟨rfl, ht⟩ := h
  have hall : (s.quarterMates s.cur th).all (fun m => s.heldAt m th.pc) = false := by simpa [List.all_eq_false] using hm
  rw [execConv, onThread_next _ ht]
  simp only [hc, hall, Bool.false_eq_true, if_false]

theorem execConv_meets (n : BitVec 6) (o : Opnds) (hc : th.conv = false)
    (hm : ∀ m ∈ s.quarterMates k th, s.heldAt m th.pc = true) :
    execConv n o s = .next ((s.endHolds (s.quarterMates k th)).setThread k (Claims.passed o.len th)) := by
  obtain ⟨rfl, ht⟩ := h
  have hall : (s.quarterMates s.cur th).all (fun m => s.heldAt m th.pc) = true := List.all_eq_true.mpr hm
  have hk : (s.endHolds (s.quarterMates s.cur th)).thread? s.cur = s.thread? s.cur := by
    rw [State.thread_endHolds, if_neg (s.not_mem_quarterMates s.cur th)]
  have hrec := s.taskReclaimed_endHolds (s.not_mem_quarterMates s.cur th)
  rw [execConv, onThread_next _ ht, ← State.advance_eq (hk.trans ht) (hrec.trans hr)]
  simp only [hc, hall, Bool.false_eq_true, if_false, if_true]
  rfl

end

/-- Settles O20: each word completes by `advance`; CONV holds its thread first, or ends the holds of its mates. -/
theorem passingWords : Obligations.PassingWords := by
  intro s k th w n o h hs hr
  refine ⟨onThread_advance h hr _, onThread_advance h hr _, execYield_eq h hr o hs, execConv_held h hr n o,
    execConv_holds h n o, fun hc hm => ⟨_, execConv_meets h hr n o hc hm, State.thread_setThread_self .., ?_⟩⟩
  intro m hmem
  obtain ⟨x, hx⟩ := State.thread_of_heldAt (hm m hmem)
  have hne : m ≠ k := fun e => s.not_mem_quarterMates k th (e ▸ hmem)
  exact ⟨x, hx, by rw [State.thread_setThread, if_neg hne, State.thread_endHolds, if_pos hmem, hx]; rfl⟩

end Sys2Proof.Machine
end

section
namespace Sys2Proof.Machine

/-! ### Values as bytes, alignment and the address space -/

theorem leNat_leBytes (v n : Nat) (h : v < 256 ^ n) : leNat (leBytes v n) = v := by
  induction n generalizing v with
  | zero => simpa [leBytes, leNat] using (Nat.lt_one_iff.mp h).symm
  | succ n ih =>
    have hd : v / 256 < 256 ^ n := Nat.div_lt_of_lt_mul (by rwa [Nat.pow_succ, Nat.mul_comm] at h)
    have e : leNat (leBytes v (n + 1)) = v % 2 ^ 8 + 256 * leNat (leBytes (v / 256) n) := by
      simp [leBytes, leNat]
    rw [e, ih _ hd]
    omega

theorem leNat_leBytes_dword (v : DWord) : leNat (leBytes v.toNat 8) = v.toNat := leNat_leBytes _ 8 v.isLt

/-- The two bits below a word's alignment (R33). -/
theorem low2_eq_zero_iff (v : DWord) : v.extractLsb' 0 2 = 0#2 ↔ v.toNat % 4 = 0 := by
  simp [BitVec.toNat_eq]

/-- The nine bits above the address space (R135). -/
theorem high9_eq_zero_iff (v : DWord) : v.extractLsb' 55 9 = 0#9 ↔ v.toNat < 2 ^ 55 := by
  have := v.isLt
  simp only [BitVec.toNat_eq, BitVec.extractLsb'_toNat, BitVec.toNat_ofNat, Nat.shiftRight_eq_div_pow]
  omega

/-! ### Traps taken (R28, R131, R169, R170) -/

theorem handlerOk_eq_false_iff (v : DWord) :
    handlerOk v = false ↔ v = 0#64 ∨ v.toNat % 4 ≠ 0 ∨ 2 ^ 55 ≤ v.toNat := by
  rw [← Nat.not_lt, ← high9_eq_zero_iff, ne_eq, ← low2_eq_zero_iff]
  simp [handlerOk, Classical.or_iff_not_imp_left]

theorem State.takeTrap_eq {s : State} {k : Nat} {th : Thread} (h : s.thread? k = some th) (c : Code) (va : DWord) :
    s.takeTrap k c va = s.takeTrapAt k c 0#16 va th.pc := by
  simp only [State.takeTrap, h]

theorem State.takeTrapAt_no_handler {s : State} {k : Nat} {th : Thread} (h : s.thread? k = some th)
    (hv : s.pcb.trapvec = 0#64) (c : Code) (arg : BitVec 16) (va rpc : DWord) :
    s.takeTrapAt k c arg va rpc = s.fatalThread k va th.pc c .read 0 0#64 := by
  simp [State.takeTrapAt, h, hv]

/-- A frame that is busy or holds no handler makes the trap a double trap. -/
theorem State.takeTrapAt_double {s s' : State} {k : Nat} {th : Thread} {cs handler : DWord} (h : s.thread? k = some th)
    (hv : s.pcb.trapvec ≠ 0#64) (hf : Claims.FrameReady s k th cs handler s')
    (hd : cs.getLsbD 40 = true ∨ handlerOk handler = false) (c : Code) (arg : BitVec 16) (va rpc : DWord) :
    s.takeTrapAt k c arg va rpc = s'.fatalThread k va th.pc c .read 0 0#64 := by
  obtain ⟨e1, l1, p1, s1, e2, l2, p2, s2, s3, h1, h2, h3, h4⟩ := hf
  have hbusy : bits cs.toNat 40 1 = 1 ↔ cs.getLsbD 40 = true := by
    rw [BitVec.getLsbD, Nat.testBit_eq_decide_div_mod_eq]
    simp [bits]
  simp only [State.takeTrapAt, h, hv, h1, h2, h3, h4, leNat_leBytes_dword, hbusy, BitVec.ofNat_toNat, BitVec.setWidth_eq,
    hd, if_true, if_false]

/-- Settles O23: TRAP and a literal word are trap entries; an entry without a handler it can take is fatal. -/
theorem trapsTaken : Obligations.TrapsTaken := by
  refine ⟨fun s k th w o ⟨hk, ht⟩ => ?_, fun s s' k th c arg va rpc cs handler ht => ?_⟩
  · subst hk
    refine ⟨onThread_next (fun t th => s.takeTrapAt t .softwareTrap (o.imm.setWidth 16) 0#64 (th.pc + 12#64)) ht, ?_⟩
    rw [← State.takeTrap_eq ht]
    exact onThread_next (fun t _ => s.takeTrap t .illegalLiteral 0#64) ht
  · exact ⟨fun hv => State.takeTrapAt_no_handler ht hv c arg va rpc, fun hv hf hd =>
      State.takeTrapAt_double ht hv hf (hd.imp_right (handlerOk_eq_false_iff handler).mpr) c arg va rpc⟩

end Sys2Proof.Machine
end

section
namespace Sys2Proof.Machine

/-! ### States that only reads of operands have changed -/

theorem Draws.taskReclaimed {s s' : State} {k : Nat} {th : Thread} (h : s.thread? k = some th) (hd : Draws s k th s') :
    s'.taskReclaimed k = s.taskReclaimed k := by
  obtain ⟨sh, sd, rfl⟩ := hd
  exact State.taskReclaimed_setThread h rfl

/-- The state is `s` but for the clock shadow of thread `k`, which is `th` there. -/
def Reads (s : State) (k : Nat) (th : Thread) (s' : State) : Prop :=
  ∃ shadow, s' = s.setThread k { th with shadow := shadow }

section
variable {s s' : State} {k : Nat} {th : Thread}

theorem Reads.refl (h : s.thread? k = some th) : Reads s k th s := ⟨th.shadow, (State.setThread_thread h).symm⟩

theorem Reads.read (hd : Reads s k th s') (w64 sg : Bool) (imm : DWord) (x : Operand) :
    Reads s k th (s'.read k w64 sg imm x).2 := by
  obtain ⟨sh, rfl⟩ := hd
  rw [State.read_eq (State.thread_setThread_self ..)]
  cases x with
  | sreg n =>
    simp only [State.afterRead, State.readShadow]
    split
    · rw [State.modThread_eq (State.thread_setThread_self ..), State.setThread_setThread]; exact ⟨_, rfl⟩
    · exact ⟨sh, rfl⟩
  | gpr | const | latch | pred | small | imm | litLo | litHi | lit => exact ⟨sh, rfl⟩

theorem Reads.effAddr (hd : Reads s k th s') (m : MemMod) (o : Opnds) (index : Bool) :
    Reads s k th (s'.effAddr k m o index).2 := by
  cases index with
  | false => exact hd.read ..
  | true => exact (hd.read ..).read ..

theorem Reads.readData (hd : Reads s k th s') (z : Size) (x : Operand) : Reads s k th (s'.readData k z x).2 := by
  cases z with
  | b128 => simp only [State.readData]; split <;> exact hd
  | b64 | b8 | b16 | b32 | s8 | s16 => exact hd.read ..

theorem Reads.groupOf (h : s.thread? k = some th) (hd : Reads s k th s') : s'.groupOf k = s.groupOf k := by
  obtain ⟨sh, rfl⟩ := hd
  exact State.groupOf_setThread h rfl

theorem Reads.spadOutside (hd : Reads s k th s') (l cl off n : Nat) : s'.spadOutside l cl off n = s.spadOutside l cl off n := by
  obtain ⟨sh, rfl⟩ := hd
  rfl

end

/-! ### Effective addresses (R37) -/

theorem State.effAddr_no_index (s : State) (k : Nat) (m : MemMod) (o : Opnds) :
    (s.effAddr k m o false).1 = (s.read64 k o.a).1 + m.disp.signExtend 64 := by
  simp [State.effAddr]

theorem State.effAddr_index (s : State) (k : Nat) (m : MemMod) (o : Opnds) :
    (s.effAddr k m o true).1 = BitVec.ofInt 64 (((s.read64 k o.a).1.toNat : Int) +
      ((s.read64 k o.a).2.read32 k o.b).1.toInt * 2 ^ m.scale.toNat + m.disp.toInt) := by
  have scaled (b : Word) (n : Nat) : b.signExtend 64 <<< n = BitVec.ofInt 64 (b.toInt * 2 ^ n) := by
    have hpow : BitVec.twoPow 64 n = BitVec.ofInt 64 (2 ^ n) := by
      have hcast : (2 : Int) ^ n = ((2 ^ n : Nat) : Int) := by simp
      rw [hcast, BitVec.ofInt_natCast]
      exact BitVec.eq_of_toNat_eq (by simp [BitVec.toNat_twoPow])
    rw [BitVec.shiftLeft_eq_mul_twoPow, BitVec.ofInt_mul, BitVec.signExtend, hpow]
  have ha (a : DWord) : BitVec.ofInt 64 a.toNat = a := by simp
  rw [BitVec.ofInt_add, BitVec.ofInt_add, ← scaled, ha]
  rfl

/-! ### What stops an access (R136, R140) -/

theorem State.withSpad_onLC (s : State) {k : Nat} (hc : threadOnLC k = true) (a : DWord) (n : Nat) (f : Nat → Nat → State → State) :
    s.withSpad k a n f = s.takeTrap k .unsupportedOnLc (BitVec.ofNat 64 (a.toNat % 2 ^ 21)) := by
  simp only [State.withSpad, hc, if_true]

theorem State.withSpad_misaligned (s : State) {k n : Nat} {a : DWord} (hc : threadOnLC k = false)
    (ha : a.toNat % 2 ^ 21 % n ≠ 0) (f : Nat → Nat → State → State) :
    s.withSpad k a n f = s.takeTrap k .misaligned (BitVec.ofNat 64 (a.toNat % 2 ^ 21)) := by
  simp only [State.withSpad, hc, Bool.false_eq_true, if_false, if_pos ha]

theorem State.withSpad_outside {s : State} {k n : Nat} {a : DWord} {g : Group} (hc : threadOnLC k = false)
    (ha : a.toNat % 2 ^ 21 % n = 0) (hg : s.groupOf k = some g)
    (ho : s.spadOutside g.launch (clusterOfCore (coreOfThread k)) (a.toNat % 2 ^ 21) n ≠ none) (f : Nat → Nat → State → State) :
    s.withSpad k a n f = s.takeTrap k .protection (BitVec.ofNat 64 (a.toNat % 2 ^ 21)) := by
  simp only [State.withSpad, hc, Bool.false_eq_true, if_false, ne_eq, ha, not_true_eq_false, hg, Option.isSome_iff_ne_none, ho,
    not_false_eq_true, if_true]

theorem State.withGlobal_misaligned (s : State) (k : Nat) {q : Req} (hn : q.size ≠ 0) (ha : q.va.toNat % q.size ≠ 0)
    (f : DWord → Nat → State → State) : s.withGlobal k q f = s.takeTrap k .misaligned q.va :=
  if_pos ⟨hn, ha⟩

theorem State.withGlobal_beyond (s : State) (k : Nat) {q : Req} (ha : q.va.toNat % q.size = 0) (hb : 2 ^ 55 ≤ q.va.toNat)
    (f : DWord → Nat → State → State) : s.withGlobal k q f = s.takeTrap k .protection q.va := by
  have hb' : q.va.extractLsb' 55 9 ≠ 0#9 := fun h => absurd ((high9_eq_zero_iff _).mp h) (by omega)
  rw [State.withGlobal, if_neg (fun h => h.2 ha), if_pos hb']

theorem bytes_ne_zero (z : Size) : z.bytes ≠ 0 := by cases z <;> decide

theorem orderedMem_next {s : State} {k : Nat} {th : Thread} (h : Claims.Acts s k th) (hp : s.acquirePending k = false)
    (f : Nat → Thread → State) : orderedMem s f = .next (f k th) := by
  obtain ⟨rfl, ht⟩ := h
  rw [orderedMem, onThread_next _ ht, hp, if_neg Bool.false_ne_true]

/-- The operands of a load, a store or an atomic have been read from `s`; what follows is an access at `va`. -/
def Accesses (s : State) (k : Nat) (th : Thread) (m : MemMod) (va : DWord) (out : Out) : Prop :=
  ∃ s' f q g, Reads s k th s' ∧ q.va = va ∧ q.size = m.size.bytes ∧
    out = .next (if m.sp then s'.withSpad k va m.size.bytes f else s'.withGlobal k q g)

theorem accesses_of_checks {s s' : State} {k : Nat} {th : Thread} {m : MemMod} {va : DWord} {q : Req} {t : State}
    {f : Nat → Nat → State → State} {g : DWord → Nat → State → State} (hr : Reads s k th s')
    (ht : t = if m.sp then s'.withSpad k va m.size.bytes f else s'.withGlobal k q g)
    (hq : (q.va, q.size) = (va, m.size.bytes)) : Accesses s k th m va (.next t) :=
  ⟨s', f, q, g, hr, congrArg Prod.fst hq, congrArg Prod.snd hq, congrArg _ ht⟩

theorem exec_accesses {s : State} {k : Nat} {th : Thread} {i : Instr} {m : MemMod} {o : Opnds} {x : Bool}
    (h : Claims.Acts s k th) (hi : Claims.memAccess i = some (m, o, x)) (hp : s.acquirePending k = false) :
    Accesses s k th m (s.effAddr k m o x).1 (exec i s) := by
  have hr := (Reads.refl h.2).effAddr m o x
  cases i
  case ld =>
    cases hi
    show Accesses s k th m _ (execLd m o s)
    rw [execLd, orderedMem_next h hp]
    exact accesses_of_checks hr rfl rfl
  case st =>
    cases hi
    show Accesses s k th m _ (execSt m o s)
    rw [execSt, orderedMem_next h hp]
    exact accesses_of_checks (hr.readData ..) rfl rfl
  case atom op _ _ =>
    cases hi
    show Accesses s k th m _ (execAtom op m o s)
    rw [execAtom, atomic, orderedMem_next h hp]
    exact accesses_of_checks (hr.readData ..) rfl rfl
  case cas =>
    cases hi
    show Accesses s k th m _ (execCas m o s)
    rw [execCas, atomic, orderedMem_next h hp]
    exact accesses_of_checks ((hr.readData ..).readData ..) rfl rfl
  all_goals cases hi

/-- Settles O25: the address is computed in ℤ modulo 2^64; the operands read, the first check that fails traps. -/
theorem accessChecks : Obligations.AccessChecks := by
  refine ⟨fun s k th m o ht => ⟨s.effAddr_no_index k m o, s.effAddr_index k m o, ?_⟩, ?_⟩
  · obtain ⟨sh, hs⟩ := (Reads.refl ht).effAddr m o true
    exact ⟨_, hs, rfl⟩
  intro s k th i m o x h hi hp va off n
  obtain ⟨s', f, q, g, hr, hva, hsz, hout⟩ := exec_accesses h hi hp
  obtain ⟨sh, hs⟩ := id hr
  refine ⟨s', _, hs, rfl, fun hsp hc => ?_, fun hsp hc ha => ?_, fun hsp gr hc ha hg ho => ?_, fun hsp ha => ?_,
    fun hsp ha hb => ?_⟩
  · rw [hout, hsp, if_pos rfl, s'.withSpad_onLC hc]
  · rw [hout, hsp, if_pos rfl, s'.withSpad_misaligned hc ha]
  · rw [hout, hsp, if_pos rfl, State.withSpad_outside hc ha ((hr.groupOf h.2).trans hg) (by rwa [hr.spadOutside])]
  · rw [hout, hsp, if_neg Bool.false_ne_true, s'.withGlobal_misaligned k (by rw [hsz]; exact bytes_ne_zero _)
      (by rw [hva, hsz]; exact ha), hva]
  · rw [hout, hsp, if_neg Bool.false_ne_true, s'.withGlobal_beyond k (by rw [hva, hsz]; exact ha) (by rw [hva]; exact hb), hva]

/-! ### LDK (R142) -/

/-- Settles O35: the index is judged as the model does; the words go to D, and the word is passed. -/
theorem constantLoad : Obligations.ConstantLoad := by
  intro s k th th' m o h a e hth' hr
  have hd : Draws s k th a.2 := (Draws.refl h.2).read ..
  have hbad : (e < 0 ∨ 4095 < e ∨ (m.size = .b64 ∧ e % 2 ≠ 0)) ↔ (e < 0 ∨ 4096 ≤ e ∨ (m.size = .b64 ∧ e % 2 = 1)) := by
    have h1 : e % 2 ≠ 0 ↔ e % 2 = 1 := by omega
    have h2 : 4095 < e ↔ 4096 ≤ e := by omega
    rw [h1, h2]
  obtain ⟨rfl, ht⟩ := h
  show (_ → execLdk m o s = _) ∧ (_ → ∀ r, _ → _ → execLdk m o s = _)
  rw [execLdk, onThread_next _ ht]
  refine ⟨fun hb => congrArg _ (if_pos (hbad.mpr hb)), fun hb r ho hlt => congrArg _ ?_⟩
  have hreg : destReg o.d = some r.toNat := by simp [destReg, ho, hlt]
  refine (if_neg (fun hb' => hb (hbad.mp hb'))).trans ?_
  rw [hreg]
  show (State.modThread a.2 s.cur _).advance s.cur o.len = _
  rw [State.modThread_eq hth', State.advance_setThread _ hth' ((hd.taskReclaimed ht).trans hr) _
    (by rw [Thread.setRegs_frame])]
  rfl

end Sys2Proof.Machine
end

section
namespace Sys2Proof.Machine

/-! ### Loads on their way (R23, R141, R150) -/

theorem loadWords_length (z : Size) (v : Nat) : (loadWords z v).length = z.regs := by
  cases z <;> rfl

theorem wordsOf_four (v : Nat) : wordsOf v 4 =
    [BitVec.ofNat 32 v, BitVec.ofNat 32 (v / 2 ^ 32), BitVec.ofNat 32 (v / 2 ^ 64), BitVec.ofNat 32 (v / 2 ^ 96)] := by
  simp [wordsOf, Nat.div_div_eq_div_mul]

theorem Thread.pend_of_lt (th : Thread) {r : Nat} (h : r < 240) (n : Nat) :
    th.pend r n = { th with pending := th.pending ++ (List.range n).map (r + ·) } := if_pos h

theorem Thread.deliver_running {th : Thread} (h : th.status ≠ .exited) (r : Nat) (ws : List Word) :
    th.deliver r ws = Thread.wake { th.setRegs r ws with
      pending := th.pending.filter (fun p => !((List.range ws.length).map (r + ·)).contains p) } := by
  unfold Thread.deliver
  split
  · exact absurd ‹_› h
  · rw [Thread.setRegs_frame]

theorem State.deliver_eq {s : State} {k : Nat} {th : Thread} (h : s.thread? k = some th) (hx : th.status ≠ .exited) (r : Nat)
    (ws : List Word) : s.deliver k r ws = s.setThread k (Thread.wake { th.setRegs r ws with
      pending := th.pending.filter (fun p => !((List.range ws.length).map (r + ·)).contains p) }) := by
  rw [State.deliver, State.modThread_eq h, Thread.deliver_running hx]

/-- A word is completed the same where other results are on their way. -/
theorem State.advance_landings {s : State} {k : Nat} {th : Thread} (x : Thread) (h : s.thread? k = some th)
    (hr : s.taskReclaimed k = false) (ls : List Landing) (len : Nat) (hg : x.group = th.group) :
    ({ s.setThread k x with landings := ls } : State).advance k len =
      { s with threads := AMap.set s.threads k (Claims.passed len x), landings := ls } := by
  rw [State.advance_eq (s := { s.setThread k x with landings := ls }) (State.thread_setThread_self s k x)
    ((State.taskReclaimed_setThread h hg).trans hr)]
  simp [State.setThread, AMap.set_set]

section
variable {s : State} {k : Nat} {th : Thread} {o : Opnds} {r : Nat} (h : s.thread? k = some th)
  (hr : s.taskReclaimed k = false) (hd : destReg o.d = some r) (hlt : r < 240)
include h hr hd hlt

theorem State.finishLoad_eq (z : Size) (v : Nat) : s.finishLoad k z o v =
    { s with
      threads := AMap.set s.threads k (Claims.passed o.len
        { th with pending := th.pending ++ (List.range (loadWords z v).length).map (r + ·) })
      landings := s.landings ++ [⟨k, some r, loadWords z v, none, none, none⟩] } := by
  rw [State.finishLoad, hd, State.sendResult, State.modThread_eq h, th.pend_of_lt hlt]
  exact State.advance_landings { th with pending := _ } h hr _ _ rfl

theorem State.finishLate_eq (z : Size) (v : Nat) (a : LateLoad) : s.finishLate k z o v a =
    { s.finishLoad k z o v with
      landings := (s.landings.map (fun l => if l.overlaps k a.pa a.size.bytes then { l with again := none } else l)) ++
        [⟨k, some r, loadWords z v, none, none, some a⟩] } := by
  rw [State.finishLoad_eq h hr hd hlt, State.finishLate, hd]
  dsimp only
  rw [State.modThread_eq (s := s.fixLoads _) h, th.pend_of_lt hlt, loadWords_length]
  exact State.advance_landings (s := s.fixLoads _) { th with pending := _ } h hr _ _ rfl

end

/-- LOAD_LANDS of a plain load delivers what the landing gives now. -/
theorem execLoadLands_load {u : State} {n k r : Nat} {l : Landing} (hl : u.landings[n]? = some l) (hk : l.thread = k)
    (hr : l.reg = some r) (ht : l.tok = none) (hg : l.gid = none) :
    let p : State := { u with landings := u.landings.eraseIdx n }
    exec (.loadLands n) u = .next ((p.landingWords l).2.deliver k r (p.landingWords l).1) := by
  show execLoadLands n u = _
  simp only [execLoadLands, hl, hk, hr, ht, hg, Option.isSome_none, Bool.false_and, Bool.false_eq_true, if_false,
    State.deliverOpt]

theorem State.landingWords_settled (s : State) {l : Landing} (h : l.again = none) : s.landingWords l = (l.words, s) := by
  simp only [State.landingWords, h]

/-- A late load whose memory is out of service, or still reads the same, keeps its value. -/
theorem State.landingWords_same (s : State) {l : Landing} {a : LateLoad} (h : l.again = some a)
    (hs : s.backed a.pa = false ∨ loadWords a.size (leNat (s.uncounted a.core (fun q =>
      q.coreLoad a.core a.pa a.size.bytes a.entry a.na none)).1) = l.words) : s.landingWords l = (l.words, s) := by
  simp only [State.landingWords, h]
  cases hb : s.backed a.pa with
  | false => rfl
  | true => simp [hs.resolve_left (by simp [hb])]

/-- Where memory reads another value, the part chooses between the two. -/
theorem State.landingWords_choice (s : State) {l : Landing} {a : LateLoad} (h : l.again = some a) (hb : s.backed a.pa = true) :
    let seen := s.uncounted a.core (fun q => q.coreLoad a.core a.pa a.size.bytes a.entry a.na none)
    let now := loadWords a.size (leNat seen.1)
    let c := s.choose 2
    now ≠ l.words → s.landingWords l = if c.1 = 0 then (l.words, c.2)
      else (now, { seen.2 with choices := c.2.choices, free := c.2.free }) := by
  intro seen now c hne
  simp only [State.landingWords, h, hb, Bool.not_true, Bool.false_eq_true, if_false]
  exact if_neg hne

/-- Settles O34: a load ends as a pending result; it lands as `landingWords` says and is delivered to its thread. -/
theorem loadLands : Obligations.LoadLands := by
  intro s k v th z o r h hr hd hlt ws t
  have hreg : destReg o.d = some r.toNat := by simp [destReg, hd, hlt]
  refine ⟨State.finishLoad_eq h hr hreg hlt z v, State.finishLate_eq h hr hreg hlt z v, ?_, ?_, ?_, ?_, ?_,
    fun u x ws hu hx => State.deliver_eq hu hx _ ws, ?_⟩
  · rintro rfl; rfl
  · rintro rfl; rfl
  · rintro (rfl | rfl | rfl) <;> rfl
  · rintro rfl; rfl
  · rintro rfl; exact wordsOf_four v
  intro u n l hl hk hlr ht hg p
  have hexec : exec (.loadLands n) u = .next ((p.landingWords l).2.deliver k r.toNat (p.landingWords l).1) :=
    execLoadLands_load hl hk hlr ht hg
  refine ⟨fun ha => by rw [hexec, p.landingWords_settled ha], ?_⟩
  intro a ha seen now c
  refine ⟨fun hs => ?_, fun hb hne => ?_⟩
  · rw [hexec, p.landingWords_same ha hs]
  · have hw := p.landingWords_choice ha hb hne
    exact ⟨fun h0 => by rw [hexec, hw, if_pos h0], fun h0 => by rw [hexec, hw, if_neg h0]⟩

end Sys2Proof.Machine
end

section
namespace Sys2Proof.Machine

/-! ### The step of a thread, up to the meaning of its word (R33) -/

theorem step_thread {s : State} {t : Nat} {rest : List Nat} (h : s.issue = t :: rest) :
    step s = issueThread { s with issue := rest } t := by
  simp only [step, h]

theorem issueThread_next {s u : State} {t : Nat} (h : issueNow s t = .next u) :
    issueThread s t = .next (u.reclaimThread t) := by
  simp only [issueThread, h]

section
variable {s s1 : State} {t : Nat} {th : Thread} (h : s.thread? t = some th) (hm : s.mayIssue t th = true)
include h hm

theorem issueNow_misaligned (ha : th.pc.toNat % 4 ≠ 0) : issueNow s t = .next (s.takeTrap t .misaligned 0#64) := by
  have ha' : th.pc.extractLsb' 0 2 ≠ 0#2 := mt (low2_eq_zero_iff _).mp ha
  simp only [issueNow, h, hm, Bool.not_true, Bool.false_eq_true, if_false, if_pos ha']

variable (ha : th.pc.toNat % 4 = 0)
include ha

theorem issueNow_beyond (hb : 2 ^ 55 ≤ th.pc.toNat) : issueNow s t = .next (s.takeTrap t .protection th.pc) := by
  have ha' : th.pc.extractLsb' 0 2 = 0#2 := (low2_eq_zero_iff _).mpr ha
  have hb' : th.pc.extractLsb' 55 9 ≠ 0#9 := fun e => absurd ((high9_eq_zero_iff _).mp e) (by omega)
  simp only [issueNow, h, hm, Bool.not_true, Bool.false_eq_true, if_false, ha', ne_eq, not_true_eq_false, hb',
    not_false_eq_true, if_true]

variable (hb : th.pc.toNat < 2 ^ 55)
include hb

theorem issueNow_fails {va : DWord} {r : Xl} (hf : s.fetchWord false (coreOfThread t) th.pc th.sup = (.fails va r, s1)) :
    issueNow s t = .next (s1.fetchFails t th.pc th.sup (.fails va r)) := by
  have ha' : th.pc.extractLsb' 0 2 = 0#2 := (low2_eq_zero_iff _).mpr ha
  have hb' : th.pc.extractLsb' 55 9 = 0#9 := (high9_eq_zero_iff _).mpr hb
  simp only [issueNow, h, hm, Bool.not_true, Bool.false_eq_true, if_false, ha', ne_eq, not_true_eq_false, hb', hf]

variable {w : BitVec 96} (hf : s.fetchWord false (coreOfThread t) th.pc th.sup = (.word w, s1))
include hf

/-- A branch's target that fails its checks is trapped at (R30, R124). -/
theorem issueNow_target_refused {s2 : State} (hc : s1.checkTarget t th w = (true, s2)) : issueNow s t = .next s2 := by
  have ha' : th.pc.extractLsb' 0 2 = 0#2 := (low2_eq_zero_iff _).mpr ha
  have hb' : th.pc.extractLsb' 55 9 = 0#9 := (high9_eq_zero_iff _).mpr hb
  simp only [issueNow, h, hm, Bool.not_true, Bool.false_eq_true, if_false, ha', ne_eq, not_true_eq_false, hb', hf, hc,
    if_true]

/-- A word that its thread does not hold back for RECONV is issued. -/
theorem issueNow_word {s2 : State} (hc : s1.checkTarget t th w = (false, s2)) (hr : reconvBit w = false ∨ th.reconvDone = true) :
    issueNow s t = issueWord s2 t th w := by
  have ha' : th.pc.extractLsb' 0 2 = 0#2 := (low2_eq_zero_iff _).mpr ha
  have hb' : th.pc.extractLsb' 55 9 = 0#9 := (high9_eq_zero_iff _).mpr hb
  have hr' : (reconvBit w && !th.reconvDone) = false := by
    rcases hr with hr | hr <;> simp [hr]
  simp only [issueNow, h, hm, Bool.not_true, Bool.false_eq_true, if_false, ha', ne_eq, not_true_eq_false, hb', hf, hc, hr']

end

/-! ### Probing a word that an instruction reads -/

theorem State.probeWord_word {s s1 : State} {t : Nat} {a : DWord} {sup : Bool} {w : BitVec 96}
    (hf : s.fetchWord false (coreOfThread t) a sup = (.word w, s1)) (f : Fetched → State → State) :
    s.probeWord t a sup f = f (.word w) s1 := by
  simp only [State.probeWord, hf]

theorem State.probeWord_fails {s s1 : State} {t : Nat} {a va : DWord} {sup : Bool} {r : Xl}
    (hf : s.fetchWord false (coreOfThread t) a sup = (.fails va r, s1)) (f : Fetched → State → State) :
    s.probeWord t a sup f = f (.fails va r) s1 := by
  simp only [State.probeWord, hf]

/-! ### Branch targets and links (R122, R123, R129) -/

theorem targetFault_eq_none {a : DWord} (ha : a.toNat % 4 = 0) (hb : a.toNat < 2 ^ 55) : targetFault a = none := by
  rw [targetFault, (low2_eq_zero_iff a).mpr ha, (high9_eq_zero_iff a).mpr hb]
  rfl

/-- The loop stack loses its upper entries whose bodies do not hold the target. -/
theorem Thread.unwind_eq (a : DWord) (n : Nat) (th : Thread) (h : th.depth ≤ n) :
    ∃ d, Claims.UnwoundTo th a d ∧ th.unwind a n = { th with depth := d } := by
  have stays (hs : 0 < th.depth → Claims.inBody (loopAt th.loop (th.depth - 1)) a) : Claims.UnwoundTo th a th.depth :=
    ⟨Nat.le_refl _, fun j h1 h2 => absurd h2 (by omega), hs⟩
  induction n generalizing th with
  | zero => exact ⟨th.depth, stays (by omega), rfl⟩
  | succ n ih =>
    by_cases h0 : th.depth = 0
    · exact ⟨th.depth, stays (by omega), by rw [Thread.unwind, if_pos h0]⟩
    by_cases hin : Claims.inBody (loopAt th.loop (th.depth - 1)) a
    · exact ⟨th.depth, stays fun _ => hin, by rw [Thread.unwind, if_neg h0]; exact if_pos hin⟩
    obtain ⟨d, ⟨hle, hout, hbody⟩, he⟩ := ih { th with depth := th.depth - 1 } (by simp only; omega)
      (fun hs => ⟨Nat.le_refl _, fun j h1 h2 => absurd h2 (by omega), hs⟩)
    refine ⟨d, ⟨by simp only at hle; omega, fun j h1 h2 => ?_, hbody⟩, ?_⟩
    · by_cases hj : j = th.depth - 1
      · rw [hj]; exact hin
      · exact hout j h1 (by simp only; omega)
    · rw [Thread.unwind, if_neg h0]
      exact (if_neg hin).trans he

theorem Thread.branch_eq {th : Thread} (h : th.depth ≤ 4) (a : DWord) :
    ∃ d, Claims.UnwoundTo th a d ∧ ∀ pc, th.branch a pc = { th with pc := pc, depth := d } := by
  obtain ⟨d, hd, he⟩ := th.unwind_eq a 4 h
  exact ⟨d, hd, fun pc => by rw [Thread.branch, he]⟩

theorem Thread.link_eq_linked (th : Thread) (d : Dest) (v : DWord) : th.link d v = Claims.linked d v th := by
  cases d with
  | gpr r =>
    have hw : wordsOf v.toNat 2 = [v.setWidth 32, v.extractLsb' 32 32] := by
      simp only [wordsOf]
      congr 2
      exact BitVec.eq_of_toNat_eq (by simp [Nat.shiftRight_eq_div_pow])
    rw [Thread.link, hw]
    rfl
  | pred | sreg | none | latch => rfl

theorem Thread.callingFrom_eq (th : Thread) (d : Dest) : th.callingFrom d = ⟨th.pc, th.depth, Claims.unlinked d th⟩ := by
  cases d <;> rfl

/-! ### Entering at a target (R30, R124) -/

theorem within_privilege {e : Entry} {sup : Bool} (h : e.sup = true → sup = true) : (e.sup && !sup) = false := by
  cases he : e.sup with
  | false => rfl
  | true => simp [h he]

section
variable {s s1 : State} {t : Nat} {th : Thread} {a : DWord} {w : BitVec 96} (d : Dest) (go : DWord → Thread)
  (hf : s.fetchWord false (coreOfThread t) a th.sup = (.word w, s1))
include hf

theorem enterTarget_no_entry (he : entryOk (Entry.ofNat w.toNat) .call = false) : enterTarget s t th a d go =
    (s1.setThread t { go a with calling := some ⟨th.pc, th.depth, Claims.unlinked d th⟩ }).takeTrap t .illegalTarget 0#64 := by
  rw [enterTarget, State.probeWord_word hf, ← th.callingFrom_eq]
  simp only [he, Bool.not_false, if_true]

variable (he : entryOk (Entry.ofNat w.toNat) .call = true)
include he

theorem enterTarget_privilege (hs : (Entry.ofNat w.toNat).sup = true) (hu : th.sup = false) :
    enterTarget s t th a d go = s1.takeTrap t .privilege 0#64 := by
  rw [enterTarget, State.probeWord_word hf]
  simp only [he, hs, hu, Bool.not_true, Bool.not_false, Bool.and_self, Bool.false_eq_true, if_false, if_true]

variable (hs : (Entry.ofNat w.toNat).sup = true → th.sup = true)
include hs

theorem enterTarget_budget (hb : s1.entryFits t th (Entry.ofNat w.toNat) = false) :
    enterTarget s t th a d go = s1.takeTrap t .budgetExceeded 0#64 := by
  have hp := within_privilege hs
  rw [enterTarget, State.probeWord_word hf]
  simp only [he, hp, hb, Bool.not_true, Bool.not_false, Bool.false_eq_true, if_false, if_true]

theorem enterTarget_enters (hb : s1.entryFits t th (Entry.ofNat w.toNat) = true) :
    enterTarget s t th a d go = s1.setThread t (go (a + 12#64)) := by
  have hp := within_privilege hs
  rw [enterTarget, State.probeWord_word hf]
  simp only [he, hp, hb, Bool.not_true, Bool.false_eq_true, if_false]

end

/-- A target that cannot be fetched now is checked with the thread's next fetch. -/
theorem enterTarget_fails {s s1 : State} {t : Nat} {th : Thread} {a va : DWord} {r : Xl} (d : Dest) (go : DWord → Thread)
    (hf : s.fetchWord false (coreOfThread t) a th.sup = (.fails va r, s1)) (hr : r ≠ .wait) : enterTarget s t th a d go =
    s1.setThread t { go a with calling := some ⟨th.pc, th.depth, Claims.unlinked d th⟩ } := by
  rw [enterTarget, State.probeWord_fails hf, ← th.callingFrom_eq]
  cases r with
  | wait => exact absurd rfl hr
  | ok | fault | mig => rfl

section
variable {s : State} {k : Nat} {th th' : Thread} {o : Opnds} (h : Claims.Acts s k th)
  (ht : (s.read64 k o.a).2.thread? k = some th') (ha : (s.read64 k o.a).1.toNat % 4 = 0)
  (hb : (s.read64 k o.a).1.toNat < 2 ^ 55)
include h ht ha hb

theorem exec_brxEntry : exec (.brxEntry o) s =
    .next (enterTarget (s.read64 k o.a).2 k th' (s.read64 k o.a).1 .none (fun pc => th'.branch (s.read64 k o.a).1 pc)) := by
  obtain ⟨rfl, h⟩ := h
  show execBrxEntry o s = _
  rw [execBrxEntry, onThread_next _ h]
  simp only [targetFault_eq_none ha hb, ht]

theorem exec_callx : exec (.callx o) s = .next (enterTarget (s.read64 k o.a).2 k th' (s.read64 k o.a).1 o.d
    (fun pc => { Claims.linked o.d (th'.pc + BitVec.ofNat 64 o.len) th' with pc := pc })) := by
  obtain ⟨rfl, h⟩ := h
  show execCallx o s = _
  rw [execCallx, onThread_next _ h]
  simp only [targetFault_eq_none ha hb, ht, Thread.link_eq_linked]

end

theorem State.read64_depth {s : State} {k : Nat} {th th' : Thread} (h : s.thread? k = some th) (x : Operand)
    (ht : (s.read64 k x).2.thread? k = some th') : th'.depth = th.depth := by
  obtain ⟨sh, hs⟩ := (Reads.refl h).read true false 0#64 x
  rw [State.read64, hs, State.thread_setThread_self] at ht
  cases ht
  rfl

/-! ### The checks of a target that a branch could not fetch (R30, R124) -/

/-- The thread as it was before the branch that left `c`. -/
theorem Thread.uncalled_eq {th : Thread} {c : Calling} (h : th.calling = some c) : th.uncalled =
    { (match c.link with
      | some (r, ws) => th.setRegs r ws
      | none => th) with pc := c.pc, depth := c.depth, calling := none } := by
  cases hl : c.link <;> simp only [Thread.uncalled, h, hl]

section
variable {s : State} {t : Nat} {th : Thread} {w : BitVec 96}

theorem State.checkTarget_none (h : th.calling = none) : s.checkTarget t th w = (false, s) := by
  simp only [State.checkTarget, h, Option.isNone_none, if_true]

variable (h : th.calling ≠ none)
include h

theorem State.checkTarget_no_entry (he : entryOk (Entry.ofNat w.toNat) .call = false) :
    s.checkTarget t th w = (true, s.takeTrap t .illegalTarget 0#64) := by
  simp only [State.checkTarget, Option.isNone_iff_eq_none, h, if_false, he, Bool.not_false, if_true]

variable (he : entryOk (Entry.ofNat w.toNat) .call = true)
include he

theorem State.checkTarget_privilege (hs : (Entry.ofNat w.toNat).sup = true) (hu : th.sup = false) :
    s.checkTarget t th w = (true, (s.setThread t th.uncalled).takeTrap t .privilege 0#64) := by
  simp only [State.checkTarget, Option.isNone_iff_eq_none, h, he, hs, hu, Bool.not_true, Bool.not_false, Bool.and_self,
    Bool.false_eq_true, if_false, if_true]

variable (hs : (Entry.ofNat w.toNat).sup = true → th.sup = true)
include hs

theorem State.checkTarget_budget (hb : s.entryFits t th (Entry.ofNat w.toNat) = false) :
    s.checkTarget t th w = (true, (s.setThread t th.uncalled).takeTrap t .budgetExceeded 0#64) := by
  have hp := within_privilege hs
  simp only [State.checkTarget, Option.isNone_iff_eq_none, h, he, hp, hb, Bool.not_true, Bool.not_false,
    Bool.false_eq_true, if_false, if_true]

theorem State.checkTarget_passes (hb : s.entryFits t th (Entry.ofNat w.toNat) = true) :
    s.checkTarget t th w = (false, s.modThread t (fun th => { th with calling := none })) := by
  have hp := within_privilege hs
  simp only [State.checkTarget, Option.isNone_iff_eq_none, h, he, hp, hb, Bool.not_true, Bool.false_eq_true, if_false]

end

/-- Settles O18: the checks of `enterTarget` in order, and those of `checkTarget` where the word had to be waited for. -/
theorem entryBranches : Obligations.EntryBranches := by
  refine ⟨?_, ?_, ?_⟩
  · intro s k th th' o w s1 h hd a ht ha hb hf e linkTo
    obtain ⟨d, hu, hbr⟩ := Thread.branch_eq (th := th') (by rw [State.read64_depth h.2 o.a ht]; exact hd) a.1
    rw [exec_brxEntry h ht ha hb, exec_callx h ht ha hb]
    refine ⟨fun he => ⟨⟨d, hu, ?_⟩, ?_⟩, fun he hs hu' i hi => ?_, fun he hs hfit i hi => ?_,
      fun he hs hfit => ⟨⟨d, hu, ?_⟩, ?_⟩⟩
    · rw [enterTarget_no_entry _ _ hf he, hbr]; rfl
    · rw [enterTarget_no_entry _ _ hf he]
    · have hx := fun d go => enterTarget_privilege (th := th') d go hf he hs hu'
      simp only [List.mem_cons, List.not_mem_nil, or_false] at hi
      obtain rfl | rfl := hi
      · rw [exec_brxEntry h ht ha hb, hx]
      · rw [exec_callx h ht ha hb, hx]
    · have hx := fun d go => enterTarget_budget (th := th') d go hf he hs hfit
      simp only [List.mem_cons, List.not_mem_nil, or_false] at hi
      obtain rfl | rfl := hi
      · rw [exec_brxEntry h ht ha hb, hx]
      · rw [exec_callx h ht ha hb, hx]
    · rw [enterTarget_enters _ _ hf he hs hfit, hbr]
    · rw [enterTarget_enters _ _ hf he hs hfit]
  · intro s k th th' o va r s1 h hd a ht ha hb hr hf
    obtain ⟨d, hu, hbr⟩ := Thread.branch_eq (th := th') (by rw [State.read64_depth h.2 o.a ht]; exact hd) a.1
    rw [exec_brxEntry h ht ha hb, exec_callx h ht ha hb, enterTarget_fails _ _ hf hr, enterTarget_fails _ _ hf hr, hbr]
    exact ⟨⟨d, hu, rfl⟩, rfl⟩
  · intro s s1 t rest th c w hi s0 h hm ha hb hc hf e back
    have h0 : s0.thread? t = some th := h
    have hcall : th.calling ≠ none := by simp [hc]
    have hback : th.uncalled = back := th.uncalled_eq hc
    rw [step_thread hi, ← hback]
    exact ⟨fun he => issueThread_next (issueNow_target_refused h0 hm ha hb hf (State.checkTarget_no_entry hcall he)),
      fun he hs hu => issueThread_next (issueNow_target_refused h0 hm ha hb hf (State.checkTarget_privilege hcall he hs hu)),
      fun he hs hfit => issueThread_next (issueNow_target_refused h0 hm ha hb hf (State.checkTarget_budget hcall he hs hfit))⟩

end Sys2Proof.Machine
end

section
namespace Sys2Proof.Machine

/-! ### What stops a decoded word (R23, R24) -/

/-- The state in which a decoded word of a thread has issued: its counts are taken. -/
def State.issuing (s : State) (t : Nat) (th : Thread) (d : Decoded) : State :=
  (s.modThread t (·.issued (!d.instr.latchesRead.isEmpty))).pmc (coreOfThread t) 0x02 1 (some th.sup)

section
variable {s : State} {t : Nat} {th : Thread} {d : Decoded} (h : s.thread? t = some th) (hg : th.guardHolds d.g = true)
include h hg

theorem issueDecoded_waits (hw : d.instr.regsNamed.filter (th.pending.contains ·) ≠ []) : issueDecoded s t d =
    .next (s.modThread t (fun x => { x with status := .scoreboard (d.instr.regsNamed.filter (th.pending.contains ·)) })) := by
  have hc : (th.guardHolds d.g && !(d.instr.regsNamed.filter (th.pending.contains ·)).isEmpty) = true := by
    simp only [hg, Bool.true_and, Bool.not_eq_true', List.isEmpty_eq_false_iff]
    exact hw
  simp only [issueDecoded, h]
  exact if_pos hc

theorem issueDecoded_stale (hw : d.instr.regsNamed.filter (th.pending.contains ·) = [])
    (hl : ∃ n ∈ d.instr.latchesRead, (th.latch n).valid = false) :
    issueDecoded s t d = .next ((s.issuing t th d).takeTrap t .latchStale 0#64) := by
  have hany : d.instr.latchesRead.any (fun n => !(th.latch n).valid) = true := by simpa using hl
  simp only [issueDecoded, h, hg, hw, hany, List.isEmpty_nil, Bool.not_true, Bool.and_false, Bool.false_eq_true, if_false,
    if_true]
  rfl

end

section
variable {s : State} {t : Nat} {th : Thread} {w : BitVec 96}

theorem issueWord_plain {d : Decoded} (hl : wordReadsLiteral w = false) (hd : decode (th.ctx t) w none = .ok d) :
    issueWord s t th w = issueDecoded s t d := by
  simp only [issueWord, hl, Bool.false_eq_true, if_false, hd]

theorem issueWord_bad {c : Code}
    (hd : decode (th.ctx t) w (if wordReadsLiteral w then some 0#64 else none) = .bad c) :
    issueWord s t th w = .next (s.takeTrap t c 0#64) := by
  cases hl : wordReadsLiteral w <;>
    simp only [hl, Bool.false_eq_true, if_false, if_true] at hd <;>
    simp only [issueWord, hl, hd, Bool.false_eq_true, if_false, if_true]

end

/-! ### The decode checks in their order (R33) -/

section
variable {ctx : DecodeCtx} {f : Fields} {lit : DWord}

theorem decodeFields_no_opcode (h : decodeModifiers f lit = none) : decodeFields ctx f lit = .bad .illegalOpcode := by
  simp only [decodeFields, h]

theorem decodeFields_privilege {i : Instr} (h : decodeModifiers f lit = some i) (hs : ctx.sup = false)
    (hc : f.opc.toNat / 256 = 0xC) : decodeFields ctx f lit = .bad .privilege := by
  simp only [decodeFields, h, hs, hc, beq_self_eq_true, Bool.true_or, Bool.not_false, Bool.and_self, if_true]

theorem decodeFields_onLC {i : Instr} (h : decodeModifiers f lit = some i) (hs : ctx.sup = true) (hl : ctx.onLC = true)
    (h7 : 7 ≤ f.opc.toNat / 256) (h10 : f.opc.toNat / 256 ≤ 10) (hi : ∀ o, i ≠ .barstatX o) :
    decodeFields ctx f lit = .bad .unsupportedOnLc := by
  have hc : classNotOnLC f.opc i = true := by
    unfold classNotOnLC
    split
    · exact absurd rfl (hi _)
    · simp [h7, h10]
  simp only [decodeFields, h, hs, hl, hc, Bool.not_true, Bool.false_and, Bool.and_self, Bool.false_eq_true, if_false, if_true]

/-- A reserved hint bit is no encoding (R14). -/
theorem decodeModifiers_hint (h : f.h.getLsbD 0 = true) : decodeModifiers f lit = none := by
  unfold decodeModifiers
  dsimp only
  split
  · rfl
  · simp [need, h]

/-- Class 0xE is reserved (R17). -/
theorem decodeModifiers_classE (h : f.opc.toNat / 256 = 0xE) : decodeModifiers f lit = none := by
  simp only [decodeModifiers, decodeOp, h]

end

/-- Settles O58: each check of `issueNow`, of the decoder and of `issueDecoded`, where those before it pass. -/
theorem stepTraps : Obligations.StepTraps := by
  refine ⟨?_, ?_, ?_⟩
  · intro s s1 t rest th hi s0 h hm
    have h0 : s0.thread? t = some th := h
    rw [step_thread hi]
    refine ⟨fun ha => issueThread_next (issueNow_misaligned h0 hm ha),
      fun ha hb => issueThread_next (issueNow_beyond h0 hm ha hb), fun ha hb => ⟨fun va c l e hf =>
        issueThread_next (issueNow_fails h0 hm ha hb hf), fun w hf hcall hrec => ?_⟩⟩
    have hword : issueNow s0 t = issueWord s1 t th w :=
      issueNow_word h0 hm ha hb hf (State.checkTarget_none hcall) hrec
    refine ⟨fun c hd => issueThread_next (hword.trans (issueWord_bad hd)), fun d hl hd h1 hg => ?_⟩
    have hdec : issueNow s0 t = issueDecoded s1 t d := hword.trans (issueWord_plain hl hd)
    exact ⟨fun hw => issueThread_next (hdec.trans (issueDecoded_waits h1 hg hw)),
      fun hw hstale => issueThread_next (hdec.trans (issueDecoded_stale h1 hg hw hstale))⟩
  · intro ctx w next f hlt
    exact ⟨fun hn => decode_bad hlt (decodeFields_no_opcode hn), fun i hi =>
      ⟨fun hs hc => decode_bad hlt (decodeFields_privilege hi hs hc), fun hs hl h7 h10 hx =>
        decode_bad hlt (decodeFields_onLC hi hs hl h7 h10 hx)⟩⟩
  · intro ctx w next f
    exact ⟨fun hlt hh => decode_bad hlt (decodeFields_no_opcode (decodeModifiers_hint hh)), fun hE =>
      have hlt : f.opc.toNat < 0xFFE := by omega
      decode_bad hlt (decodeFields_no_opcode (decodeModifiers_classE hE))⟩

end Sys2Proof.Machine
end

section
namespace Sys2Proof.Machine

/-! ### A fetch that wakes a die (R376, R385) -/

/-- A translation of the page at 0x10000 to the first page of die 0's weight store: present, a leaf, shared. -/
def sleepingTlb : TlbEntry := ⟨0x10000, 3, BitVec.ofNat 64 (2 ^ 63 + 2 ^ 47 + 2 ^ 40 + 2 * 8192 + 1)⟩

/-- Die 0 is in service and in low-power state 1; the first latency core of the die holds the translation. -/
def sleepingState : State :=
  { State.reset with
    pcb := { State.reset.pcb with dieState := 2#16 }
    dies := [(0, { Die.init with power := 1#2 })]
    cores := [(1024, { Core.init with vtlb := [sleepingTlb] })] }

/-- The state after the fetch's translation. -/
def translatedState : State := (sleepingState.xlateFetch false (fetchReq 1024 0x10000#64 true)).2

theorem sleepingState_translates : (sleepingState.xlateFetch false (fetchReq 1024 0x10000#64 true)).1 =
    some (.ok sleepingTlb.entry 3 (2 ^ 40)) := by decide

theorem translatedState_sleeps : (translatedState.die 0).power = 1#2 := by decide

/-- A fetch from its weight store wakes the die. -/
theorem sleepingState_fetch_wakes : ((sleepingState.fetchWord false 1024 0x10000#64 true).2.die 0).power = 0#2 := by decide

/-- Refutes O57: where the die of a weight-store page sleeps, the fetch wakes it (`State.needDie`, log entry 106), so the
state after a latency core's fetch is not the one after its translation. -/
theorem not_stepRunsDecoded : ¬ Obligations.StepRunsDecoded := by
  intro ⟨_, hfetch, _⟩
  have hword := (hfetch sleepingState translatedState 1024 3 0x10000#64 true sleepingTlb.entry (2 ^ 40) 0 (by decide)
    (by decide) (Prod.ext sleepingState_translates rfl) (by decide)).1 (.inl (Nat.le_refl _))
  have hpower := sleepingState_fetch_wakes
  rw [hword, translatedState_sleeps] at hpower
  exact absurd hpower (by decide)

end Sys2Proof.Machine
end

section
namespace Sys2Proof

/-- Settles O56: the decoder evaluated on each of the spec's words. -/
theorem specWordsDecode : Obligations.SpecWordsDecode := by
  refine ⟨?_, ?_, ?_, ?_, ?_, ?_, ?_, ?_, ?_, ?_, ?_⟩ <;> decide

end Sys2Proof
end
